-- ==== Sys2Proof/Word.lean ====
section
/-! DEFINITION. The words of the machine: bytes, 32-bit words, virtual addresses, and a register or memory word that
may hold the poison codeword (spec/04 R79, spec/12 R244). -/

namespace Sys2Proof

/-- A byte of memory. -/
abbrev Byte := BitVec 8

/-- A 32-bit register or instruction word. -/
abbrev Word := BitVec 32

/-- A 64-bit virtual address (R196). -/
abbrev VA := BitVec 64

/-- A 52-bit physical address (R18). -/
abbrev PA := BitVec 52

/-- What a protected 32-bit word holds: data, or the poison codeword (R79). -/
inductive Val where
  | word (w : Word)
  | poison
  deriving DecidableEq, Repr, Inhabited

/-- `Poisoned(v)` of R6. -/
def Val.isPoison : Val → Bool
  | .word _ => false
  | .poison => true

/-- The data bits of a word; a poisoned word has none and gives 0 where a total value is needed. -/
def Val.bits : Val → Word
  | .word w => w
  | .poison => 0

/-- The poison codeword cannot be data: lift a computation over one word. -/
def Val.map (f : Word → Word) : Val → Val
  | .word w => .word (f w)
  | .poison => .poison

/-- R106: any poisoned source gives poison. -/
def Val.map2 (f : Word → Word → Word) : Val → Val → Val
  | .word a, .word b => .word (f a b)
  | _, _ => .poison

end Sys2Proof
end

