-- ==== Sys2Proof/Config.lean ====
section
/-! DEFINITION. What the spec leaves to an implementation, and its free values. None has a body: nothing can be proved of a
particular value (notes/assumptions/7.md and the entries it names). -/

namespace Sys2Proof.Config

/-- R118: which of the floats within the bound of the exact result `frcp`, `frsq`, `fexp2` and `flog2` deliver, counted up from the lowest. -/
opaque frcpPick : Word → Nat
opaque frsqPick : Word → Nat
opaque fexp2Pick : Word → Nat
opaque flog2Pick : Word → Nat

/-- R300: the seed that the random generator draws at its n-th draw. -/
opaque seed : Nat → BitVec 128

/-- R300: the mask of a word at a storage position under a seed. -/
opaque scramble : BitVec 128 → Nat → Word

/-- R303: words of an SPDM response whose content the spec leaves to DMTF's standard, by a running number. -/
opaque spdm : Nat → BitVec 64

/-- R304: how many bytes an SPDM ERROR takes, and the message bytes of a response in its slots, whose encoding DMTF's standard gives: by the
response's number, the slot's part of it, and the word. -/
opaque errorBytes : Nat → Nat
opaque slotText : Nat → Nat → Nat → Word

/-- R305: the words of the report on a world, of its configuration. -/
opaque report : List (BitVec 64) → List (BitVec 64)

/-- R308, R309, R312: SHA-512 of a message given by its words, and an Ed25519 signature over a digest. -/
opaque sha512 : List (BitVec 64) → BitVec 512
opaque sign : BitVec 512 → BitVec 512

/-- R312: the digests that the boot chain extends: part n of the image that a digest names (0 BL1, 1 BL2, 2 to 4 the die, pier and
abutment firmware), and that of an image's security version with the fuses. -/
opaque partDigest : BitVec 512 → Nat → BitVec 512
opaque versionDigest : Nat → BitVec 64 → BitVec 512

/-- R301: the key pair and tag key that the management core draws for world 0 at a boot. -/
opaque bootXts : Nat → BitVec 512
opaque bootTag : Nat → BitVec 256

/-- R317, R326, R327: what the payloads of a get request (its length ÷ 16), an atomic (cas or add, operand, swap value) and a NAK
(a status) hold is not laid out: what is sent, and how what comes is read. -/
opaque netGetReq : Nat → List (Option Byte)
opaque netGetLen : List (Option Byte) → Nat
opaque netAtReq : Bool → BitVec 64 → BitVec 64 → List (Option Byte)
opaque netAtArgs : List (Option Byte) → Bool × BitVec 64 × BitVec 64
opaque netNakBody : BitVec 8 → List (Option Byte)
opaque netNakStatus : List (Option Byte) → BitVec 8

/-- R317: the tag of AES-256-GCM under a key and nonce, of a header and a payload. -/
opaque gcmTag : BitVec 256 → BitVec 96 → List (Option Byte) → List (Option Byte) → BitVec 128

/-- R343: the bytes of a packet beyond the first, the DCC beyond one that it waits in its path's egress queue, and those beyond one until the
link has acknowledged it. By a running number. -/
opaque egressBytes : Nat → Nat
opaque egressWait : Nat → Nat
opaque egressAck : Nat → Nat

/-- R198: whether a cached translation is still used. By a running number. -/
opaque tlbOld : Nat → Bool

/-- R10, R19, R20: MiB of data capacity of X0 and X1. PRESUMED 4,096 GB (decimal, R9) installed in whole MiB, less the top sixteenth
(notes/assumptions/5.md). -/
def cxlMiB : Nat := 3906250 - 3906250 / 16 - 1

/-- R239, R360: how many of the packets that cross a failed link had already left its sender. By a running number. -/
opaque linkCut : Nat → Nat

/-- A free value by a running number, for results the spec does not state. -/
opaque freeWord : Nat → Word
opaque freeBits : Nat → BitVec 64

end Sys2Proof.Config
end

