-- ==== Sys2Proof/Machine/Flags.lean ====
section
/-! DEFINITION. The sticky floating-point flags (spec/05 R98), and the compare conditions (spec/06 R123). -/

namespace Sys2Proof.Machine

/-- Flags raised: NV, DZ, OF, UF, NX from bit 4 down to bit 0, as FPF [11:7] holds them. -/
abbrev Flags := BitVec 5

def flagNV : Flags := 0b10000
def flagDZ : Flags := 0b01000
def flagOF : Flags := 0b00100
def flagUF : Flags := 0b00010
def flagNX : Flags := 0b00001

/-- Raise a flag when a condition holds. -/
def flagIf (b : Bool) (f : Flags) : Flags := if b then f else 0

/-- The flags of several lanes or elements together. -/
def Flags.all (fs : List Flags) : Flags := fs.foldl (· ||| ·) 0

/-- The CMP conditions (R123). -/
inductive Cond where
  | eq
  | ne
  | lt
  | le
  | gt
  | ge
  | ltu
  | leu
  | gtu
  | geu
  deriving DecidableEq, Repr

/-- Whether a condition holds of two words. -/
def Cond.holds (c : Cond) (a b : Word) : Bool :=
  match c with
  | .eq => a == b
  | .ne => a != b
  | .lt => a.slt b
  | .le => a.sle b
  | .gt => b.slt a
  | .ge => b.sle a
  | .ltu => a.ult b
  | .leu => a.ule b
  | .gtu => b.ult a
  | .geu => b.ule a

/-- How a compare combines with the old predicate (R123): set, and, or, xor. -/
def combine (cb : BitVec 2) (old c : Bool) : Bool :=
  match cb.toNat with
  | 0 => c
  | 1 => old && c
  | 2 => old || c
  | _ => old != c

end Sys2Proof.Machine
end

