-- ==== Sys2Proof/Machine/Fp.lean ====
section
/-! DEFINITION. Floating-point formats, exact arithmetic and the one rounding (spec/05 R89 to R105; spec/06 R115 to R122).
Operands become exact numbers m × 2^e, results are computed exactly and rounded once. -/

namespace Sys2Proof.Machine

/-- A format with infinities: exponent and fraction widths and the bias (R89). -/
structure Fmt where
  eb : Nat
  mb : Nat
  bias : Nat
  e4m3 : Bool := false
  deriving DecidableEq, Repr

def fp32 : Fmt := { eb := 8, mb := 23, bias := 127 }
def fp16 : Fmt := { eb := 5, mb := 10, bias := 15 }
def bf16 : Fmt := { eb := 8, mb := 7, bias := 127 }
def e5m2 : Fmt := { eb := 5, mb := 2, bias := 15 }
/-- E4M3 has no infinities; its only NaNs are 0x7F and 0xFF (R90). -/
def e4m3 : Fmt := { eb := 4, mb := 3, bias := 7, e4m3 := true }

/-- What bits stand for: a NaN (signalling or not), an infinity, or (−1)^neg × m × 2^e. -/
inductive FVal where
  | nan (signalling : Bool)
  | inf (neg : Bool)
  | fin (neg : Bool) (m : Nat) (e : Int)
  deriving DecidableEq, Repr

/-- F(x, fmt) of R110. -/
def Fmt.val (f : Fmt) (x : Nat) : FVal :=
  let frac := x % 2 ^ f.mb
  let ex := x / 2 ^ f.mb % 2 ^ f.eb
  let neg := x / 2 ^ (f.mb + f.eb) % 2 == 1
  if ex = 2 ^ f.eb - 1 ∧ ¬ f.e4m3 then
    if frac = 0 then .inf neg else .nan (frac / 2 ^ (f.mb - 1) % 2 == 0)
  else if ex = 2 ^ f.eb - 1 ∧ frac = 2 ^ f.mb - 1 then .nan false
  else if ex = 0 then .fin neg frac (1 - (f.bias : Int) - f.mb)
  else .fin neg (2 ^ f.mb + frac) ((ex : Int) - f.bias - f.mb)

/-- The canonical NaN written (R90). -/
def Fmt.canon (f : Fmt) : Nat :=
  if f.e4m3 then 0x7F else (2 ^ f.eb - 1) * 2 ^ f.mb + 2 ^ (f.mb - 1)

def Fmt.signBit (f : Fmt) (neg : Bool) : Nat := if neg then 2 ^ (f.eb + f.mb) else 0

/-- The largest finite magnitude (R89). -/
def Fmt.maxFinite (f : Fmt) : Nat :=
  if f.e4m3 then 0x7E else (2 ^ f.eb - 1) * 2 ^ f.mb - 1

/-- An infinite result: E4M3 clamps it to ±448 with OF and NX (R97, R102). -/
def Fmt.ofInf (f : Fmt) (neg : Bool) : Nat × Flags :=
  if f.e4m3 then (f.signBit neg + f.maxFinite, flagOF ||| flagNX)
  else (f.signBit neg + (2 ^ f.eb - 1) * 2 ^ f.mb, 0)

/-- Number of bits of n. -/
def bitLen (n : Nat) : Nat := if n = 0 then 0 else Nat.log2 n + 1

/-- Round m × 2^e, with anything below it told by `sticky`, to a multiple of 2^q in a mode: the multiple and whether it is
inexact (R95). -/
def roundAt (rm : BitVec 2) (neg : Bool) (m : Nat) (e : Int) (sticky : Bool) (q : Int) : Nat × Bool :=
  if q ≤ e then (m * 2 ^ (e - q).toNat, sticky)
  else
    let k := (q - e).toNat
    let n := m / 2 ^ k
    let rem := m % 2 ^ k
    let half := 2 ^ (k - 1)
    let inexact := rem != 0 || sticky
    let up :=
      match rm.toNat with
      | 0 => decide (half < rem) || (rem == half && (sticky || n % 2 == 1))
      | 1 => false
      | 2 => !neg && inexact
      | _ => neg && inexact
    (if up then n + 1 else n, inexact)

/-- Round an exact number to a format (R95, R97, R98, R100). -/
def Fmt.round (f : Fmt) (rm : BitVec 2) (neg : Bool) (m : Nat) (e : Int) (sticky : Bool := false) : Nat × Flags :=
  if m = 0 ∧ ¬ sticky then (f.signBit neg, 0)
  else
    let emin : Int := 1 - f.bias
    let q0 : Int := e + bitLen m - 1 - f.mb
    let qmin : Int := emin - f.mb
    let q := if q0 < qmin then qmin else q0
    let (n, inexact) := roundAt rm neg m e sticky q
    let (n0, _) := roundAt rm neg m e sticky q0
    let tiny := decide ((bitLen n0 : Int) + q0 ≤ emin) || n0 == 0
    let bits := (q - qmin).toNat * 2 ^ f.mb + n
    if f.maxFinite < bits then
      let toInf :=
        match rm.toNat with
        | 0 => true
        | 1 => false
        | 2 => !neg
        | _ => neg
      let r := if f.e4m3 then f.maxFinite else if toInf then (2 ^ f.eb - 1) * 2 ^ f.mb else f.maxFinite
      (f.signBit neg + r, flagOF ||| flagNX)
    else (f.signBit neg + bits, flagIf inexact flagNX ||| flagIf (inexact && tiny) flagUF)

/-- A signed integer at exponent e, as an exact number. -/
def roundInt (f : Fmt) (rm : BitVec 2) (zeroNeg : Bool) (n : Int) (e : Int) : Nat × Flags :=
  if n = 0 then (f.signBit zeroNeg, 0) else f.round rm (decide (n < 0)) n.natAbs e

/-- (−1)^neg × m as an integer. -/
def signed (neg : Bool) (m : Nat) : Int := if neg then - (m : Int) else m

/-- The exact sum of finite terms (sign, magnitude, exponent) as an integer at their least exponent. -/
def exactSum (ts : List (Bool × Nat × Int)) : Int × Int :=
  let lo := ts.foldl (fun acc t => if t.2.2 < acc then t.2.2 else acc) (match ts with | t :: _ => t.2.2 | [] => 0)
  (ts.foldl (fun acc t => acc + signed t.1 (t.2.1 * 2 ^ (t.2.2 - lo).toNat)) 0, lo)

/-- The sign of an exact zero sum of two terms (R100). -/
def zeroSign (rm : BitVec 2) (n1 n2 : Bool) : Bool := if n1 = n2 then n1 else rm.toNat == 3

def FVal.isNan : FVal → Bool
  | .nan _ => true
  | _ => false

def FVal.isSnan : FVal → Bool
  | .nan s => s
  | _ => false

def FVal.neg : FVal → FVal
  | .nan s => .nan s
  | .inf n => .inf (!n)
  | .fin n m e => .fin (!n) m e

/-- The exact sum of two values, rounded (R98, R100). -/
def Fmt.addV (f : Fmt) (rm : BitVec 2) (a b : FVal) : Nat × Flags :=
  if a.isNan ∨ b.isNan then (f.canon, flagIf (a.isSnan || b.isSnan) flagNV)
  else match a, b with
    | .inf x, .inf y => if x = y then f.ofInf x else (f.canon, flagNV)
    | .inf x, _ => f.ofInf x
    | _, .inf y => f.ofInf y
    | .fin n1 m1 e1, .fin n2 m2 e2 =>
      let (n, e) := exactSum [(n1, m1, e1), (n2, m2, e2)]
      roundInt f rm (zeroSign rm n1 n2) n e
    | _, _ => (f.canon, 0)

/-- The exact product of two finite or infinite values; none for 0 × ∞. -/
def mulV : FVal → FVal → Option FVal
  | .inf x, .inf y => some (.inf (x != y))
  | .inf x, .fin n m _ => if m = 0 then none else some (.inf (x != n))
  | .fin n m _, .inf y => if m = 0 then none else some (.inf (n != y))
  | .fin n1 m1 e1, .fin n2 m2 e2 => some (.fin (n1 != n2) (m1 * m2) (e1 + e2))
  | .nan s, _ => some (.nan s)
  | _, .nan s => some (.nan s)

def Fmt.mul (f : Fmt) (rm : BitVec 2) (a b : FVal) : Nat × Flags :=
  if a.isNan ∨ b.isNan then (f.canon, flagIf (a.isSnan || b.isSnan) flagNV)
  else match mulV a b with
    | none => (f.canon, flagNV)
    | some (.inf x) => f.ofInf x
    | some (.fin n m e) => f.round rm n m e
    | some (.nan _) => (f.canon, 0)

/-- a × b + d with one rounding (R103, R116): 0 × ∞ is invalid even when d is a quiet NaN. -/
def Fmt.fma (f : Fmt) (rm : BitVec 2) (a b d : FVal) : Nat × Flags :=
  if a.isNan ∨ b.isNan then (f.canon, flagIf (a.isSnan || b.isSnan || d.isSnan) flagNV)
  else match mulV a b with
    | none => (f.canon, flagNV)
    | some p => if d.isNan then (f.canon, flagIf d.isSnan flagNV) else f.addV rm p d

/-- −(a × b) + d (R116). -/
def Fmt.fnma (f : Fmt) (rm : BitVec 2) (a b d : FVal) : Nat × Flags := f.fma rm a.neg b d

/-- a < b as reals, infinities included; zeros equal. -/
def FVal.lt : FVal → FVal → Bool
  | .inf x, .inf y => x && !y
  | .inf x, .fin _ _ _ => x
  | .fin _ _ _, .inf y => !y
  | .fin n1 m1 e1, .fin n2 m2 e2 =>
    let (d, _) := exactSum [(n1, m1, e1), (!n2, m2, e2)]
    decide (d < 0)
  | _, _ => false

def FVal.isNeg : FVal → Bool
  | .nan _ => false
  | .inf n => n
  | .fin n _ _ => n

def FVal.isZero : FVal → Bool
  | .fin _ m _ => m == 0
  | _ => false

/-- minimumNumber and maximumNumber (R101) on the bits of two operands; −0 is below +0. -/
def Fmt.minMax (f : Fmt) (isMax : Bool) (x y : Nat) : Nat × Flags :=
  let a := f.val x
  let b := f.val y
  let fl := flagIf (a.isSnan || b.isSnan) flagNV
  if a.isNan ∧ b.isNan then (f.canon, fl)
  else if a.isNan then (y, fl)
  else if b.isNan then (x, fl)
  else
    let below := a.lt b || (a.isZero && b.isZero && a.isNeg && !b.isNeg)
    (if below != isMax then x else y, fl)

/-! ## Conversions (R102, R119, R120) -/

/-- To another floating format, rounded under RM; NaN is canonical, NV for a signalling one. -/
def Fmt.convert (f : Fmt) (rm : BitVec 2) (a : FVal) : Nat × Flags :=
  match a with
  | .nan s => (f.canon, flagIf s flagNV)
  | .inf n => f.ofInf n
  | .fin n m e => f.round rm n m e

/-- A real rounded to an integer under RM, and whether that is inexact. -/
def toInteger (rm : BitVec 2) (n : Bool) (m : Nat) (e : Int) : Int × Bool :=
  let (k, inexact) := roundAt rm n m e false 0
  (signed n k, inexact)

/-- FP32 to an integer range, saturating (R102). -/
def toIntSat (rm : BitVec 2) (lo hi : Int) (a : FVal) : Int × Flags :=
  match a with
  | .nan _ => (0, flagNV)
  | .inf n => (if n then lo else hi, flagNV)
  | .fin n m e =>
    let (k, inexact) := toInteger rm n m e
    if k < lo then (lo, flagNV) else if hi < k then (hi, flagNV) else (k, flagIf inexact flagNX)

/-! ## Special functions (R118) -/

/-- Floor of the square root by bits; `n` bits of root from the top. -/
def isqrtLoop : Nat → Nat → Nat → Nat
  | 0, _, r => r
  | n + 1, x, r =>
    let c := r + 2 ^ n
    isqrtLoop n x (if c * c ≤ x then c else r)

def isqrt (x : Nat) : Nat := isqrtLoop (bitLen x / 2 + 1) x 0

/-- `fsqrt`: correctly rounded to nearest even. -/
def fsqrt32 (a : FVal) : Nat × Flags :=
  match a with
  | .nan s => (fp32.canon, flagIf s flagNV)
  | .inf n => if n then (fp32.canon, flagNV) else (0x7F800000, 0)
  | .fin n m e =>
    if m = 0 then (fp32.signBit n, 0)
    else if n then (fp32.canon, flagNV)
    else
      let (m, e) := if e % 2 = 0 then (m, e) else (2 * m, e - 1)
      let x := m * 2 ^ 64
      let r := isqrt x
      fp32.round 0 false r (e / 2 - 32) (r * r != x)

/-- The place of the spacing of the FP32 numbers up from pattern x: subnormals have that of the least normals. -/
def stepOf (x : Nat) : Nat := if x / 2 ^ 23 = 0 then 1 else x / 2 ^ 23

/-- The lowest pattern reached from x down with a budget of half ulps of a value whose spacing is at e: a step in a lower binade costs half as
much. -/
def stepsDown (e : Nat) : Nat → Nat → Nat → Nat
  | 0, _, x => x
  | n + 1, b, x =>
    let c := if stepOf (x - 1) < e then 1 else 2
    if c ≤ b ∧ 1 ≤ x then stepsDown e n (b - c) (x - 1) else x

/-- The finite patterns within `ulps` of an exact magnitude between patterns t and t + 1, nearer to t or not: the lowest and the highest. A
magnitude below the least subnormal gives that (R118). -/
def nearby (ulps t : Nat) (nearT : Bool) : Nat × Nat :=
  if t = 0 then (1, 1)
  else
    let lo := stepsDown (stepOf t) (4 * ulps) (2 * ulps - (if nearT then 1 else 2)) t
    let hi := if ulps = 2 ∧ stepOf (t + 1) = stepOf t then t + 2 else t + 1
    (lo, if 0x7F7FFFFF < hi then 0x7F7FFFFF else hi)

/-- Deliver an approximate result y = m × 2^e (with sticky): exact, overflowing or vanishing as round to nearest even decides,
else one of the finite values within the bound of ulps (R118). -/
def approx (ulps : Nat) (neg : Bool) (m : Nat) (e : Int) (sticky : Bool) (pick : Nat) : Nat × Flags :=
  let (rne, fl) := fp32.round 0 neg m e sticky
  let sgn := fp32.signBit neg
  let mag := rne - sgn
  if fl &&& flagNX = 0 then (rne, fl)
  else if mag = 0x7F800000 ∨ mag = 0 then (rne, fl)
  else
    let (t, _) := fp32.round 1 neg m e sticky
    let x := nearby ulps (t - sgn) (mag == t - sgn)
    (sgn + x.1 + pick % (x.2 - x.1 + 1), fl)

def frcp32 (x : Word) (a : FVal) : Nat × Flags :=
  match a with
  | .nan s => (fp32.canon, flagIf s flagNV)
  | .inf n => (fp32.signBit n, 0)
  | .fin n m e =>
    if m = 0 then (fp32.signBit n + 0x7F800000, flagDZ)
    else
      let k := 2 ^ 80
      approx 1 n (k / m) (-80 - e) (k % m != 0) (Config.frcpPick x)

def frsq32 (x : Word) (a : FVal) : Nat × Flags :=
  match a with
  | .nan s => (fp32.canon, flagIf s flagNV)
  | .inf n => if n then (fp32.canon, flagNV) else (0, 0)
  | .fin n m e =>
    if m = 0 then (fp32.signBit n + 0x7F800000, flagDZ)
    else if n then (fp32.canon, flagNV)
    else
      let (m, e) := if e % 2 = 0 then (m, e) else (2 * m, e - 1)
      -- floor of sqrt(2^160 / m); exact only when m is a square that divides
      let q := 2 ^ 160 / m
      let r := isqrt q
      approx 1 false r (-80 - e / 2) (!(r * r == q && 2 ^ 160 % m == 0)) (Config.frsqPick x)

/-- 2^(2^−k) for k = 1, 2, … as 128-bit fractions, multiplied over the set bits of a fraction f / 2^n. -/
def exp2Frac : Nat → Nat → Nat → Nat → Nat
  | 0, _, _, acc => acc
  | n + 1, f, root, acc =>
    let root := isqrt (root * 2 ^ 128)
    let acc := if f / 2 ^ n % 2 = 1 then acc * root / 2 ^ 128 else acc
    exp2Frac n f root acc

def fexp2_32 (x : Word) (a : FVal) : Nat × Flags :=
  match a with
  | .nan s => (fp32.canon, flagIf s flagNV)
  | .inf n => (if n then 0 else 0x7F800000, 0)
  | .fin n m e =>
    if m = 0 then (0x3F800000, 0)
    else
      let pick := Config.fexp2Pick x
      if 9 < (bitLen m : Int) + e then
        -- |x| ≥ 512: the result overflows or vanishes
        approx 2 false 1 (if n then -1000 else 1000) true pick
      else if e ≥ 0 then approx 2 false 1 (signed n (m * 2 ^ e.toNat)) false pick
      else
        let k := (-e).toNat
        let v := signed n m
        let i := v / 2 ^ k
        let f := (v % 2 ^ k).toNat
        if f = 0 then approx 2 false 1 i false pick
        else
          -- bits past 120 only make the result inexact
          let (bits, nb) := if 120 < k then (f / 2 ^ (k - 120), 120) else (f, k)
          approx 2 false (exp2Frac nb bits (2 * 2 ^ 128) (2 ^ 128)) (i - 128) true pick

/-- The next n bits of log2 of x / 2^255 in [1, 2), by squaring. -/
def log2Bits : Nat → Nat → Nat → Nat
  | 0, _, acc => acc
  | n + 1, x, acc =>
    let y := x * x / 2 ^ 255
    if 2 ^ 256 ≤ y then log2Bits n (y / 2) (2 * acc + 1) else log2Bits n y (2 * acc)

def flog2_32 (x : Word) (a : FVal) : Nat × Flags :=
  match a with
  | .nan s => (fp32.canon, flagIf s flagNV)
  | .inf n => if n then (fp32.canon, flagNV) else (0x7F800000, 0)
  | .fin n m e =>
    if m = 0 then (0xFF800000, flagDZ)
    else if n then (fp32.canon, flagNV)
    else
      let l := bitLen m
      let ex : Int := e + l - 1
      let pick := Config.flog2Pick x
      if m = 2 ^ (l - 1) then roundInt fp32 0 false ex 0
      else
        let fr := log2Bits 100 (m * 2 ^ (256 - l)) 0
        let v : Int := ex * 2 ^ 100 + fr
        -- the exact result lies just above v: for negative results its magnitude lies just below |v|
        if v < 0 then approx 2 true (v.natAbs - 1) (-100) true pick else approx 2 false v.natAbs (-100) true pick

/-! ## Dot products and scaling (R103, R105, R121) -/

/-- The exact sum of products and an addend, rounded once to nearest even, in the order of decision of R121. -/
def dotFp (xs ys : List FVal) (d : FVal) : Nat × Flags :=
  let all := d :: (xs ++ ys)
  if all.any FVal.isNan then (fp32.canon, flagIf (all.any FVal.isSnan) flagNV)
  else
    let ps := (xs.zip ys).map (fun p => mulV p.1 p.2)
    if ps.any Option.isNone then (fp32.canon, flagNV)
    else
      let ts := d :: ps.filterMap id
      let pos := ts.any (fun t => t == .inf false)
      let neg := ts.any (fun t => t == .inf true)
      if pos && neg then (fp32.canon, flagNV)
      else if pos || neg then (fp32.signBit neg + 0x7F800000, 0)
      else
        let fs := ts.filterMap (fun t => match t with | .fin n m e => some (n, m, e) | _ => none)
        let (s, e) := exactSum fs
        let allNeg := fs.all (fun t => t.1)
        roundInt fp32 0 allNeg s e

/-- `scacc`, `scacc2` and `scmul` after the poison test (R105): int × 2^x, added to d when the form accumulates; a scale byte of
0xFF gives the canonical NaN. -/
def scaleFp (rm : BitVec 2) (n : Int) (x : Int) (nanScale : Bool) (d : Option FVal) : Nat × Flags :=
  let snan := match d with | some v => v.isSnan | none => false
  if nanScale then (fp32.canon, flagIf snan flagNV)
  else match d with
    | none => roundInt fp32 rm false n x
    | some (.nan s) => (fp32.canon, flagIf s flagNV)
    | some (.inf g) => (fp32.signBit g + 0x7F800000, 0)
    | some (.fin g m e) => fp32.addV rm (.fin (decide (n < 0)) n.natAbs x) (.fin g m e)

end Sys2Proof.Machine
end

