-- ==== Sys2Proof/Syntax.lean ====
section
/-! DEFINITION. The abstract syntax: one constructor per row of the opcode table. The 260 one-word rows carry their
encoding fields at their encoded widths (spec/02 R30); `lim` carries its literal; the 106 rows with no encoding are
the package's events (spec/95), whose arguments name the party, message or packet the event happens to. -/

namespace Sys2Proof

/-- A protected word that the scrubber, or a read, finds in error (R79, R80). -/
inductive ScrubAt where
  | vec (team reg lane : Nat)
  | uni (team reg : Nat)
  | pred (team reg word : Nat)
  | tile (team reg : Nat)
  | acc (team reg elem : Nat)
  | resid (team entry slot : Nat)
  | spad (crew word : Nat)
  | pool (die word : Nat)
  | pierSram (pier word : Nat)
  deriving DecidableEq, Repr

/-- A network datagram as its port receives it (R317): the header fields, the payload as it decrypts (a byte of a poisoned word is none), the
tag, and whether a switch has marked it (R322). -/
structure Datagram where
  port : Nat
  version : BitVec 8
  opcode : BitVec 8
  flags : BitVec 16
  conn : BitVec 32
  seq : BitVec 32
  iv : BitVec 32
  offset : BitVec 64
  payload : List (Option Byte)
  tag : BitVec 128
  mark : Bool := false
  deriving DecidableEq, Repr

/-- A word or an offset that the host writes at abutment W's port, or at abutment E's (R304). -/
structure PortWord where
  portE : Bool
  word : Word
  deriving DecidableEq, Repr

/-- One constructor per row of the opcode table. The field letters are those of the table. -/
inductive Instr where
  /-- `CLAUSE_HEADER`. A clause header is fetched and checked with all its words, then the guard, WAIT and class are applied before the words issue (R24). -/
  | clauseHeader (n : BitVec 1) (g : BitVec 3) (v : BitVec 4) (e : BitVec 1) (y : BitVec 1) (w : BitVec 6) (c : BitVec 3) (k : BitVec 4)
  /-- `ADD`. Adds two words per lane, modulo 2^32 (R111). -/
  | add (d : BitVec 7) (a : BitVec 7) (b : BitVec 7) (u : BitVec 1)
  /-- `SUB`. Subtracts per lane, modulo 2^32 (R111). -/
  | sub (d : BitVec 7) (a : BitVec 7) (b : BitVec 7) (u : BitVec 1)
  /-- `MULLO`. Writes the low word of the product per lane (R111). -/
  | mullo (d : BitVec 7) (a : BitVec 7) (b : BitVec 7) (u : BitVec 1)
  /-- `MULHI`. Writes the high word of the signed product per lane (R111). -/
  | mulhi (d : BitVec 7) (a : BitVec 7) (b : BitVec 7) (u : BitVec 1)
  /-- `MULHU`. Writes the high word of the unsigned product per lane (R111). -/
  | mulhu (d : BitVec 7) (a : BitVec 7) (b : BitVec 7) (u : BitVec 1)
  /-- `AND`. Writes the bitwise AND per lane (R111). -/
  | and (d : BitVec 7) (a : BitVec 7) (b : BitVec 7) (u : BitVec 1)
  /-- `OR`. Writes the bitwise OR per lane (R111). -/
  | or (d : BitVec 7) (a : BitVec 7) (b : BitVec 7) (u : BitVec 1)
  /-- `XOR`. Writes the bitwise XOR per lane (R111). -/
  | xor (d : BitVec 7) (a : BitVec 7) (b : BitVec 7) (u : BitVec 1)
  /-- `ANDN`. Writes a AND NOT b per lane (R111). -/
  | andn (d : BitVec 7) (a : BitVec 7) (b : BitVec 7) (u : BitVec 1)
  /-- `SHL`. Shifts left by the low five bits of b per lane (R111). -/
  | shl (d : BitVec 7) (a : BitVec 7) (b : BitVec 7) (u : BitVec 1)
  /-- `SHR`. Shifts right logically per lane (R111). -/
  | shr (d : BitVec 7) (a : BitVec 7) (b : BitVec 7) (u : BitVec 1)
  /-- `SRA`. Shifts right arithmetically per lane (R111). -/
  | sra (d : BitVec 7) (a : BitVec 7) (b : BitVec 7) (u : BitVec 1)
  /-- `MIN`. Writes the signed minimum per lane (R111). -/
  | min (d : BitVec 7) (a : BitVec 7) (b : BitVec 7) (u : BitVec 1)
  /-- `MAX`. Writes the signed maximum per lane (R111). -/
  | max (d : BitVec 7) (a : BitVec 7) (b : BitVec 7) (u : BitVec 1)
  /-- `MINU`. Writes the unsigned minimum per lane (R111). -/
  | minu (d : BitVec 7) (a : BitVec 7) (b : BitVec 7) (u : BitVec 1)
  /-- `MAXU`. Writes the unsigned maximum per lane (R111). -/
  | maxu (d : BitVec 7) (a : BitVec 7) (b : BitVec 7) (u : BitVec 1)
  /-- `ADDS`. Adds with signed saturation per lane (R112). -/
  | adds (d : BitVec 7) (a : BitVec 7) (b : BitVec 7) (u : BitVec 1)
  /-- `SUBS`. Subtracts with signed saturation per lane (R112). -/
  | subs (d : BitVec 7) (a : BitVec 7) (b : BitVec 7) (u : BitVec 1)
  /-- `ADDUS`. Adds with unsigned saturation per lane (R112). -/
  | addus (d : BitVec 7) (a : BitVec 7) (b : BitVec 7) (u : BitVec 1)
  /-- `SUBUS`. Subtracts with unsigned saturation per lane (R112). -/
  | subus (d : BitVec 7) (a : BitVec 7) (b : BitVec 7) (u : BitVec 1)
  /-- `ROTL`. Rotates left per lane (R112). -/
  | rotl (d : BitVec 7) (a : BitVec 7) (b : BitVec 7) (u : BitVec 1)
  /-- `POPC`. Counts the one bits per lane (R112). -/
  | popc (d : BitVec 7) (a : BitVec 7)
  /-- `CLZ`. Counts the leading zeros per lane (R112). -/
  | clz (d : BitVec 7) (a : BitVec 7)
  /-- `BREV`. Reverses the bits per lane (R112). -/
  | brev (d : BitVec 7) (a : BitVec 7)
  /-- `ABSD`. Writes the absolute signed difference per lane (R112). -/
  | absd (d : BitVec 7) (a : BitVec 7) (b : BitVec 7) (u : BitVec 1)
  /-- `AVGU`. Writes the rounded-up unsigned average per lane (R112). -/
  | avgu (d : BitVec 7) (a : BitVec 7) (b : BitVec 7) (u : BitVec 1)
  /-- `ADDI`. Adds a sign-extended 12-bit immediate per lane (R113). -/
  | addi (d : BitVec 7) (a : BitVec 7) (i : BitVec 12)
  /-- `ANDI`. ANDs with a sign-extended immediate per lane (R113). -/
  | andi (d : BitVec 7) (a : BitVec 7) (i : BitVec 12)
  /-- `ORI`. ORs with a sign-extended immediate per lane (R113). -/
  | ori (d : BitVec 7) (a : BitVec 7) (i : BitVec 12)
  /-- `XORI`. XORs with a sign-extended immediate per lane (R113). -/
  | xori (d : BitVec 7) (a : BitVec 7) (i : BitVec 12)
  /-- `SHLI`. Shifts left by an immediate amount per lane (R114). -/
  | shli (d : BitVec 7) (a : BitVec 7) (n : BitVec 5)
  /-- `SHRI`. Shifts right logically by an immediate amount per lane (R114). -/
  | shri (d : BitVec 7) (a : BitVec 7) (n : BitVec 5)
  /-- `SRAI`. Shifts right arithmetically by an immediate amount per lane (R114). -/
  | srai (d : BitVec 7) (a : BitVec 7) (n : BitVec 5)
  /-- `ROTLI`. Rotates left by an immediate amount per lane (R114). -/
  | rotli (d : BitVec 7) (a : BitVec 7) (n : BitVec 5)
  /-- `FADD`. Adds FP32 values per lane under RM (R115). -/
  | fadd (d : BitVec 7) (a : BitVec 7) (b : BitVec 7) (u : BitVec 1)
  /-- `FSUB`. Subtracts FP32 values per lane under RM (R115). -/
  | fsub (d : BitVec 7) (a : BitVec 7) (b : BitVec 7) (u : BitVec 1)
  /-- `FMUL`. Multiplies FP32 values per lane under RM (R115). -/
  | fmul (d : BitVec 7) (a : BitVec 7) (b : BitVec 7) (u : BitVec 1)
  /-- `FMIN`. Writes the IEEE minimumNumber per lane (R115). -/
  | fmin (d : BitVec 7) (a : BitVec 7) (b : BitVec 7) (u : BitVec 1)
  /-- `FMAX`. Writes the IEEE maximumNumber per lane (R115). -/
  | fmax (d : BitVec 7) (a : BitVec 7) (b : BitVec 7) (u : BitVec 1)
  /-- `FMA`. Writes va·vb + vd with one rounding per lane (R115). -/
  | fma (d : BitVec 7) (a : BitVec 7) (b : BitVec 7) (u : BitVec 1)
  /-- `FNMA`. Writes −(va·vb) + vd with one rounding per lane (R115). -/
  | fnma (d : BitVec 7) (a : BitVec 7) (b : BitVec 7) (u : BitVec 1)
  /-- `FCOPYSIGN`. Copies a with the sign bit of b per lane (R115). -/
  | fcopysign (d : BitVec 7) (a : BitVec 7) (b : BitVec 7) (u : BitVec 1)
  /-- `HADD2`. Adds packed FP16 pairs (R117). -/
  | hadd2 (d : BitVec 7) (a : BitVec 7) (b : BitVec 7) (u : BitVec 1)
  /-- `HMUL2`. Multiplies packed FP16 pairs (R117). -/
  | hmul2 (d : BitVec 7) (a : BitVec 7) (b : BitVec 7) (u : BitVec 1)
  /-- `HFMA2`. Fused multiply-adds packed FP16 pairs (R117). -/
  | hfma2 (d : BitVec 7) (a : BitVec 7) (b : BitVec 7) (u : BitVec 1)
  /-- `BADD2`. Adds packed BF16 pairs (R117). -/
  | badd2 (d : BitVec 7) (a : BitVec 7) (b : BitVec 7) (u : BitVec 1)
  /-- `BMUL2`. Multiplies packed BF16 pairs (R117). -/
  | bmul2 (d : BitVec 7) (a : BitVec 7) (b : BitVec 7) (u : BitVec 1)
  /-- `BFMA2`. Fused multiply-adds packed BF16 pairs (R117). -/
  | bfma2 (d : BitVec 7) (a : BitVec 7) (b : BitVec 7) (u : BitVec 1)
  /-- `HMIN2`. Writes the packed FP16 minimum (R117). -/
  | hmin2 (d : BitVec 7) (a : BitVec 7) (b : BitVec 7) (u : BitVec 1)
  /-- `HMAX2`. Writes the packed FP16 maximum (R117). -/
  | hmax2 (d : BitVec 7) (a : BitVec 7) (b : BitVec 7) (u : BitVec 1)
  /-- `FRCP`. Writes the approximate FP32 reciprocal per lane (R118). -/
  | frcp (d : BitVec 7) (a : BitVec 7)
  /-- `FRSQ`. Writes the approximate reciprocal square root per lane (R118). -/
  | frsq (d : BitVec 7) (a : BitVec 7)
  /-- `FSQRT`. Writes the correctly rounded square root per lane (R118). -/
  | fsqrt (d : BitVec 7) (a : BitVec 7)
  /-- `FEXP2`. Writes the approximate base-2 exponential per lane (R118). -/
  | fexp2 (d : BitVec 7) (a : BitVec 7)
  /-- `FLOG2`. Writes the approximate base-2 logarithm per lane (R118). -/
  | flog2 (d : BitVec 7) (a : BitVec 7)
  /-- `CVT_F_I`. Converts a signed integer to FP32 (R119). -/
  | cvtFI (d : BitVec 7) (a : BitVec 7)
  /-- `CVT_F_U`. Converts an unsigned integer to FP32 (R119). -/
  | cvtFU (d : BitVec 7) (a : BitVec 7)
  /-- `CVT_I_F`. Converts FP32 to a saturated INT32 (R119). -/
  | cvtIF (d : BitVec 7) (a : BitVec 7)
  /-- `CVT_U_F`. Converts FP32 to a saturated UINT32 (R119). -/
  | cvtUF (d : BitVec 7) (a : BitVec 7)
  /-- `CVT_BFP`. Packs two FP32 values as BF16 (R119). -/
  | cvtBfp (d : BitVec 7) (a : BitVec 7) (b : BitVec 7) (u : BitVec 1)
  /-- `CVT_F_BF`. Widens a BF16 element to FP32 (R119). -/
  | cvtFBf (d : BitVec 7) (a : BitVec 7) (e : BitVec 7)
  /-- `CVT_HP`. Packs two FP32 values as FP16 (R119). -/
  | cvtHp (d : BitVec 7) (a : BitVec 7) (b : BitVec 7) (u : BitVec 1)
  /-- `CVT_F_H`. Widens an FP16 element to FP32 (R119). -/
  | cvtFH (d : BitVec 7) (a : BitVec 7) (e : BitVec 7)
  /-- `CVT_E4L`. Packs two FP32 values into the low bytes as E4M3 (R119). -/
  | cvtE4l (d : BitVec 7) (a : BitVec 7) (b : BitVec 7) (u : BitVec 1)
  /-- `CVT_E4H`. Packs two FP32 values into the high bytes as E4M3 (R119). -/
  | cvtE4h (d : BitVec 7) (a : BitVec 7) (b : BitVec 7) (u : BitVec 1)
  /-- `CVT_F_E4`. Widens an E4M3 element to FP32 (R119). -/
  | cvtFE4 (d : BitVec 7) (a : BitVec 7) (e : BitVec 7)
  /-- `CVT_E5L`. Packs two FP32 values into the low bytes as E5M2 (R119). -/
  | cvtE5l (d : BitVec 7) (a : BitVec 7) (b : BitVec 7) (u : BitVec 1)
  /-- `CVT_E5H`. Packs two FP32 values into the high bytes as E5M2 (R119). -/
  | cvtE5h (d : BitVec 7) (a : BitVec 7) (b : BitVec 7) (u : BitVec 1)
  /-- `CVT_F_E5`. Widens an E5M2 element to FP32 (R119). -/
  | cvtFE5 (d : BitVec 7) (a : BitVec 7) (e : BitVec 7)
  /-- `DP4_S8`. Accumulates a signed INT8 four-element dot product (R121). -/
  | dp4S8 (d : BitVec 7) (a : BitVec 7) (b : BitVec 7) (u : BitVec 1)
  /-- `DP4_N8`. Accumulates an unsigned INT8 dot product (R121). -/
  | dp4N8 (d : BitVec 7) (a : BitVec 7) (b : BitVec 7) (u : BitVec 1)
  /-- `DP4_SN8`. Accumulates a signed-by-unsigned INT8 dot product (R121). -/
  | dp4Sn8 (d : BitVec 7) (a : BitVec 7) (b : BitVec 7) (u : BitVec 1)
  /-- `DP8_S4`. Accumulates a signed INT4 eight-element dot product (R121). -/
  | dp8S4 (d : BitVec 7) (a : BitVec 7) (b : BitVec 7) (u : BitVec 1)
  /-- `DP8_N4`. Accumulates an unsigned INT4 dot product (R121). -/
  | dp8N4 (d : BitVec 7) (a : BitVec 7) (b : BitVec 7) (u : BitVec 1)
  /-- `DP8_SN4`. Accumulates a signed-by-unsigned INT4 dot product (R121). -/
  | dp8Sn4 (d : BitVec 7) (a : BitVec 7) (b : BitVec 7) (u : BitVec 1)
  /-- `DP4_E4`. Accumulates an E4M3 dot product into FP32 with one RNE rounding (R121). -/
  | dp4E4 (d : BitVec 7) (a : BitVec 7) (b : BitVec 7) (u : BitVec 1)
  /-- `DP4_E5`. Accumulates an E5M2 dot product into FP32 with one RNE rounding (R121). -/
  | dp4E5 (d : BitVec 7) (a : BitVec 7) (b : BitVec 7) (u : BitVec 1)
  /-- `SCACC`. Adds an integer scaled by one E8M0 byte into FP32 (R122). -/
  | scacc (d : BitVec 7) (a : BitVec 7) (b : BitVec 7) (u : BitVec 1)
  /-- `SCACC2`. Adds an integer scaled by two E8M0 bytes into FP32 (R122). -/
  | scacc2 (d : BitVec 7) (a : BitVec 7) (b : BitVec 7) (u : BitVec 1)
  /-- `SCMUL`. Writes an integer scaled by one E8M0 byte as FP32 (R122). -/
  | scmul (d : BitVec 7) (a : BitVec 7) (b : BitVec 7) (u : BitVec 1)
  /-- `CMP_EQ`. Writes the equal test into a predicate, with an optional combine (R123). -/
  | cmpEq (p : BitVec 3) (a : BitVec 7) (b : BitVec 7) (u : BitVec 1) (c : BitVec 2)
  /-- `CMP_NE`. Writes the not-equal test into a predicate (R123). -/
  | cmpNe (p : BitVec 3) (a : BitVec 7) (b : BitVec 7) (u : BitVec 1) (c : BitVec 2)
  /-- `CMP_LT`. Writes the signed less-than test into a predicate (R123). -/
  | cmpLt (p : BitVec 3) (a : BitVec 7) (b : BitVec 7) (u : BitVec 1) (c : BitVec 2)
  /-- `CMP_LE`. Writes the signed less-or-equal test (R123). -/
  | cmpLe (p : BitVec 3) (a : BitVec 7) (b : BitVec 7) (u : BitVec 1) (c : BitVec 2)
  /-- `CMP_GT`. Writes the signed greater-than test (R123). -/
  | cmpGt (p : BitVec 3) (a : BitVec 7) (b : BitVec 7) (u : BitVec 1) (c : BitVec 2)
  /-- `CMP_GE`. Writes the signed greater-or-equal test (R123). -/
  | cmpGe (p : BitVec 3) (a : BitVec 7) (b : BitVec 7) (u : BitVec 1) (c : BitVec 2)
  /-- `CMP_LTU`. Writes the unsigned less-than test (R123). -/
  | cmpLtu (p : BitVec 3) (a : BitVec 7) (b : BitVec 7) (u : BitVec 1) (c : BitVec 2)
  /-- `CMP_LEU`. Writes the unsigned less-or-equal test (R123). -/
  | cmpLeu (p : BitVec 3) (a : BitVec 7) (b : BitVec 7) (u : BitVec 1) (c : BitVec 2)
  /-- `CMP_GTU`. Writes the unsigned greater-than test (R123). -/
  | cmpGtu (p : BitVec 3) (a : BitVec 7) (b : BitVec 7) (u : BitVec 1) (c : BitVec 2)
  /-- `CMP_GEU`. Writes the unsigned greater-or-equal test (R123). -/
  | cmpGeu (p : BitVec 3) (a : BitVec 7) (b : BitVec 7) (u : BitVec 1) (c : BitVec 2)
  /-- `FCMP_EQ`. Writes the FP32 equal test into a predicate (R124). -/
  | fcmpEq (p : BitVec 3) (a : BitVec 7) (b : BitVec 7) (u : BitVec 1) (c : BitVec 2)
  /-- `FCMP_NE`. Writes the FP32 not-equal test (R124). -/
  | fcmpNe (p : BitVec 3) (a : BitVec 7) (b : BitVec 7) (u : BitVec 1) (c : BitVec 2)
  /-- `FCMP_LT`. Writes the FP32 ordered less-than test (R124). -/
  | fcmpLt (p : BitVec 3) (a : BitVec 7) (b : BitVec 7) (u : BitVec 1) (c : BitVec 2)
  /-- `FCMP_LE`. Writes the FP32 ordered less-or-equal test (R124). -/
  | fcmpLe (p : BitVec 3) (a : BitVec 7) (b : BitVec 7) (u : BitVec 1) (c : BitVec 2)
  /-- `FCMP_GT`. Writes the FP32 ordered greater-than test (R124). -/
  | fcmpGt (p : BitVec 3) (a : BitVec 7) (b : BitVec 7) (u : BitVec 1) (c : BitVec 2)
  /-- `FCMP_GE`. Writes the FP32 ordered greater-or-equal test (R124). -/
  | fcmpGe (p : BitVec 3) (a : BitVec 7) (b : BitVec 7) (u : BitVec 1) (c : BitVec 2)
  /-- `FCMP_UN`. Writes 1 where either operand is NaN (R124). -/
  | fcmpUn (p : BitVec 3) (a : BitVec 7) (b : BitVec 7) (u : BitVec 1) (c : BitVec 2)
  /-- `FCMP_ORD`. Writes 1 where neither operand is NaN (R124). -/
  | fcmpOrd (p : BitVec 3) (a : BitVec 7) (b : BitVec 7) (u : BitVec 1) (c : BitVec 2)
  /-- `PAND`. ANDs two predicates per lane (R125). -/
  | pand (p : BitVec 3) (a : BitVec 3) (b : BitVec 3)
  /-- `POR`. ORs two predicates per lane (R125). -/
  | por (p : BitVec 3) (a : BitVec 3) (b : BitVec 3)
  /-- `PXOR`. XORs two predicates per lane (R125). -/
  | pxor (p : BitVec 3) (a : BitVec 3) (b : BitVec 3)
  /-- `PANDN`. Writes pa AND NOT pb per lane (R125). -/
  | pandn (p : BitVec 3) (a : BitVec 3) (b : BitVec 3)
  /-- `PNOT`. Inverts a predicate per lane (R125). -/
  | pnot (p : BitVec 3) (a : BitVec 3)
  /-- `PMOV`. Copies a predicate per lane (R125). -/
  | pmov (p : BitVec 3) (a : BitVec 3)
  /-- `SEL`. Selects va or vb per lane by a predicate, trapping on a poisoned selector (R126). -/
  | sel (c : BitVec 3) (n : BitVec 1) (d : BitVec 7) (a : BitVec 7) (b : BitVec 7) (u : BitVec 1)
  /-- `MOV`. Copies a vector register per lane (R81). -/
  | mov (d : BitVec 7) (a : BitVec 7)
  /-- `MOVS`. Copies the lowest acting lane's value into a uniform register (R81). -/
  | movs (d : BitVec 7) (a : BitVec 7)
  /-- `MOVIX`. Reads the vector register indexed by a uniform register (R81). -/
  | movix (d : BitVec 7) (b : BitVec 7)
  /-- `MOVIX_W`. Writes the vector register indexed by a uniform register (R81). -/
  | movixW (a : BitVec 7) (b : BitVec 7)
  /-- `LANE`. Writes each lane's team lane number (R67). -/
  | lane (d : BitVec 7)
  /-- `LWORD`. Writes each lane's guard-restricted mask word (R67). -/
  | lword (d : BitVec 7)
  /-- `MOVSV`. Broadcasts a uniform register into a vector register (R81). -/
  | movsv (d : BitVec 7) (a : BitVec 7)
  /-- `LIM`. Writes a 32-bit literal word into a vector (c = 0) or uniform (c = 1) register (R82). -/
  | lim (c : BitVec 1) (d : BitVec 7) (lit : BitVec 32)
  /-- `SADD`. Adds uniform registers (R127). -/
  | sadd (d : BitVec 7) (a : BitVec 7) (b : BitVec 7)
  /-- `SSUB`. Subtracts uniform registers (R127). -/
  | ssub (d : BitVec 7) (a : BitVec 7) (b : BitVec 7)
  /-- `SMUL`. Multiplies uniform registers, low word (R127). -/
  | smul (d : BitVec 7) (a : BitVec 7) (b : BitVec 7)
  /-- `SAND`. ANDs uniform registers (R127). -/
  | sand (d : BitVec 7) (a : BitVec 7) (b : BitVec 7)
  /-- `SOR`. ORs uniform registers (R127). -/
  | sor (d : BitVec 7) (a : BitVec 7) (b : BitVec 7)
  /-- `SXOR`. XORs uniform registers (R127). -/
  | sxor (d : BitVec 7) (a : BitVec 7) (b : BitVec 7)
  /-- `SSHL`. Shifts a uniform register left (R127). -/
  | sshl (d : BitVec 7) (a : BitVec 7) (b : BitVec 7)
  /-- `SSHR`. Shifts a uniform register right logically (R127). -/
  | sshr (d : BitVec 7) (a : BitVec 7) (b : BitVec 7)
  /-- `SSRA`. Shifts a uniform register right arithmetically (R127). -/
  | ssra (d : BitVec 7) (a : BitVec 7) (b : BitVec 7)
  /-- `SMIN`. Writes the signed uniform minimum (R127). -/
  | smin (d : BitVec 7) (a : BitVec 7) (b : BitVec 7)
  /-- `SMAX`. Writes the signed uniform maximum (R127). -/
  | smax (d : BitVec 7) (a : BitVec 7) (b : BitVec 7)
  /-- `SMINU`. Writes the unsigned uniform minimum (R127). -/
  | sminu (d : BitVec 7) (a : BitVec 7) (b : BitVec 7)
  /-- `SMAXU`. Writes the unsigned uniform maximum (R127). -/
  | smaxu (d : BitVec 7) (a : BitVec 7) (b : BitVec 7)
  /-- `SADDI`. Adds a sign-extended immediate to a uniform register (R127). -/
  | saddi (d : BitVec 7) (a : BitVec 7) (i : BitVec 12)
  /-- `SCMP_EQ`. Writes 1 to a uniform register when the operands are equal (R127). -/
  | scmpEq (d : BitVec 7) (a : BitVec 7) (b : BitVec 7)
  /-- `SCMP_NE`. Writes the uniform not-equal test (R127). -/
  | scmpNe (d : BitVec 7) (a : BitVec 7) (b : BitVec 7)
  /-- `SCMP_LT`. Writes the uniform signed less-than test (R127). -/
  | scmpLt (d : BitVec 7) (a : BitVec 7) (b : BitVec 7)
  /-- `SCMP_LE`. Writes the uniform signed less-or-equal test (R127). -/
  | scmpLe (d : BitVec 7) (a : BitVec 7) (b : BitVec 7)
  /-- `SCMP_GT`. Writes the uniform signed greater-than test (R127). -/
  | scmpGt (d : BitVec 7) (a : BitVec 7) (b : BitVec 7)
  /-- `SCMP_GE`. Writes the uniform signed greater-or-equal test (R127). -/
  | scmpGe (d : BitVec 7) (a : BitVec 7) (b : BitVec 7)
  /-- `SCMP_LTU`. Writes the uniform unsigned less-than test (R127). -/
  | scmpLtu (d : BitVec 7) (a : BitVec 7) (b : BitVec 7)
  /-- `SCMP_LEU`. Writes the uniform unsigned less-or-equal test (R127). -/
  | scmpLeu (d : BitVec 7) (a : BitVec 7) (b : BitVec 7)
  /-- `SCMP_GTU`. Writes the uniform unsigned greater-than test (R127). -/
  | scmpGtu (d : BitVec 7) (a : BitVec 7) (b : BitVec 7)
  /-- `SCMP_GEU`. Writes the uniform unsigned greater-or-equal test (R127). -/
  | scmpGeu (d : BitVec 7) (a : BitVec 7) (b : BitVec 7)
  /-- `SHFL_IDX`. Copies va from an indexed lane of the mask word (R128). -/
  | shflIdx (d : BitVec 7) (a : BitVec 7) (b : BitVec 7) (u : BitVec 1)
  /-- `SHFL_UP`. Copies va from a lower lane of the mask word (R128). -/
  | shflUp (d : BitVec 7) (a : BitVec 7) (b : BitVec 7) (u : BitVec 1)
  /-- `SHFL_DN`. Copies va from a higher lane of the mask word (R128). -/
  | shflDn (d : BitVec 7) (a : BitVec 7) (b : BitVec 7) (u : BitVec 1)
  /-- `SHFL_XOR`. Copies va from the lane at j XOR n (R128). -/
  | shflXor (d : BitVec 7) (a : BitVec 7) (b : BitVec 7) (u : BitVec 1)
  /-- `VOTE_ANY`. Writes 1 if any contributing lane is nonzero (R128). -/
  | voteAny (d : BitVec 7) (a : BitVec 7)
  /-- `VOTE_ALL`. Writes 1 if every contributing lane is nonzero (R128). -/
  | voteAll (d : BitVec 7) (a : BitVec 7)
  /-- `BALLOT`. Writes the mask of contributing nonzero lanes (R128). -/
  | ballot (d : BitVec 7) (a : BitVec 7)
  /-- `REDADD`. Writes the wrapped sum over contributing lanes (R128). -/
  | redadd (d : BitVec 7) (a : BitVec 7)
  /-- `REDMAX`. Writes the signed maximum over contributing lanes (R128). -/
  | redmax (d : BitVec 7) (a : BitVec 7)
  /-- `LD_G`. Loads from global memory per lane through the chosen holder (R233). -/
  | ldG (s : BitVec 3) (d : BitVec 7) (a : BitVec 7) (f : BitVec 6) (w : BitVec 3)
  /-- `ST_G`. Stores per lane to the HOME on the ordered path (R233). -/
  | stG (s : BitVec 3) (d : BitVec 7) (a : BitVec 7) (f : BitVec 6) (w : BitVec 3)
  /-- `ST_GX`. Stores per lane to the HOME as relaxed traffic (R233). -/
  | stGx (s : BitVec 3) (d : BitVec 7) (a : BitVec 7) (f : BitVec 6) (w : BitVec 3)
  /-- `LD_A`. Acquire load from the HOME at a scope (R235). -/
  | ldA (s : BitVec 3) (d : BitVec 7) (a : BitVec 7) (c : BitVec 3) (w : BitVec 3)
  /-- `ST_L`. Release store at a scope, with the optional ordered flag (R235). -/
  | stL (s : BitVec 3) (d : BitVec 7) (a : BitVec 7) (c : BitVec 3) (w : BitVec 3) (o : BitVec 1)
  /-- `AT_ADD`. Atomic add at the HOME returning the old value (R236). -/
  | atAdd (d : BitVec 7) (a : BitVec 7) (c : BitVec 3) (w : BitVec 3) (o : BitVec 2)
  /-- `AT_AND`. Atomic AND at the HOME (R236). -/
  | atAnd (d : BitVec 7) (a : BitVec 7) (c : BitVec 3) (w : BitVec 3) (o : BitVec 2)
  /-- `AT_OR`. Atomic OR at the HOME (R236). -/
  | atOr (d : BitVec 7) (a : BitVec 7) (c : BitVec 3) (w : BitVec 3) (o : BitVec 2)
  /-- `AT_XOR`. Atomic XOR at the HOME (R236). -/
  | atXor (d : BitVec 7) (a : BitVec 7) (c : BitVec 3) (w : BitVec 3) (o : BitVec 2)
  /-- `AT_MIN`. Atomic signed minimum at the HOME (R236). -/
  | atMin (d : BitVec 7) (a : BitVec 7) (c : BitVec 3) (w : BitVec 3) (o : BitVec 2)
  /-- `AT_MAX`. Atomic signed maximum at the HOME (R236). -/
  | atMax (d : BitVec 7) (a : BitVec 7) (c : BitVec 3) (w : BitVec 3) (o : BitVec 2)
  /-- `AT_MINU`. Atomic unsigned minimum at the HOME (R236). -/
  | atMinu (d : BitVec 7) (a : BitVec 7) (c : BitVec 3) (w : BitVec 3) (o : BitVec 2)
  /-- `AT_MAXU`. Atomic unsigned maximum at the HOME (R236). -/
  | atMaxu (d : BitVec 7) (a : BitVec 7) (c : BitVec 3) (w : BitVec 3) (o : BitVec 2)
  /-- `AT_XCHG`. Atomic exchange at the HOME (R236). -/
  | atXchg (d : BitVec 7) (a : BitVec 7) (c : BitVec 3) (w : BitVec 3) (o : BitVec 2)
  /-- `AT_CAS`. Atomic compare-and-swap at the HOME (R236). -/
  | atCas (d : BitVec 7) (a : BitVec 7) (c : BitVec 3) (w : BitVec 3) (o : BitVec 2)
  /-- `AT_FADD`. Atomic FP32 add at the HOME (R236). -/
  | atFadd (d : BitVec 7) (a : BitVec 7) (c : BitVec 3) (w : BitVec 3) (o : BitVec 2)
  /-- `VAT_F32`. Adds FP32 lane values atomically into the words of one line (R238). -/
  | vatF32 (d : BitVec 7) (a : BitVec 7) (c : BitVec 3) (w : BitVec 3) (o : BitVec 2)
  /-- `VAT_BF16`. Adds BF16 pairs atomically into the words of one line (R238). -/
  | vatBf16 (d : BitVec 7) (a : BitVec 7) (c : BitVec 3) (w : BitVec 3) (o : BitVec 2)
  /-- `LD_S`. Loads from the crew's scratchpad per lane (R154). -/
  | ldS (s : BitVec 3) (d : BitVec 7) (a : BitVec 7) (f : BitVec 6) (w : BitVec 3)
  /-- `ST_S`. Stores to the crew's scratchpad per lane (R154). -/
  | stS (s : BitVec 3) (d : BitVec 7) (a : BitVec 7) (f : BitVec 6) (w : BitVec 3)
  /-- `LD_SQ`. Loads through the quad window from a gang crew's scratchpad (R157). -/
  | ldSq (s : BitVec 3) (d : BitVec 7) (a : BitVec 7) (f : BitVec 5) (w : BitVec 3)
  /-- `ST_SQ`. Stores through the quad window to a gang crew's scratchpad (R157). -/
  | stSq (s : BitVec 3) (d : BitVec 7) (a : BitVec 7) (f : BitVec 5) (w : BitVec 3)
  /-- `TLOOK`. Looks up the slot bound to a tag (R161). -/
  | tlook (d : BitVec 7) (a : BitVec 7)
  /-- `TINS`. Binds a tag to a slot, unbinding the old ones (R161). -/
  | tins (d : BitVec 7) (a : BitVec 7) (b : BitVec 7) (u : BitVec 1)
  /-- `TINV`. Unbinds a tag from its slot (R161). -/
  | tinv (d : BitVec 7) (a : BitVec 7)
  /-- `TFLUSH`. Invalidates every tag entry of the crew (R161). -/
  | tflush
  /-- `LD_U`. Loads one word or pair from global memory into uniform registers (R234). -/
  | ldU (s : BitVec 1) (d : BitVec 7) (a : BitVec 7) (f : BitVec 6) (w : BitVec 3)
  /-- `ST_U`. Stores a uniform word or pair as an ordered store (R234). -/
  | stU (s : BitVec 1) (d : BitVec 7) (a : BitVec 7) (f : BitVec 6) (w : BitVec 3)
  /-- `ANNC`. Announces a prefix at a holder and writes the status on completion (R217). -/
  | annc (d : BitVec 7) (a : BitVec 7) (w : BitVec 3)
  /-- `WDRW`. Withdraws an announcement key from every node (R218). -/
  | wdrw (d : BitVec 7) (a : BitVec 7) (w : BitVec 3)
  /-- `RLOOK`. Reports per lane the holder the die would choose for a VA (R220). -/
  | rlook (d : BitVec 7) (a : BitVec 7) (h : BitVec 1) (w : BitVec 3)
  /-- `HMOVE`. Moves the HOME of a range to a new holder (R219). -/
  | hmove (d : BitVec 7) (a : BitVec 7) (w : BitVec 3)
  /-- `RSTAT`. Reads entry counts and route generation of a route table (R221). -/
  | rstat (d : BitVec 7) (t : BitVec 2) (w : BitVec 3)
  /-- `QPUSH`. Places a command word into a bound queue, or selects a network connection (R182). -/
  | qpush (q : BitVec 4) (r : BitVec 7) (u : BitVec 1) (w : BitVec 3)
  /-- `QPOP`. Pops the oldest result of the team's FIFO into a uniform pair (R183). -/
  | qpop (q : BitVec 4) (d : BitVec 7) (w : BitVec 3)
  /-- `QTRY`. Pops a result if present and sets a predicate to show it (R183). -/
  | qtry (q : BitVec 4) (d : BitVec 7) (p : BitVec 3)
  /-- `QFENCE`. Places a fence entry across one or more copy queues (R184). -/
  | qfence (q : BitVec 4) (m : BitVec 7)
  /-- `QSTAT`. Writes unread results and free engine slots (R183). -/
  | qstat (q : BitVec 4) (d : BitVec 7)
  /-- `CPY_G2S`. Queues a copy from global memory to scratchpad (R187). -/
  | cpyG2s (q : BitVec 4) (r : BitVec 7) (w : BitVec 3) (c : BitVec 1)
  /-- `CPY_S2G`. Queues a copy from scratchpad to global memory (R187). -/
  | cpyS2g (q : BitVec 4) (r : BitVec 7) (w : BitVec 3) (c : BitVec 1)
  /-- `CPY_G2G`. Queues a copy between global ranges (R187). -/
  | cpyG2g (q : BitVec 4) (r : BitVec 7) (w : BitVec 3) (k : BitVec 7)
  /-- `CPY_PLN`. Queues a transposing copy into bit-plane rows (R187). -/
  | cpyPln (q : BitVec 4) (r : BitVec 7) (w : BitVec 3) (p : BitVec 3) (m : BitVec 3) (c : BitVec 1)
  /-- `CPY_S2SQ`. Queues a copy from local scratchpad through the quad window (R187). -/
  | cpyS2sq (q : BitVec 4) (r : BitVec 7) (w : BitVec 3) (c : BitVec 1)
  /-- `CYC`. Writes the local DCC into a uniform pair (R190). -/
  | cyc (d : BitVec 7)
  /-- `SLEEPC`. Sleeps until the local DCC reaches a value (R190). -/
  | sleepc (a : BitVec 7)
  /-- `MMA`. Issues quarter-mode matrix passes that accumulate into accumulators (R170). -/
  | mma (d : BitVec 6) (a : BitVec 7) (b : BitVec 7) (t : BitVec 4)
  /-- `MMA_Z`. Issues quarter-mode matrix passes that zero then accumulate (R170). -/
  | mmaZ (d : BitVec 6) (a : BitVec 7) (b : BitVec 7) (t : BitVec 4)
  /-- `MMA_B`. Issues batched-mode matrix passes that accumulate (R171). -/
  | mmaB (d : BitVec 6) (a : BitVec 7) (t : BitVec 4)
  /-- `MMA_BZ`. Issues batched-mode matrix passes that zero then accumulate (R171). -/
  | mmaBz (d : BitVec 6) (a : BitVec 7) (t : BitVec 4)
  /-- `AMOV`. Moves one accumulator part into a vector register (R175). -/
  | amov (d : BitVec 7) (n : BitVec 6) (p : BitVec 4)
  /-- `AWR`. Writes a vector register into one accumulator part (R175). -/
  | awr (d : BitVec 7) (n : BitVec 6) (p : BitVec 4)
  /-- `ACLR`. Clears an accumulator and its sticky overflow bit (R175). -/
  | aclr (n : BitVec 6)
  /-- `AOVF`. Reads an accumulator's poison and overflow state, optionally clearing overflow (R175). -/
  | aovf (d : BitVec 7) (n : BitVec 6) (c : BitVec 1)
  /-- `PLNW`. Writes lane values into bit-plane row bits in scratchpad (R177). -/
  | plnw (d : BitVec 7) (a : BitVec 7) (p : BitVec 3) (m : BitVec 3)
  /-- `PLNR`. Reads plane row elements back, zero-extended (R177). -/
  | plnr (d : BitVec 7) (a : BitVec 7) (p : BitVec 3) (m : BitVec 3)
  /-- `PLNR_S`. Reads plane row elements back, sign-extended (R177). -/
  | plnrS (d : BitVec 7) (a : BitVec 7) (p : BitVec 3) (m : BitVec 3)
  /-- `TSET`. Writes a tile descriptor from a uniform pair (R178). -/
  | tset (t : BitVec 7) (a : BitVec 7)
  /-- `TGET`. Reads a tile descriptor into a uniform pair (R178). -/
  | tget (d : BitVec 7) (t : BitVec 7)
  /-- `NET_PUT`. Queues a remote write of local bytes on the selected connection (R326). -/
  | netPut (q : BitVec 4) (r : BitVec 7) (u : BitVec 1) (w : BitVec 3)
  /-- `NET_GET`. Queues a remote read into local memory (R326). -/
  | netGet (q : BitVec 4) (r : BitVec 7) (u : BitVec 1) (w : BitVec 3)
  /-- `NET_AT`. Queues a remote 64-bit fetch-add or compare-and-swap (R326). -/
  | netAt (q : BitVec 4) (r : BitVec 7) (u : BitVec 1) (w : BitVec 3) (o : BitVec 1)
  /-- `NET_FLUSH`. Completes when earlier commands on the connection have completed (R326). -/
  | netFlush (q : BitVec 4) (w : BitVec 3)
  /-- `BAR_ARV`. Arrives at a hardware barrier as a release (R270). -/
  | barArv (c : BitVec 7) (n : BitVec 5) (l : BitVec 3)
  /-- `BAR_WAIT`. Waits for the phase of the team's last arrival, then acquires (R270). -/
  | barWait (n : BitVec 5) (l : BitVec 3)
  /-- `BAR_SYNC`. Arrives and waits at a hardware barrier (R270). -/
  | barSync (c : BitVec 7) (n : BitVec 5) (l : BitVec 3)
  /-- `BAR_TO`. Arrives and waits with a DCC deadline (R270). -/
  | barTo (t : BitVec 7) (c : BitVec 7) (n : BitVec 5) (l : BitVec 3)
  /-- `PB_INIT`. Initialises a phase-bit barrier word (R194). -/
  | pbInit (e : BitVec 7) (a : BitVec 7)
  /-- `PB_ARV`. Arrives at a phase-bit barrier, possibly flipping its phase (R194). -/
  | pbArv (a : BitVec 7)
  /-- `PB_EXP`. Adds expected bytes to a phase-bit barrier (R194). -/
  | pbExp (n : BitVec 7) (a : BitVec 7)
  /-- `PB_WAIT`. Waits until the barrier phase differs from a parity (R194). -/
  | pbWait (a : BitVec 7) (p : BitVec 1)
  /-- `PB_TEST`. Writes into a predicate whether the phase differs from a parity (R194). -/
  | pbTest (a : BitVec 7) (k : BitVec 3) (p : BitVec 1)
  /-- `FENCE_ACQ`. Holds later accesses until every outstanding register value has landed (R267). -/
  | fenceAcq (l : BitVec 3)
  /-- `FENCE_REL`. Waits until earlier accesses are performed at the scope (R267). -/
  | fenceRel (l : BitVec 3)
  /-- `FENCE_AR`. Acts as a release then an acquire and joins the total fence order (R267). -/
  | fenceAr (l : BitVec 3)
  /-- `FENCE_Q`. Waits for the team's queued commands, then acts as a release fence (R267). -/
  | fenceQ (l : BitVec 3)
  /-- `BR`. Branches per lane on a predicate, splitting lanes as needed (R58). -/
  | br (p : BitVec 3) (n : BitVec 1) (o : BitVec 18)
  /-- `BRA`. Jumps all active lanes to a target (R58). -/
  | bra (o : BitVec 18)
  /-- `CALL`. Calls per lane, writing the return VA into v2:v3 (R58). -/
  | call (p : BitVec 3) (n : BitVec 1) (o : BitVec 18)
  /-- `EXIT`. Exits the lanes whose condition holds; the team ends when none remain (R58). -/
  | exit (p : BitVec 3) (n : BitVec 1)
  /-- `BZ`. Branches where the tested register is zero (R59). -/
  | bz (c : BitVec 3) (r : BitVec 7) (o : BitVec 12)
  /-- `BNZ`. Branches where the tested register is nonzero (R59). -/
  | bnz (c : BitVec 3) (r : BitVec 7) (o : BitVec 12)
  /-- `BPEND`. Moves every active lane to the target when the register is pending (R144). -/
  | bpend (c : BitVec 3) (r : BitVec 7) (o : BitVec 12)
  /-- `BPEND_N`. Moves every active lane to the target when the register is not pending (R144). -/
  | bpendN (c : BitVec 3) (r : BitVec 7) (o : BitVec 12)
  /-- `JMPS`. Jumps to a VA held in a uniform pair (R60). -/
  | jmps (r : BitVec 7) (o : BitVec 12)
  /-- `CALLS`. Calls a VA held in a uniform pair (R60). -/
  | calls (r : BitVec 7) (o : BitVec 12)
  /-- `RET`. Returns through a vector or uniform pair (R60). -/
  | ret (c : BitVec 1) (r : BitVec 7) (o : BitVec 12)
  /-- `LOOP`. Starts a hardware loop counter or skips the body when the count is 0 (R61). -/
  | loop (l : BitVec 1) (a : BitVec 7) (o : BitVec 18)
  /-- `FRMODE`. Sets the frontier mode and resets the quantum count (R63). -/
  | frmode (m : BitVec 8)
  /-- `FRYLD`. Ends the active group's turn and switches to the next group (R64). -/
  | fryld
  /-- `JOIN`. Holds the active lanes at a join until every lane arrives (R65). -/
  | join (a : BitVec 7)
  /-- `MACT`. Writes a guard-restricted mask word or the summary into a uniform (R66). -/
  | mact (d : BitVec 7) (k : BitVec 8)
  /-- `DEFER_ON`. Turns deferring mode on from the next header (R143). -/
  | deferOn
  /-- `DEFER_OFF`. Drains the residual FIFO and turns deferring mode off (R143). -/
  | deferOff
  /-- `DEFER_STRICT`. Writes the strict residual overflow bit (R143). -/
  | deferStrict (m : BitVec 8)
  /-- `RDRAIN`. Waits until the residual FIFO is empty (R143). -/
  | rdrain
  /-- `RFSTAT`. Writes one residual FIFO count into a uniform (R143). -/
  | rfstat (d : BitVec 7) (k : BitVec 8)
  /-- `ACQX`. Requests granules from the crew pool, parking if short (R76). -/
  | acqx (c : BitVec 2) (n : BitVec 6)
  /-- `RELX`. Returns the highest granules of a class to the crew pool (R77). -/
  | relx (c : BitVec 2) (n : BitVec 6)
  /-- `ALLQ`. Writes the team's allotment and the pool's free amount (R77). -/
  | allq (d : BitVec 7) (c : BitVec 2)
  /-- `PTST`. Reads the poison state of a register without consuming it (R84). -/
  | ptst (d : BitVec 7) (r : BitVec 7) (k : BitVec 5) (l : BitVec 3)
  /-- `PCHK`. Traps if any checked word of a register is poisoned (R85). -/
  | pchk (r : BitVec 7) (l : BitVec 3)
  /-- `PCHKS`. Traps if any of a range of uniform registers is poisoned (R85). -/
  | pchks (a : BitVec 7) (n : BitVec 8)
  /-- `POST`. Releases a card toward a die's ready pool (R279). -/
  | post (d : BitVec 7) (a : BitVec 7)
  /-- `DONE`. Stops the crew's teams and retires the crew with a user code (R284). -/
  | done (a : BitVec 7)
  /-- `CTOK`. Writes the token of the release that made the card ready (R287). -/
  | ctok (d : BitVec 7)
  /-- `TID`. Writes the task identifier and team identity (R287). -/
  | tid (d : BitVec 7)
  /-- `TRAP`. Raises trap 0x1A with a software code (R293). -/
  | trap (n : BitVec 8)
  /-- `TRESUME`. Decides a trap handle by resuming the team at its region entry (R294). -/
  | tresume (a : BitVec 7)
  /-- `TKILL`. Decides a handle by killing the trapped crew (R294). -/
  | tkill (a : BitVec 7)
  /-- `TRELAUNCH`. Decides a handle by killing the gang and queueing a relaunch or failing the card (R294). -/
  | trelaunch (a : BitVec 7)
  /-- `TRECORD`. Reads or sets the team-control word of an open handle (R295). -/
  | trecord (d : BitVec 7) (a : BitVec 7) (k : BitVec 1)
  /-- `RDSYS`. Reads a system register into a uniform (R310). -/
  | rdsys (d : BitVec 7) (n : BitVec 8)
  /-- `WRSYS`. Writes a system register from a uniform (R310). -/
  | wrsys (a : BitVec 7) (n : BitVec 8)
  /-- `SMP`. Appends a software record to the world's sample ring (R334). -/
  | smp (a : BitVec 7) (t : BitVec 6)
  /-- `LANDING`. A pending value lands, is written if its generation matches, and fills awaiting residual slots (R78; an event of the package, with no encoding). -/
  | landing (id : Nat)
  /-- `REPLY_RECEIVE`. A fabric reply, acknowledgement or refusal arrives at the requesting die (R223; an event of the package, with no encoding). -/
  | replyReceive (id : Nat)
  /-- `RESIDUAL_ENTRY_RUN`. A ready head entry of the residual FIFO runs with its captured values (R136; an event of the package, with no encoding). -/
  | residualEntryRun (team : Nat)
  /-- `ARRAY_PASS`. The matrix array takes a queued pass, fetches rows and writes accumulators (R162; an event of the package, with no encoding). -/
  | arrayPass (core : Nat)
  /-- `COPY_START`. A copy queue entry starts once the entry ahead has written and earlier accesses are performed (R185; an event of the package, with no encoding). -/
  | copyStart (engine queue : Nat)
  /-- `COPY_COMPLETE`. A copy's writes are all performed and any barrier credit is applied (R185; an event of the package, with no encoding). -/
  | copyComplete (engine queue : Nat)
  /-- `Q8_COMMAND`. The task unit performs a release command pair from the program queue (R280; an event of the package, with no encoding). -/
  | q8Command (die : Nat)
  /-- `ROUTE_COMMAND_START`. The route engine starts a route command once the team's earlier command and writes are done (R216; an event of the package, with no encoding). -/
  | routeCommandStart (die : Nat)
  /-- `ROUTE_ROUND`. Every 256 DCC a node ends a route round and sends its installed copies and keepalives (R203; an event of the package, with no encoding). -/
  | routeRound (node : Nat)
  /-- `ANNOUNCEMENT_RECEIVE`. A node receives an announcement or withdrawal copy and installs, drops or refuses it (R203; an event of the package, with no encoding). -/
  | announcementReceive (id : Nat)
  /-- `ROUTE_ACK_RECEIVE`. The originating holder receives a node's acknowledgement (R204; an event of the package, with no encoding). -/
  | routeAckReceive (id : Nat)
  /-- `REQUEST_ARRIVE`. A holder receives a request packet, checks it and performs or refuses it (R201; an event of the package, with no encoding). -/
  | requestArrive (id xferFails : Nat) (cell : BitVec 2)
  /-- `NAK_RECEIVE`. A die receives a frozen, moved or reorder NAK and resends or traps (R212; an event of the package, with no encoding). -/
  | nakReceive (id : Nat)
  /-- `OF_RELEASE_PERFORM`. A held ordered-flag release is performed or NAKed once the arrival counts are reached (R229; an event of the package, with no encoding). -/
  | ofReleasePerform (id : Nat)
  /-- `VOID_NOTICE_RECEIVE`. A holder counts a void write position reported after a link failed (R360; an event of the package, with no encoding). -/
  | voidNoticeReceive (id : Nat)
  /-- `MIRROR_PREPARE_RECEIVE`. A mirror records prepared bytes, holds loads to them and acknowledges (R208; an event of the package, with no encoding). -/
  | mirrorPrepareReceive (id : Nat)
  /-- `PREPARE_ACK_RECEIVE`. When every mirror has acknowledged, the home performs the write and sends the commit (R208; an event of the package, with no encoding). -/
  | prepareAckReceive (id : Nat)
  /-- `MIRROR_COMMIT_RECEIVE`. A mirror writes the prepared bytes and serves its held loads (R208; an event of the package, with no encoding). -/
  | mirrorCommitReceive (id : Nat)
  /-- `FLIT_RECEIVE`. A link receiver checks a flit's sequence and CRC and acknowledges or NAKs (R231; an event of the package, with no encoding). -/
  | flitReceive (link : Nat) (toB : Bool) (seq : BitVec 12) (crcOk : Bool)
  /-- `REPLAY_TIMEOUT`. A replay not acknowledged within 512 DCC fails (R231; an event of the package, with no encoding). -/
  | replayTimeout (link : Nat) (toB : Bool)
  /-- `FLOW_CONTROL_SIGNAL`. A sender receives an off or on signal for a class and stops or resumes it (R230; an event of the package, with no encoding). -/
  | flowControlSignal (link : Nat) (toB : Bool) (cls : BitVec 2) (off : Bool)
  /-- `LINK_LOST_TIMEOUT`. No flit from a pier for 4 route rounds marks the link lost (R243; an event of the package, with no encoding). -/
  | linkLostTimeout (nbr pier : Nat)
  /-- `LINK_LOST_NOTICE`. A pier learns that another neighbour lost its link to a pier (R243; an event of the package, with no encoding). -/
  | linkLostNotice (id : Nat)
  /-- `SILENCE_NOTICE_RECEIVE`. A node or task unit acts on a silence notice for a die or pier (R242; an event of the package, with no encoding). -/
  | silenceNoticeReceive (id : Nat)
  /-- `WINDOW_REQUEST_ARRIVE`. A quad-window request reaches the target port and is checked and performed (R156; an event of the package, with no encoding). -/
  | windowRequestArrive (id : Nat)
  /-- `HOST_RING_DOORBELL`. The host writes a host ring tail, which is accepted or refused (R304; an event of the package, with no encoding). -/
  | hostRingDoorbell (ring : Nat) (tail : Word)
  /-- `HOST_RING_ENTRY`. The abutment reads a ring entry and performs its card release or skips it (R278; an event of the package, with no encoding). -/
  | hostRingEntry (ring : Nat)
  /-- `MGMT_REQUEST_TAIL`. The host writes the management request tail, handing request slots to the management core (R304; an event of the package, with no encoding). -/
  | mgmtRequestTail (tail : PortWord)
  /-- `MGMT_RESPONSE_HEAD`. The host writes the management response head, freeing response slots (R304; an event of the package, with no encoding). -/
  | mgmtResponseHead (head : PortWord)
  /-- `BAR0_IGNORED_WRITE`. A write to an unassigned or read-only BAR0 offset is ignored (R304; an event of the package, with no encoding). One that falls into the request slots is held. -/
  | bar0IgnoredWrite (off : PortWord) (value : Word)
  /-- `GET_VERSION`. SPDM request for supported versions (R303; an event of the package, with no encoding). -/
  | getVersion (sess : Nat)
  /-- `GET_CAPABILITIES`. SPDM request for device capabilities (R303; an event of the package, with no encoding). -/
  | getCapabilities (sess : Nat)
  /-- `NEGOTIATE_ALGORITHMS`. SPDM algorithm negotiation (R303; an event of the package, with no encoding). -/
  | negotiateAlgorithms (sess : Nat)
  /-- `GET_DIGESTS`. SPDM request for certificate chain digests (R303; an event of the package, with no encoding). -/
  | getDigests (sess : Nat)
  /-- `GET_CERTIFICATE`. SPDM request for the attestation certificate chain (R303; an event of the package, with no encoding). -/
  | getCertificate (sess : Nat)
  /-- `CHALLENGE`. SPDM challenge-response authentication (R303; an event of the package, with no encoding). -/
  | challenge (sess : Nat)
  /-- `GET_MEASUREMENTS`. SPDM request reporting MR0–MR7 (R312; an event of the package, with no encoding). -/
  | getMeasurements (sess : Nat)
  /-- `KEY_EXCHANGE`. SPDM key exchange opening a secured session (R303; an event of the package, with no encoding). -/
  | keyExchange (sess : Nat)
  /-- `FINISH`. SPDM session finish handshake (R303; an event of the package, with no encoding). -/
  | finish (sess : Nat)
  /-- `KEY_UPDATE`. SPDM session key update (R303; an event of the package, with no encoding). -/
  | keyUpdate (sess : Nat)
  /-- `HEARTBEAT`. SPDM session heartbeat (R303; an event of the package, with no encoding). -/
  | heartbeat (sess : Nat)
  /-- `END_SESSION`. SPDM request ending a session (R303; an event of the package, with no encoding). -/
  | endSession (sess : Nat)
  /-- `SPDM_UNSUPPORTED_REQUEST`. An unlisted request or a vendor request outside a session is answered with an SPDM ERROR (R303; an event of the package, with no encoding). -/
  | spdmUnsupportedRequest (sess : Nat)
  /-- `LOCK_INTERFACE`. Locks a confidential world's configuration (R305; an event of the package, with no encoding). -/
  | lockInterface (sess world : Nat)
  /-- `START_INTERFACE`. Moves a locked world to RUN (R305; an event of the package, with no encoding). -/
  | startInterface (sess world : Nat)
  /-- `STOP_INTERFACE`. Ends a world's dispatch, kills its crews, scrubs it and returns to CONFIG_UNLOCKED (R305; an event of the package, with no encoding). -/
  | stopInterface (sess world : Nat) (nonce : BitVec 64)
  /-- `GET_DEVICE_INTERFACE_REPORT`. Returns the interface report of a world (R305; an event of the package, with no encoding). -/
  | getDeviceInterfaceReport (sess world : Nat)
  /-- `GET_DEVICE_INTERFACE_STATE`. Returns the TDISP state of a world (R305; an event of the package, with no encoding). -/
  | getDeviceInterfaceState (sess world : Nat)
  /-- `WORLD_CREATE`. Creates a confidential world and draws its seed (R306; an event of the package, with no encoding). -/
  | worldCreate (sess world : Nat)
  /-- `WORLD_KEY`. Installs a world's keys, starting a new epoch (R306; an event of the package, with no encoding). -/
  | worldKey (sess world : Nat) (xts : BitVec 512) (tagKey : BitVec 256)
  /-- `WORLD_DESTROY`. Frees a scrubbed world's number (R306; an event of the package, with no encoding). -/
  | worldDestroy (sess world : Nat)
  /-- `RANGE_ASSIGN`. Sets an ownership entry at a holder and clears its written bits (R306; an event of the package, with no encoding). -/
  | rangeAssign (sess holder base len world : Nat)
  /-- `CONTEXT_SET`. Sets the root table of a world and ASN (R306; an event of the package, with no encoding). -/
  | contextSet (sess world : Nat) (asn : BitVec 16) (root : PA)
  /-- `CONTEXT_INVAL`. Drops matching TLB entries and waits for earlier walks (R306; an event of the package, with no encoding). -/
  | contextInval (sess world : Nat) (asn : Option (BitVec 16)) (lo hi : VA)
  /-- `RING_SET`. Describes a host ring to the device (R306; an event of the package, with no encoding). -/
  | ringSet (sess ring : Nat) (base : BitVec 64) (entries world : Nat) (asn : BitVec 16) (msixLo msixHi : Nat)
  /-- `SLICE_SET`. Sets a world's time slice length (R306; an event of the package, with no encoding). -/
  | sliceSet (sess world : Nat) (dcc : BitVec 64)
  /-- `HANDLER_SET`. Installs a world's handler card, trap area and save area (R306; an event of the package, with no encoding). -/
  | handlerSet (sess world : Nat) (card trapBase : VA) (trapSize : Nat) (saveBase : PA) (saveSize : Nat)
  /-- `WATCH_ARM`. Arms a pier range watch entry (R309; an event of the package, with no encoding). -/
  | watchArm (sess pier entry world : Nat) (base : PA) (len : Nat) (mode : Bool)
  /-- `WATCH_DISARM`. Disarms a pier range watch entry (R306; an event of the package, with no encoding). -/
  | watchDisarm (sess pier entry : Nat)
  /-- `LOG_EXPORT`. Returns a signed batch of a pier's watch records (R309; an event of the package, with no encoding). -/
  | logExport (sess pier count : Nat)
  /-- `MR_EXTEND`. Extends MR6 or MR7 with a digest (R306; an event of the package, with no encoding). -/
  | mrExtend (sess mr : Nat) (digest : BitVec 512)
  /-- `RESTART_FULL`. Clears the failed-start count and resets the package (R306; an event of the package, with no encoding). -/
  | restartFull (sess : Nat)
  /-- `NET_TABLE_SET`. Places a world's connection table in host memory (R318; an event of the package, with no encoding). -/
  | netTableSet (sess world : Nat) (table : PA) (records : Nat)
  /-- `NET_CONN_SET`. Establishes a network connection (R318; an event of the package, with no encoding). -/
  | netConnSet (sess world conn port : Nat) (asn : BitVec 16) (peer : BitVec 128) (udp : BitVec 16) (peerConn : BitVec 20) (winBase : VA) (winSize : Nat)
  /-- `NET_KEY`. Installs a connection key and restarts its IV counter (R323; an event of the package, with no encoding). -/
  | netKey (sess conn : Nat) (key : BitVec 256) (salt : BitVec 64)
  /-- `NET_CONN_CLOSE`. Closes a connection, completing its held commands with status 4 (R318; an event of the package, with no encoding). -/
  | netConnClose (sess conn : Nat)
  /-- `SAMPLE_SET`. Configures sampling for a world on a set of dies (R328; an event of the package, with no encoding). -/
  | sampleSet (sess world : Nat) (dies : BitVec 8) (logN : Nat) (ring : PA) (entries : Nat) (period : BitVec 64) (card : VA)
  /-- `SAMPLE_SET_ACTIVATE`. A sampling setting takes effect at the die's next DCC multiple of 2^20 (R328; an event of the package, with no encoding). -/
  | sampleSetActivate (die world : Nat)
  /-- `ERRLOG_EXPORT`. Returns and removes signed error-log records of a unit (R328; an event of the package, with no encoding). -/
  | errlogExport (sess unit log count : Nat)
  /-- `DISPATCH`. When resources free or a card enters, the dispatcher places the next gang of the first placeable card (R282; an event of the package, with no encoding). -/
  | dispatch (die : Nat)
  /-- `CREW_RETIRE`. Once its writes and commands are acknowledged, a crew retires and its resources return (R284; an event of the package, with no encoding). -/
  | crewRetire (crew : Nat)
  /-- `CARD_COMPLETE`. A card whose crews are all gone releases, writes its token and releases successors (R285; an event of the package, with no encoding). -/
  | cardComplete (tid : Nat)
  /-- `SLICE_EXPIRY`. A world's slice expires and its resident crews are pre-empted or the slice restarts (R288; an event of the package, with no encoding). -/
  | sliceExpiry (die : Nat)
  /-- `DRAIN_LIMIT_EXPIRY`. A drained crew that has not retired within one slice length is saved (R289; an event of the package, with no encoding). -/
  | drainLimitExpiry (crew : Nat)
  /-- `CREW_SAVE`. After outstanding values land, the crew's team records and image are written to the save area (R86; an event of the package, with no encoding). -/
  | crewSave (crew : Nat)
  /-- `TRAP_RECORD_WRITE`. The task unit writes a trap record into a free slot and enters the handler card (R291; an event of the package, with no encoding). -/
  | trapRecordWrite (team : Nat)
  /-- `TEAM_RESUME`. After its commands complete, a resumed team restarts at its region entry (R294; an event of the package, with no encoding). -/
  | teamResume (team : Nat)
  /-- `RELAUNCH_HOLD_RELEASE`. A relaunch held after a silence notice becomes placeable once the holder's entries are gone or 16 rounds pass (R354; an event of the package, with no encoding). -/
  | relaunchHoldRelease (die : Nat)
  /-- `DIE_RESET`. The management core resets a die, treated as silence then return to service (R296; an event of the package, with no encoding). -/
  | dieReset (die : Nat)
  /-- `JOIN_TIMEOUT`. The join deadline passes, JTO sets and held lanes are released (R65; an event of the package, with no encoding). -/
  | joinTimeout (team : Nat)
  /-- `BARRIER_TIMEOUT`. A bar.to deadline passes before completion, withdrawing the arrival and trapping 0x16 (R270; an event of the package, with no encoding). -/
  | barrierTimeout (team : Nat)
  /-- `BARRIER_RELEASE`. A completed phase is delivered to its waiting teams, which acquire (R268; an event of the package, with no encoding). -/
  | barrierRelease (bar : Nat)
  /-- `PHASE_BARRIER_WAKE`. A team waiting in pb.wait resumes once the phase changes, or traps on overrun (R194; an event of the package, with no encoding). -/
  | phaseBarrierWake (team : Nat)
  /-- `SLEEP_WAKE`. A sleeping team wakes when the DCC reaches its value and checks its promises (R190; an event of the package, with no encoding). -/
  | sleepWake (team : Nat)
  /-- `PROMISE_MISSED`. A promised copy still unfinished 256 DCC late traps the team 0x15 (R190; an event of the package, with no encoding). -/
  | promiseMissed (team : Nat)
  /-- `ALLOTMENT_GRANT`. A parked acqx is granted when the pool has room, in park order (R76; an event of the package, with no encoding). -/
  | allotmentGrant (crew : Nat)
  /-- `SCRUB_VISIT`. The background scrubber visits a protected word, correcting or poisoning it (R80; an event of the package, with no encoding). -/
  | scrubVisit (place : ScrubAt) (wrongBits : BitVec 2) (onRead : Bool)
  /-- `SAMPLE_TICK`. Every N core cycles each port samples a team and writes a record to the ring (R329; an event of the package, with no encoding). -/
  | sampleTick (core : Nat) (portB : Bool)
  /-- `SAMPLE_TIMER_EXPIRY`. A core's sample timer expires and a sampler crew is entered or the firing dropped (R331; an event of the package, with no encoding). -/
  | sampleTimerExpiry (core : Nat)
  /-- `STOPCTL_ARM`. A write of STOPCTL.ARM arms a stop at (E, P) for the selected team (R335; an event of the package, with no encoding). -/
  | stopctlArm (team : Nat)
  /-- `STOP_REACHED`. A team reaches its armed stop, discards its FIFO and re-executes the region in stop mode (R336; an event of the package, with no encoding). -/
  | stopReached (team : Nat)
  /-- `STOP_TRAP`. After pass P completes in stop mode, the team traps 0x18 (R336; an event of the package, with no encoding). -/
  | stopTrap (team : Nat)
  /-- `BOOT_START`. At reset the management core runs BL0, BL1 and BL2, verifying and measuring firmware (R312; an event of the package, with no encoding). -/
  | bootStart
  /-- `START_WATCHDOG_EXPIRY`. A start not completed before the watchdog expires fails with reason 0x20 (R314; an event of the package, with no encoding). -/
  | startWatchdogExpiry
  /-- `DIE_ENTER_SERVICE`. A die whose calibration and an attach pier's training are done enters service (R315; an event of the package, with no encoding). -/
  | dieEnterService (die : Nat)
  /-- `CALIBRATION_COMPLETE`. When every die in service is calibrated, cores switch to 1.8 GHz and CAL sets (R315; an event of the package, with no encoding). -/
  | calibrationComplete
  /-- `BRING_UP_END`. Bring-up ends and UP sets, clearing the failed-start count and blowing rollback bits (R315; an event of the package, with no encoding). -/
  | bringUpEnd
  /-- `DATAGRAM_RECEIVE`. A network datagram arrives and is authenticated, performed, buffered, acknowledged or NAKed (R320; an event of the package, with no encoding). -/
  | datagramReceive (d : Datagram)
  /-- `CONN_RECORD_FETCH`. A fetched connection record serves the packets parked for it (R319; an event of the package, with no encoding). -/
  | connRecordFetch (conn : Nat)
  /-- `NET_RETRANSMIT_TIMEOUT`. A retransmission timeout resends, and 16 in a row complete the command with status 4 (R321; an event of the package, with no encoding). -/
  | netRetransmitTimeout (conn : Nat)
  /-- `RNR_RETRANSMIT`. A packet refused receiver-not-ready is resent after 8,192 DCC (R319; an event of the package, with no encoding). -/
  | rnrRetransmit (conn : Nat)
  /-- `RATE_UPDATE`. Once per round trip the connection rate is cut by marks or raised by 1 Gb/s (R322; an event of the package, with no encoding). -/
  | rateUpdate (conn marked total : Nat)
  /-- `POWER_LOSS`. Power is lost, possibly in the middle of a failed-start count increment or a fuse blow, leaving the flash copies or fuses as the next boot finds them (R314; an event of the package, with no encoding). -/
  | powerLoss (counted : Bool) (blown weak : BitVec 64)
  /-- `DRAM_TRAINING_FAILED`. A pier's DRAM training ends in failure, so the start fails with REASON 0x10 (R314; an event of the package, with no encoding). -/
  | dramTrainingFailed (pier : Nat)
  /-- `DIE_CALIBRATION_FAILED`. A die's calibration ends in failure, so the start fails with REASON 0x11 (R314; an event of the package, with no encoding). -/
  | dieCalibrationFailed (die : Nat)
  /-- `PIER_RESET`. A pier is reset, which clears its failed channels and returns it to service (R340; an event of the package, with no encoding). -/
  | pierReset (pier : Nat)
  deriving DecidableEq, Repr

end Sys2Proof
end

