-- ==== Sys2Proof/Decode.lean ====
section
/-! DEFINITION. Decoding instruction words (spec/02 R24, R28, R30 to R35) and the encoder written from the same table. A word
whose opcode or FN is unassigned, or whose reserved or fixed fields differ, is rejected by name; field values that a
later check of R29 judges (SZ, SC, W and the like) are decoded as they stand and checked in WellFormed. -/

namespace Sys2Proof

/- The compiler has no code for a constructor with fields past its 245th, so what builds one is noncomputable: the kernel evaluates
it as it does the rest. `decodeEntry` builds none of them. -/

/-- Why a word is no instruction (R29 step 6, R35; `short` is a text that ends inside an instruction). -/
inductive DecodeError where
  | short
  | unassignedOpcode
  | unassignedFn
  | reservedField
  deriving DecidableEq, Repr

/-- Field [lo+n-1:lo] of a word. -/
def fld (w : Word) (lo n : Nat) : BitVec n := w.extractLsb' lo n

/-- OP, bits [31:26] (R30). -/
def opcodeOf (w : Word) : Nat := (fld w 26 6).toNat

/-- FN of the formats that hold it in [25:22] (R30). -/
def fnOf (w : Word) : Nat := (fld w 22 4).toNat

/-- Take `i` where the fixed fields hold, else the word is rejected for a reserved field. -/
def need {α : Type} (ok : Bool) (i : α) : Except DecodeError α := if ok then .ok i else .error .reservedField

/-- A reserved or fixed field [lo+n-1:lo] holds v. -/
def fixed (w : Word) (lo n v : Nat) : Bool := (fld w lo n).toNat == v

/-! One decoder per opcode of R34. -/

def decodeOp01 (w : Word) : Except DecodeError Instr :=
  match fnOf w with
  | 0 => .ok (.add (fld w 15 7) (fld w 8 7) (fld w 1 7) (fld w 0 1))
  | 1 => .ok (.sub (fld w 15 7) (fld w 8 7) (fld w 1 7) (fld w 0 1))
  | 2 => .ok (.mullo (fld w 15 7) (fld w 8 7) (fld w 1 7) (fld w 0 1))
  | 3 => .ok (.mulhi (fld w 15 7) (fld w 8 7) (fld w 1 7) (fld w 0 1))
  | 4 => .ok (.mulhu (fld w 15 7) (fld w 8 7) (fld w 1 7) (fld w 0 1))
  | 5 => .ok (.and (fld w 15 7) (fld w 8 7) (fld w 1 7) (fld w 0 1))
  | 6 => .ok (.or (fld w 15 7) (fld w 8 7) (fld w 1 7) (fld w 0 1))
  | 7 => .ok (.xor (fld w 15 7) (fld w 8 7) (fld w 1 7) (fld w 0 1))
  | 8 => .ok (.andn (fld w 15 7) (fld w 8 7) (fld w 1 7) (fld w 0 1))
  | 9 => .ok (.shl (fld w 15 7) (fld w 8 7) (fld w 1 7) (fld w 0 1))
  | 10 => .ok (.shr (fld w 15 7) (fld w 8 7) (fld w 1 7) (fld w 0 1))
  | 11 => .ok (.sra (fld w 15 7) (fld w 8 7) (fld w 1 7) (fld w 0 1))
  | 12 => .ok (.min (fld w 15 7) (fld w 8 7) (fld w 1 7) (fld w 0 1))
  | 13 => .ok (.max (fld w 15 7) (fld w 8 7) (fld w 1 7) (fld w 0 1))
  | 14 => .ok (.minu (fld w 15 7) (fld w 8 7) (fld w 1 7) (fld w 0 1))
  | _ => .ok (.maxu (fld w 15 7) (fld w 8 7) (fld w 1 7) (fld w 0 1))

def decodeOp02 (w : Word) : Except DecodeError Instr :=
  match fnOf w with
  | 0 => .ok (.adds (fld w 15 7) (fld w 8 7) (fld w 1 7) (fld w 0 1))
  | 1 => .ok (.subs (fld w 15 7) (fld w 8 7) (fld w 1 7) (fld w 0 1))
  | 2 => .ok (.addus (fld w 15 7) (fld w 8 7) (fld w 1 7) (fld w 0 1))
  | 3 => .ok (.subus (fld w 15 7) (fld w 8 7) (fld w 1 7) (fld w 0 1))
  | 4 => .ok (.rotl (fld w 15 7) (fld w 8 7) (fld w 1 7) (fld w 0 1))
  | 5 => need (fixed w 0 8 0) (.popc (fld w 15 7) (fld w 8 7))
  | 6 => need (fixed w 0 8 0) (.clz (fld w 15 7) (fld w 8 7))
  | 7 => need (fixed w 0 8 0) (.brev (fld w 15 7) (fld w 8 7))
  | 8 => .ok (.absd (fld w 15 7) (fld w 8 7) (fld w 1 7) (fld w 0 1))
  | 9 => .ok (.avgu (fld w 15 7) (fld w 8 7) (fld w 1 7) (fld w 0 1))
  | _ => .error .unassignedFn

def decodeOp03 (w : Word) : Except DecodeError Instr := .ok (.addi (fld w 19 7) (fld w 12 7) (fld w 0 12))

def decodeOp04 (w : Word) : Except DecodeError Instr := .ok (.andi (fld w 19 7) (fld w 12 7) (fld w 0 12))

def decodeOp05 (w : Word) : Except DecodeError Instr := .ok (.ori (fld w 19 7) (fld w 12 7) (fld w 0 12))

def decodeOp06 (w : Word) : Except DecodeError Instr := .ok (.xori (fld w 19 7) (fld w 12 7) (fld w 0 12))

def decodeOp07 (w : Word) : Except DecodeError Instr :=
  match (fld w 10 2).toNat with
  | 0 => need (fixed w 5 5 0) (.shli (fld w 19 7) (fld w 12 7) (fld w 0 5))
  | 1 => need (fixed w 5 5 0) (.shri (fld w 19 7) (fld w 12 7) (fld w 0 5))
  | 2 => need (fixed w 5 5 0) (.srai (fld w 19 7) (fld w 12 7) (fld w 0 5))
  | _ => need (fixed w 5 5 0) (.rotli (fld w 19 7) (fld w 12 7) (fld w 0 5))

def decodeOp08 (w : Word) : Except DecodeError Instr :=
  match fnOf w with
  | 0 => .ok (.fadd (fld w 15 7) (fld w 8 7) (fld w 1 7) (fld w 0 1))
  | 1 => .ok (.fsub (fld w 15 7) (fld w 8 7) (fld w 1 7) (fld w 0 1))
  | 2 => .ok (.fmul (fld w 15 7) (fld w 8 7) (fld w 1 7) (fld w 0 1))
  | 3 => .ok (.fmin (fld w 15 7) (fld w 8 7) (fld w 1 7) (fld w 0 1))
  | 4 => .ok (.fmax (fld w 15 7) (fld w 8 7) (fld w 1 7) (fld w 0 1))
  | 5 => .ok (.fma (fld w 15 7) (fld w 8 7) (fld w 1 7) (fld w 0 1))
  | 6 => .ok (.fnma (fld w 15 7) (fld w 8 7) (fld w 1 7) (fld w 0 1))
  | 7 => .ok (.fcopysign (fld w 15 7) (fld w 8 7) (fld w 1 7) (fld w 0 1))
  | _ => .error .unassignedFn

def decodeOp09 (w : Word) : Except DecodeError Instr :=
  match fnOf w with
  | 0 => .ok (.hadd2 (fld w 15 7) (fld w 8 7) (fld w 1 7) (fld w 0 1))
  | 1 => .ok (.hmul2 (fld w 15 7) (fld w 8 7) (fld w 1 7) (fld w 0 1))
  | 2 => .ok (.hfma2 (fld w 15 7) (fld w 8 7) (fld w 1 7) (fld w 0 1))
  | 3 => .ok (.badd2 (fld w 15 7) (fld w 8 7) (fld w 1 7) (fld w 0 1))
  | 4 => .ok (.bmul2 (fld w 15 7) (fld w 8 7) (fld w 1 7) (fld w 0 1))
  | 5 => .ok (.bfma2 (fld w 15 7) (fld w 8 7) (fld w 1 7) (fld w 0 1))
  | 6 => .ok (.hmin2 (fld w 15 7) (fld w 8 7) (fld w 1 7) (fld w 0 1))
  | 7 => .ok (.hmax2 (fld w 15 7) (fld w 8 7) (fld w 1 7) (fld w 0 1))
  | _ => .error .unassignedFn

def decodeOp0A (w : Word) : Except DecodeError Instr :=
  match fnOf w with
  | 0 => need (fixed w 0 8 0) (.frcp (fld w 15 7) (fld w 8 7))
  | 1 => need (fixed w 0 8 0) (.frsq (fld w 15 7) (fld w 8 7))
  | 2 => need (fixed w 0 8 0) (.fsqrt (fld w 15 7) (fld w 8 7))
  | 3 => need (fixed w 0 8 0) (.fexp2 (fld w 15 7) (fld w 8 7))
  | 4 => need (fixed w 0 8 0) (.flog2 (fld w 15 7) (fld w 8 7))
  | _ => .error .unassignedFn

def decodeOp0B (w : Word) : Except DecodeError Instr :=
  match fnOf w with
  | 0 => need (fixed w 0 8 0) (.cvtFI (fld w 15 7) (fld w 8 7))
  | 1 => need (fixed w 0 8 0) (.cvtFU (fld w 15 7) (fld w 8 7))
  | 2 => need (fixed w 0 8 0) (.cvtIF (fld w 15 7) (fld w 8 7))
  | 3 => need (fixed w 0 8 0) (.cvtUF (fld w 15 7) (fld w 8 7))
  | 4 => .ok (.cvtBfp (fld w 15 7) (fld w 8 7) (fld w 1 7) (fld w 0 1))
  | 5 => need (fixed w 0 1 0) (.cvtFBf (fld w 15 7) (fld w 8 7) (fld w 1 7))
  | 6 => .ok (.cvtHp (fld w 15 7) (fld w 8 7) (fld w 1 7) (fld w 0 1))
  | 7 => need (fixed w 0 1 0) (.cvtFH (fld w 15 7) (fld w 8 7) (fld w 1 7))
  | 8 => .ok (.cvtE4l (fld w 15 7) (fld w 8 7) (fld w 1 7) (fld w 0 1))
  | 9 => .ok (.cvtE4h (fld w 15 7) (fld w 8 7) (fld w 1 7) (fld w 0 1))
  | 10 => need (fixed w 0 1 0) (.cvtFE4 (fld w 15 7) (fld w 8 7) (fld w 1 7))
  | 11 => .ok (.cvtE5l (fld w 15 7) (fld w 8 7) (fld w 1 7) (fld w 0 1))
  | 12 => .ok (.cvtE5h (fld w 15 7) (fld w 8 7) (fld w 1 7) (fld w 0 1))
  | 13 => need (fixed w 0 1 0) (.cvtFE5 (fld w 15 7) (fld w 8 7) (fld w 1 7))
  | _ => .error .unassignedFn

def decodeOp0C (w : Word) : Except DecodeError Instr :=
  match fnOf w with
  | 0 => .ok (.dp4S8 (fld w 15 7) (fld w 8 7) (fld w 1 7) (fld w 0 1))
  | 1 => .ok (.dp4N8 (fld w 15 7) (fld w 8 7) (fld w 1 7) (fld w 0 1))
  | 2 => .ok (.dp4Sn8 (fld w 15 7) (fld w 8 7) (fld w 1 7) (fld w 0 1))
  | 3 => .ok (.dp8S4 (fld w 15 7) (fld w 8 7) (fld w 1 7) (fld w 0 1))
  | 4 => .ok (.dp8N4 (fld w 15 7) (fld w 8 7) (fld w 1 7) (fld w 0 1))
  | 5 => .ok (.dp8Sn4 (fld w 15 7) (fld w 8 7) (fld w 1 7) (fld w 0 1))
  | 6 => .ok (.dp4E4 (fld w 15 7) (fld w 8 7) (fld w 1 7) (fld w 0 1))
  | 7 => .ok (.dp4E5 (fld w 15 7) (fld w 8 7) (fld w 1 7) (fld w 0 1))
  | _ => .error .unassignedFn

def decodeOp0D (w : Word) : Except DecodeError Instr :=
  match fnOf w with
  | 0 => .ok (.scacc (fld w 15 7) (fld w 8 7) (fld w 1 7) (fld w 0 1))
  | 1 => .ok (.scacc2 (fld w 15 7) (fld w 8 7) (fld w 1 7) (fld w 0 1))
  | 2 => .ok (.scmul (fld w 15 7) (fld w 8 7) (fld w 1 7) (fld w 0 1))
  | _ => .error .unassignedFn

def decodeOp0E (w : Word) : Except DecodeError Instr :=
  match fnOf w with
  | 0 => need (fixed w 0 2 0) (.cmpEq (fld w 19 3) (fld w 12 7) (fld w 5 7) (fld w 4 1) (fld w 2 2))
  | 1 => need (fixed w 0 2 0) (.cmpNe (fld w 19 3) (fld w 12 7) (fld w 5 7) (fld w 4 1) (fld w 2 2))
  | 2 => need (fixed w 0 2 0) (.cmpLt (fld w 19 3) (fld w 12 7) (fld w 5 7) (fld w 4 1) (fld w 2 2))
  | 3 => need (fixed w 0 2 0) (.cmpLe (fld w 19 3) (fld w 12 7) (fld w 5 7) (fld w 4 1) (fld w 2 2))
  | 4 => need (fixed w 0 2 0) (.cmpGt (fld w 19 3) (fld w 12 7) (fld w 5 7) (fld w 4 1) (fld w 2 2))
  | 5 => need (fixed w 0 2 0) (.cmpGe (fld w 19 3) (fld w 12 7) (fld w 5 7) (fld w 4 1) (fld w 2 2))
  | 6 => need (fixed w 0 2 0) (.cmpLtu (fld w 19 3) (fld w 12 7) (fld w 5 7) (fld w 4 1) (fld w 2 2))
  | 7 => need (fixed w 0 2 0) (.cmpLeu (fld w 19 3) (fld w 12 7) (fld w 5 7) (fld w 4 1) (fld w 2 2))
  | 8 => need (fixed w 0 2 0) (.cmpGtu (fld w 19 3) (fld w 12 7) (fld w 5 7) (fld w 4 1) (fld w 2 2))
  | 9 => need (fixed w 0 2 0) (.cmpGeu (fld w 19 3) (fld w 12 7) (fld w 5 7) (fld w 4 1) (fld w 2 2))
  | _ => .error .unassignedFn

def decodeOp0F (w : Word) : Except DecodeError Instr :=
  match fnOf w with
  | 0 => need (fixed w 0 2 0) (.fcmpEq (fld w 19 3) (fld w 12 7) (fld w 5 7) (fld w 4 1) (fld w 2 2))
  | 1 => need (fixed w 0 2 0) (.fcmpNe (fld w 19 3) (fld w 12 7) (fld w 5 7) (fld w 4 1) (fld w 2 2))
  | 2 => need (fixed w 0 2 0) (.fcmpLt (fld w 19 3) (fld w 12 7) (fld w 5 7) (fld w 4 1) (fld w 2 2))
  | 3 => need (fixed w 0 2 0) (.fcmpLe (fld w 19 3) (fld w 12 7) (fld w 5 7) (fld w 4 1) (fld w 2 2))
  | 4 => need (fixed w 0 2 0) (.fcmpGt (fld w 19 3) (fld w 12 7) (fld w 5 7) (fld w 4 1) (fld w 2 2))
  | 5 => need (fixed w 0 2 0) (.fcmpGe (fld w 19 3) (fld w 12 7) (fld w 5 7) (fld w 4 1) (fld w 2 2))
  | 6 => need (fixed w 0 2 0) (.fcmpUn (fld w 19 3) (fld w 12 7) (fld w 5 7) (fld w 4 1) (fld w 2 2))
  | 7 => need (fixed w 0 2 0) (.fcmpOrd (fld w 19 3) (fld w 12 7) (fld w 5 7) (fld w 4 1) (fld w 2 2))
  | _ => .error .unassignedFn

def decodeOp10 (w : Word) : Except DecodeError Instr :=
  match fnOf w with
  | 0 => need (fixed w 0 13 0) (.pand (fld w 19 3) (fld w 16 3) (fld w 13 3))
  | 1 => need (fixed w 0 13 0) (.por (fld w 19 3) (fld w 16 3) (fld w 13 3))
  | 2 => need (fixed w 0 13 0) (.pxor (fld w 19 3) (fld w 16 3) (fld w 13 3))
  | 3 => need (fixed w 0 13 0) (.pandn (fld w 19 3) (fld w 16 3) (fld w 13 3))
  | 4 => need (fixed w 0 16 0) (.pnot (fld w 19 3) (fld w 16 3))
  | 5 => need (fixed w 0 16 0) (.pmov (fld w 19 3) (fld w 16 3))
  | _ => .error .unassignedFn

def decodeOp11 (w : Word) : Except DecodeError Instr := .ok (.sel (fld w 23 3) (fld w 22 1) (fld w 15 7) (fld w 8 7) (fld w 1 7) (fld w 0 1))

def decodeOp12 (w : Word) : Except DecodeError Instr :=
  match fnOf w with
  | 0 => need (fixed w 0 8 0) (.mov (fld w 15 7) (fld w 8 7))
  | 1 => need (fixed w 0 8 0) (.movs (fld w 15 7) (fld w 8 7))
  | 2 => need (fixed w 8 7 0 && fixed w 0 1 1) (.movix (fld w 15 7) (fld w 1 7))
  | 3 => need (fixed w 15 7 0 && fixed w 0 1 1) (.movixW (fld w 8 7) (fld w 1 7))
  | 4 => need (fixed w 0 15 0) (.lane (fld w 15 7))
  | 5 => need (fixed w 0 15 0) (.lword (fld w 15 7))
  | 6 => need (fixed w 0 8 0) (.movsv (fld w 15 7) (fld w 8 7))
  | _ => .error .unassignedFn

def decodeOp14 (w : Word) : Except DecodeError Instr :=
  match fnOf w with
  | 0 => need (fixed w 0 1 0) (.sadd (fld w 15 7) (fld w 8 7) (fld w 1 7))
  | 1 => need (fixed w 0 1 0) (.ssub (fld w 15 7) (fld w 8 7) (fld w 1 7))
  | 2 => need (fixed w 0 1 0) (.smul (fld w 15 7) (fld w 8 7) (fld w 1 7))
  | 3 => need (fixed w 0 1 0) (.sand (fld w 15 7) (fld w 8 7) (fld w 1 7))
  | 4 => need (fixed w 0 1 0) (.sor (fld w 15 7) (fld w 8 7) (fld w 1 7))
  | 5 => need (fixed w 0 1 0) (.sxor (fld w 15 7) (fld w 8 7) (fld w 1 7))
  | 6 => need (fixed w 0 1 0) (.sshl (fld w 15 7) (fld w 8 7) (fld w 1 7))
  | 7 => need (fixed w 0 1 0) (.sshr (fld w 15 7) (fld w 8 7) (fld w 1 7))
  | 8 => need (fixed w 0 1 0) (.ssra (fld w 15 7) (fld w 8 7) (fld w 1 7))
  | 9 => need (fixed w 0 1 0) (.smin (fld w 15 7) (fld w 8 7) (fld w 1 7))
  | 10 => need (fixed w 0 1 0) (.smax (fld w 15 7) (fld w 8 7) (fld w 1 7))
  | 11 => need (fixed w 0 1 0) (.sminu (fld w 15 7) (fld w 8 7) (fld w 1 7))
  | 12 => need (fixed w 0 1 0) (.smaxu (fld w 15 7) (fld w 8 7) (fld w 1 7))
  | _ => .error .unassignedFn

def decodeOp15 (w : Word) : Except DecodeError Instr := .ok (.saddi (fld w 19 7) (fld w 12 7) (fld w 0 12))

def decodeOp16 (w : Word) : Except DecodeError Instr :=
  match fnOf w with
  | 0 => need (fixed w 0 1 0) (.scmpEq (fld w 15 7) (fld w 8 7) (fld w 1 7))
  | 1 => need (fixed w 0 1 0) (.scmpNe (fld w 15 7) (fld w 8 7) (fld w 1 7))
  | 2 => need (fixed w 0 1 0) (.scmpLt (fld w 15 7) (fld w 8 7) (fld w 1 7))
  | 3 => need (fixed w 0 1 0) (.scmpLe (fld w 15 7) (fld w 8 7) (fld w 1 7))
  | 4 => need (fixed w 0 1 0) (.scmpGt (fld w 15 7) (fld w 8 7) (fld w 1 7))
  | 5 => need (fixed w 0 1 0) (.scmpGe (fld w 15 7) (fld w 8 7) (fld w 1 7))
  | 6 => need (fixed w 0 1 0) (.scmpLtu (fld w 15 7) (fld w 8 7) (fld w 1 7))
  | 7 => need (fixed w 0 1 0) (.scmpLeu (fld w 15 7) (fld w 8 7) (fld w 1 7))
  | 8 => need (fixed w 0 1 0) (.scmpGtu (fld w 15 7) (fld w 8 7) (fld w 1 7))
  | 9 => need (fixed w 0 1 0) (.scmpGeu (fld w 15 7) (fld w 8 7) (fld w 1 7))
  | _ => .error .unassignedFn

def decodeOp17 (w : Word) : Except DecodeError Instr :=
  match fnOf w with
  | 0 => .ok (.shflIdx (fld w 15 7) (fld w 8 7) (fld w 1 7) (fld w 0 1))
  | 1 => .ok (.shflUp (fld w 15 7) (fld w 8 7) (fld w 1 7) (fld w 0 1))
  | 2 => .ok (.shflDn (fld w 15 7) (fld w 8 7) (fld w 1 7) (fld w 0 1))
  | 3 => .ok (.shflXor (fld w 15 7) (fld w 8 7) (fld w 1 7) (fld w 0 1))
  | 4 => need (fixed w 0 8 0) (.voteAny (fld w 15 7) (fld w 8 7))
  | 5 => need (fixed w 0 8 0) (.voteAll (fld w 15 7) (fld w 8 7))
  | 6 => need (fixed w 0 8 0) (.ballot (fld w 15 7) (fld w 8 7))
  | 7 => need (fixed w 0 8 0) (.redadd (fld w 15 7) (fld w 8 7))
  | 8 => need (fixed w 0 8 0) (.redmax (fld w 15 7) (fld w 8 7))
  | _ => .error .unassignedFn

def decodeOp18 (w : Word) : Except DecodeError Instr := .ok (.ldG (fld w 23 3) (fld w 16 7) (fld w 9 7) (fld w 3 6) (fld w 0 3))

def decodeOp19 (w : Word) : Except DecodeError Instr := .ok (.stG (fld w 23 3) (fld w 16 7) (fld w 9 7) (fld w 3 6) (fld w 0 3))

def decodeOp1A (w : Word) : Except DecodeError Instr := need (fixed w 0 3 0) (.ldA (fld w 23 3) (fld w 16 7) (fld w 9 7) (fld w 6 3) (fld w 3 3))

def decodeOp1B (w : Word) : Except DecodeError Instr := need (fixed w 1 2 0) (.stL (fld w 23 3) (fld w 16 7) (fld w 9 7) (fld w 6 3) (fld w 3 3) (fld w 0 1))

def decodeOp1C (w : Word) : Except DecodeError Instr :=
  match fnOf w with
  | 0 => .ok (.atAdd (fld w 15 7) (fld w 8 7) (fld w 5 3) (fld w 2 3) (fld w 0 2))
  | 1 => .ok (.atAnd (fld w 15 7) (fld w 8 7) (fld w 5 3) (fld w 2 3) (fld w 0 2))
  | 2 => .ok (.atOr (fld w 15 7) (fld w 8 7) (fld w 5 3) (fld w 2 3) (fld w 0 2))
  | 3 => .ok (.atXor (fld w 15 7) (fld w 8 7) (fld w 5 3) (fld w 2 3) (fld w 0 2))
  | 4 => .ok (.atMin (fld w 15 7) (fld w 8 7) (fld w 5 3) (fld w 2 3) (fld w 0 2))
  | 5 => .ok (.atMax (fld w 15 7) (fld w 8 7) (fld w 5 3) (fld w 2 3) (fld w 0 2))
  | 6 => .ok (.atMinu (fld w 15 7) (fld w 8 7) (fld w 5 3) (fld w 2 3) (fld w 0 2))
  | 7 => .ok (.atMaxu (fld w 15 7) (fld w 8 7) (fld w 5 3) (fld w 2 3) (fld w 0 2))
  | 8 => .ok (.atXchg (fld w 15 7) (fld w 8 7) (fld w 5 3) (fld w 2 3) (fld w 0 2))
  | 9 => .ok (.atCas (fld w 15 7) (fld w 8 7) (fld w 5 3) (fld w 2 3) (fld w 0 2))
  | 10 => .ok (.atFadd (fld w 15 7) (fld w 8 7) (fld w 5 3) (fld w 2 3) (fld w 0 2))
  | _ => .error .unassignedFn

def decodeOp1D (w : Word) : Except DecodeError Instr :=
  match fnOf w with
  | 0 => .ok (.vatF32 (fld w 15 7) (fld w 8 7) (fld w 5 3) (fld w 2 3) (fld w 0 2))
  | 1 => .ok (.vatBf16 (fld w 15 7) (fld w 8 7) (fld w 5 3) (fld w 2 3) (fld w 0 2))
  | _ => .error .unassignedFn

def decodeOp1E (w : Word) : Except DecodeError Instr := .ok (.ldS (fld w 23 3) (fld w 16 7) (fld w 9 7) (fld w 3 6) (fld w 0 3))

def decodeOp1F (w : Word) : Except DecodeError Instr := .ok (.stS (fld w 23 3) (fld w 16 7) (fld w 9 7) (fld w 3 6) (fld w 0 3))

def decodeOp20 (w : Word) : Except DecodeError Instr :=
  match (fld w 8 1).toNat with
  | 0 => .ok (.ldSq (fld w 23 3) (fld w 16 7) (fld w 9 7) (fld w 3 5) (fld w 0 3))
  | _ => .ok (.stSq (fld w 23 3) (fld w 16 7) (fld w 9 7) (fld w 3 5) (fld w 0 3))

def decodeOp21 (w : Word) : Except DecodeError Instr :=
  match fnOf w with
  | 0 => need (fixed w 0 8 0) (.tlook (fld w 15 7) (fld w 8 7))
  | 1 => .ok (.tins (fld w 15 7) (fld w 8 7) (fld w 1 7) (fld w 0 1))
  | 2 => need (fixed w 0 8 0) (.tinv (fld w 15 7) (fld w 8 7))
  | 3 => need (fixed w 0 22 0) (.tflush)
  | _ => .error .unassignedFn

def decodeOp22 (w : Word) : Except DecodeError Instr := need (fixed w 24 2 2) (.ldU (fld w 23 1) (fld w 16 7) (fld w 9 7) (fld w 3 6) (fld w 0 3))

def decodeOp23 (w : Word) : Except DecodeError Instr := need (fixed w 24 2 2) (.stU (fld w 23 1) (fld w 16 7) (fld w 9 7) (fld w 3 6) (fld w 0 3))

def decodeOp24 (w : Word) : Except DecodeError Instr :=
  match fnOf w with
  | 0 => need (fixed w 3 5 0) (.annc (fld w 15 7) (fld w 8 7) (fld w 0 3))
  | 1 => need (fixed w 3 5 0) (.wdrw (fld w 15 7) (fld w 8 7) (fld w 0 3))
  | 2 => need (fixed w 4 4 0) (.rlook (fld w 15 7) (fld w 8 7) (fld w 3 1) (fld w 0 3))
  | 3 => need (fixed w 3 5 0) (.hmove (fld w 15 7) (fld w 8 7) (fld w 0 3))
  | 4 => need (fixed w 5 10 0) (.rstat (fld w 15 7) (fld w 3 2) (fld w 0 3))
  | _ => .error .unassignedFn

def decodeOp26 (w : Word) : Except DecodeError Instr :=
  match fnOf w with
  | 0 => need (fixed w 0 7 0) (.qpush (fld w 18 4) (fld w 11 7) (fld w 10 1) (fld w 7 3))
  | 1 => need (fixed w 10 1 1 && fixed w 0 7 0) (.qpop (fld w 18 4) (fld w 11 7) (fld w 7 3))
  | 2 => need (fixed w 3 8 240) (.qtry (fld w 18 4) (fld w 11 7) (fld w 0 3))
  | 3 => need (fixed w 7 11 7) (.qfence (fld w 18 4) (fld w 0 7))
  | 4 => need (fixed w 0 11 1920) (.qstat (fld w 18 4) (fld w 11 7))
  | _ => .error .unassignedFn

def decodeOp27 (w : Word) : Except DecodeError Instr :=
  match fnOf w with
  | 0 => need (fixed w 10 1 1 && fixed w 1 6 0) (.cpyG2s (fld w 18 4) (fld w 11 7) (fld w 7 3) (fld w 0 1))
  | 1 => need (fixed w 10 1 1 && fixed w 1 6 0) (.cpyS2g (fld w 18 4) (fld w 11 7) (fld w 7 3) (fld w 0 1))
  | 2 => need (fixed w 10 1 1) (.cpyG2g (fld w 18 4) (fld w 11 7) (fld w 7 3) (fld w 0 7))
  | 3 => need (fixed w 10 1 1) (.cpyPln (fld w 18 4) (fld w 11 7) (fld w 7 3) (fld w 4 3) (fld w 1 3) (fld w 0 1))
  | 4 => need (fixed w 10 1 1 && fixed w 1 6 0) (.cpyS2sq (fld w 18 4) (fld w 11 7) (fld w 7 3) (fld w 0 1))
  | _ => .error .unassignedFn

def decodeOp28 (w : Word) : Except DecodeError Instr :=
  match fnOf w with
  | 0 => need (fixed w 0 15 0) (.cyc (fld w 15 7))
  | 1 => need (fixed w 15 7 0 && fixed w 0 8 0) (.sleepc (fld w 8 7))
  | _ => .error .unassignedFn

def decodeOp29 (w : Word) : Except DecodeError Instr :=
  match (fld w 24 2).toNat with
  | 0 => .ok (.mma (fld w 18 6) (fld w 11 7) (fld w 4 7) (fld w 0 4))
  | 1 => .ok (.mmaZ (fld w 18 6) (fld w 11 7) (fld w 4 7) (fld w 0 4))
  | 2 => need (fixed w 4 7 0) (.mmaB (fld w 18 6) (fld w 11 7) (fld w 0 4))
  | _ => need (fixed w 4 7 0) (.mmaBz (fld w 18 6) (fld w 11 7) (fld w 0 4))

def decodeOp2A (w : Word) : Except DecodeError Instr :=
  match fnOf w with
  | 0 => need (fixed w 0 5 0) (.amov (fld w 15 7) (fld w 9 6) (fld w 5 4))
  | 1 => need (fixed w 0 5 0) (.awr (fld w 15 7) (fld w 9 6) (fld w 5 4))
  | 2 => need (fixed w 15 7 0 && fixed w 0 9 0) (.aclr (fld w 9 6))
  | 3 => need (fixed w 6 3 0 && fixed w 0 5 0) (.aovf (fld w 15 7) (fld w 9 6) (fld w 5 1))
  | _ => .error .unassignedFn

def decodeOp2B (w : Word) : Except DecodeError Instr :=
  match fnOf w with
  | 0 => need (fixed w 0 2 0) (.plnw (fld w 15 7) (fld w 8 7) (fld w 5 3) (fld w 2 3))
  | 1 => match (fld w 1 1).toNat with
    | 0 => need (fixed w 0 1 0) (.plnr (fld w 15 7) (fld w 8 7) (fld w 5 3) (fld w 2 3))
    | _ => need (fixed w 0 1 0) (.plnrS (fld w 15 7) (fld w 8 7) (fld w 5 3) (fld w 2 3))
  | 2 => need (fixed w 0 8 0) (.tset (fld w 15 7) (fld w 8 7))
  | 3 => need (fixed w 0 8 0) (.tget (fld w 15 7) (fld w 8 7))
  | _ => .error .unassignedFn

def decodeOp2C (w : Word) : Except DecodeError Instr :=
  match fnOf w with
  | 0 => need (fixed w 15 7 0) (.barArv (fld w 8 7) (fld w 3 5) (fld w 0 3))
  | 1 => need (fixed w 8 14 0) (.barWait (fld w 3 5) (fld w 0 3))
  | 2 => need (fixed w 15 7 0) (.barSync (fld w 8 7) (fld w 3 5) (fld w 0 3))
  | 3 => .ok (.barTo (fld w 15 7) (fld w 8 7) (fld w 3 5) (fld w 0 3))
  | _ => .error .unassignedFn

def decodeOp2D (w : Word) : Except DecodeError Instr :=
  match fnOf w with
  | 0 => need (fixed w 0 8 0) (.pbInit (fld w 15 7) (fld w 8 7))
  | 1 => need (fixed w 15 7 0 && fixed w 0 8 0) (.pbArv (fld w 8 7))
  | 2 => need (fixed w 0 8 0) (.pbExp (fld w 15 7) (fld w 8 7))
  | 3 => need (fixed w 15 7 0 && fixed w 1 7 0) (.pbWait (fld w 8 7) (fld w 0 1))
  | 4 => need (fixed w 15 7 0 && fixed w 4 4 0) (.pbTest (fld w 8 7) (fld w 1 3) (fld w 0 1))
  | _ => .error .unassignedFn

def decodeOp2E (w : Word) : Except DecodeError Instr :=
  match fnOf w with
  | 0 => need (fixed w 3 19 0) (.fenceAcq (fld w 0 3))
  | 1 => need (fixed w 3 19 0) (.fenceRel (fld w 0 3))
  | 2 => need (fixed w 3 19 0) (.fenceAr (fld w 0 3))
  | 3 => need (fixed w 3 19 0) (.fenceQ (fld w 0 3))
  | _ => .error .unassignedFn

def decodeOp30 (w : Word) : Except DecodeError Instr :=
  match fnOf w with
  | 0 => .ok (.br (fld w 19 3) (fld w 18 1) (fld w 0 18))
  | 1 => need (fixed w 18 4 0) (.bra (fld w 0 18))
  | 2 => .ok (.call (fld w 19 3) (fld w 18 1) (fld w 0 18))
  | 3 => need (fixed w 0 18 0) (.exit (fld w 19 3) (fld w 18 1))
  | _ => .error .unassignedFn

def decodeOp31 (w : Word) : Except DecodeError Instr :=
  match fnOf w with
  | 0 => .ok (.bz (fld w 19 3) (fld w 12 7) (fld w 0 12))
  | 1 => .ok (.bnz (fld w 19 3) (fld w 12 7) (fld w 0 12))
  | 2 => .ok (.bpend (fld w 19 3) (fld w 12 7) (fld w 0 12))
  | 3 => .ok (.bpendN (fld w 19 3) (fld w 12 7) (fld w 0 12))
  | 4 => need (fixed w 19 3 1) (.jmps (fld w 12 7) (fld w 0 12))
  | 5 => need (fixed w 19 3 1) (.calls (fld w 12 7) (fld w 0 12))
  | 6 => need (fixed w 20 2 0) (.ret (fld w 19 1) (fld w 12 7) (fld w 0 12))
  | _ => .error .unassignedFn

def decodeOp32 (w : Word) : Except DecodeError Instr := .ok (.loop (fld w 25 1) (fld w 18 7) (fld w 0 18))

def decodeOp33 (w : Word) : Except DecodeError Instr :=
  match fnOf w with
  | 0 => need (fixed w 8 14 0) (.frmode (fld w 0 8))
  | 1 => need (fixed w 0 22 0) (.fryld)
  | 2 => need (fixed w 15 7 0 && fixed w 0 8 0) (.join (fld w 8 7))
  | 3 => need (fixed w 8 7 0) (.mact (fld w 15 7) (fld w 0 8))
  | _ => .error .unassignedFn

def decodeOp34 (w : Word) : Except DecodeError Instr :=
  match fnOf w with
  | 0 => need (fixed w 0 22 0) (.deferOn)
  | 1 => need (fixed w 0 22 0) (.deferOff)
  | 2 => need (fixed w 8 14 0) (.deferStrict (fld w 0 8))
  | 3 => need (fixed w 0 22 0) (.rdrain)
  | 4 => need (fixed w 8 7 0) (.rfstat (fld w 15 7) (fld w 0 8))
  | _ => .error .unassignedFn

/-! These read the fields for whatever is made of them: the instruction here, its plan where no constructor can be built. -/

def opcode35 {α : Type} (w : Word) (acqx relx : BitVec 2 → BitVec 6 → α) (allq : BitVec 7 → BitVec 2 → α) : Except DecodeError α :=
  match fnOf w with
  | 0 => need (fixed w 8 14 0) (acqx (fld w 6 2) (fld w 0 6))
  | 1 => need (fixed w 8 14 0) (relx (fld w 6 2) (fld w 0 6))
  | 2 => need (fixed w 8 7 0 && fixed w 0 6 0) (allq (fld w 15 7) (fld w 6 2))
  | _ => .error .unassignedFn

noncomputable def decodeOp35 (w : Word) : Except DecodeError Instr := opcode35 w .acqx .relx .allq

def opcode36 {α : Type} (w : Word) (ptst : BitVec 7 → BitVec 7 → BitVec 5 → BitVec 3 → α) (pchk : BitVec 7 → BitVec 3 → α) (pchks : BitVec 7 → BitVec 8 → α) : Except DecodeError α :=
  match fnOf w with
  | 0 => .ok (ptst (fld w 15 7) (fld w 8 7) (fld w 3 5) (fld w 0 3))
  | 1 => need (fixed w 15 7 0 && fixed w 3 5 0) (pchk (fld w 8 7) (fld w 0 3))
  | 2 => need (fixed w 15 7 0) (pchks (fld w 8 7) (fld w 0 8))
  | _ => .error .unassignedFn

noncomputable def decodeOp36 (w : Word) : Except DecodeError Instr := opcode36 w .ptst .pchk .pchks

def decodeOp37 (w : Word) : Except DecodeError Instr := .ok (.stGx (fld w 23 3) (fld w 16 7) (fld w 9 7) (fld w 3 6) (fld w 0 3))

def opcode38 {α : Type} (w : Word) (post : BitVec 7 → BitVec 7 → α) (done ctok tid : BitVec 7 → α) : Except DecodeError α :=
  match fnOf w with
  | 0 => need (fixed w 0 8 0) (post (fld w 15 7) (fld w 8 7))
  | 1 => need (fixed w 15 7 0 && fixed w 0 8 0) (done (fld w 8 7))
  | 2 => need (fixed w 0 15 0) (ctok (fld w 15 7))
  | 3 => need (fixed w 0 15 0) (tid (fld w 15 7))
  | _ => .error .unassignedFn

noncomputable def decodeOp38 (w : Word) : Except DecodeError Instr := opcode38 w .post .done .ctok .tid

def opcode39 {α : Type} (w : Word) (trap : BitVec 8 → α) (tresume tkill trelaunch : BitVec 7 → α) (trecord : BitVec 7 → BitVec 7 → BitVec 1 → α) : Except DecodeError α :=
  match fnOf w with
  | 0 => need (fixed w 8 14 0) (trap (fld w 0 8))
  | 1 => need (fixed w 15 7 0 && fixed w 0 8 0) (tresume (fld w 8 7))
  | 2 => need (fixed w 15 7 0 && fixed w 0 8 0) (tkill (fld w 8 7))
  | 3 => need (fixed w 15 7 0 && fixed w 0 8 0) (trelaunch (fld w 8 7))
  | 4 => need (fixed w 1 7 0) (trecord (fld w 15 7) (fld w 8 7) (fld w 0 1))
  | _ => .error .unassignedFn

noncomputable def decodeOp39 (w : Word) : Except DecodeError Instr := opcode39 w .trap .tresume .tkill .trelaunch .trecord

def opcode3A {α : Type} (w : Word) (rdsys wrsys : BitVec 7 → BitVec 8 → α) (smp : BitVec 7 → BitVec 6 → α) : Except DecodeError α :=
  match fnOf w with
  | 0 => need (fixed w 8 7 0) (rdsys (fld w 15 7) (fld w 0 8))
  | 1 => need (fixed w 15 7 0) (wrsys (fld w 8 7) (fld w 0 8))
  | 2 => need (fixed w 15 7 0 && fixed w 6 2 0) (smp (fld w 8 7) (fld w 0 6))
  | _ => .error .unassignedFn

noncomputable def decodeOp3A (w : Word) : Except DecodeError Instr := opcode3A w .rdsys .wrsys .smp

def decodeOp3B (w : Word) : Except DecodeError Instr :=
  match fnOf w with
  | 0 => need (fixed w 0 7 0) (.netPut (fld w 18 4) (fld w 11 7) (fld w 10 1) (fld w 7 3))
  | 1 => need (fixed w 0 7 0) (.netGet (fld w 18 4) (fld w 11 7) (fld w 10 1) (fld w 7 3))
  | 2 => need (fixed w 1 6 0) (.netAt (fld w 18 4) (fld w 11 7) (fld w 10 1) (fld w 7 3) (fld w 0 1))
  | 3 => need (fixed w 10 8 0 && fixed w 0 7 0) (.netFlush (fld w 18 4) (fld w 7 3))
  | _ => .error .unassignedFn

/-- A clause header, MAGIC 0xB7 (R24); bit 15 is reserved. As an instruction word the same bits are opcode 0x2D with an
unassigned FN (R35). -/
def decodeHeader (w : Word) : Except DecodeError Instr := need (fixed w 15 1 0) (.clauseHeader (fld w 23 1) (fld w 20 3) (fld w 16 4) (fld w 14 1) (fld w 13 1) (fld w 7 6) (fld w 4 3) (fld w 0 4))

/-- The instruction that a word, with the literal word behind it for `lim`, encodes (R34, R35). -/
noncomputable def decode (w lit : Word) : Except DecodeError Instr :=
  match opcodeOf w with
  | 0x01 => decodeOp01 w
  | 0x02 => decodeOp02 w
  | 0x03 => decodeOp03 w
  | 0x04 => decodeOp04 w
  | 0x05 => decodeOp05 w
  | 0x06 => decodeOp06 w
  | 0x07 => decodeOp07 w
  | 0x08 => decodeOp08 w
  | 0x09 => decodeOp09 w
  | 0x0A => decodeOp0A w
  | 0x0B => decodeOp0B w
  | 0x0C => decodeOp0C w
  | 0x0D => decodeOp0D w
  | 0x0E => decodeOp0E w
  | 0x0F => decodeOp0F w
  | 0x10 => decodeOp10 w
  | 0x11 => decodeOp11 w
  | 0x12 => decodeOp12 w
  | 0x13 => need (fixed w 0 18 0) (.lim (fld w 25 1) (fld w 18 7) lit)
  | 0x14 => decodeOp14 w
  | 0x15 => decodeOp15 w
  | 0x16 => decodeOp16 w
  | 0x17 => decodeOp17 w
  | 0x18 => decodeOp18 w
  | 0x19 => decodeOp19 w
  | 0x1A => decodeOp1A w
  | 0x1B => decodeOp1B w
  | 0x1C => decodeOp1C w
  | 0x1D => decodeOp1D w
  | 0x1E => decodeOp1E w
  | 0x1F => decodeOp1F w
  | 0x20 => decodeOp20 w
  | 0x21 => decodeOp21 w
  | 0x22 => decodeOp22 w
  | 0x23 => decodeOp23 w
  | 0x24 => decodeOp24 w
  | 0x26 => decodeOp26 w
  | 0x27 => decodeOp27 w
  | 0x28 => decodeOp28 w
  | 0x29 => decodeOp29 w
  | 0x2A => decodeOp2A w
  | 0x2B => decodeOp2B w
  | 0x2C => decodeOp2C w
  | 0x2D => if fld w 24 8 == 0xB7 then decodeHeader w else decodeOp2D w
  | 0x2E => decodeOp2E w
  | 0x30 => decodeOp30 w
  | 0x31 => decodeOp31 w
  | 0x32 => decodeOp32 w
  | 0x33 => decodeOp33 w
  | 0x34 => decodeOp34 w
  | 0x35 => decodeOp35 w
  | 0x36 => decodeOp36 w
  | 0x37 => decodeOp37 w
  | 0x38 => decodeOp38 w
  | 0x39 => decodeOp39 w
  | 0x3A => decodeOp3A w
  | 0x3B => decodeOp3B w
  | _ => .error .unassignedOpcode

/-- The instruction of a captured word: no opcode that is never captured (R132). -/
def decodeEntry (w lit : Word) : Except DecodeError Instr :=
  match opcodeOf w with
  | 0x01 => decodeOp01 w
  | 0x02 => decodeOp02 w
  | 0x03 => decodeOp03 w
  | 0x04 => decodeOp04 w
  | 0x05 => decodeOp05 w
  | 0x06 => decodeOp06 w
  | 0x07 => decodeOp07 w
  | 0x08 => decodeOp08 w
  | 0x09 => decodeOp09 w
  | 0x0A => decodeOp0A w
  | 0x0B => decodeOp0B w
  | 0x0C => decodeOp0C w
  | 0x0D => decodeOp0D w
  | 0x0E => decodeOp0E w
  | 0x0F => decodeOp0F w
  | 0x10 => decodeOp10 w
  | 0x11 => decodeOp11 w
  | 0x12 => decodeOp12 w
  | 0x13 => need (fixed w 0 18 0) (.lim (fld w 25 1) (fld w 18 7) lit)
  | 0x14 => decodeOp14 w
  | 0x15 => decodeOp15 w
  | 0x16 => decodeOp16 w
  | 0x17 => decodeOp17 w
  | 0x18 => decodeOp18 w
  | 0x19 => decodeOp19 w
  | 0x1A => decodeOp1A w
  | 0x1B => decodeOp1B w
  | 0x1C => decodeOp1C w
  | 0x1D => decodeOp1D w
  | 0x1E => decodeOp1E w
  | 0x1F => decodeOp1F w
  | 0x20 => decodeOp20 w
  | 0x21 => decodeOp21 w
  | 0x22 => decodeOp22 w
  | 0x23 => decodeOp23 w
  | 0x24 => decodeOp24 w
  | 0x26 => decodeOp26 w
  | 0x27 => decodeOp27 w
  | 0x28 => decodeOp28 w
  | 0x29 => decodeOp29 w
  | 0x2A => decodeOp2A w
  | 0x2B => decodeOp2B w
  | 0x2C => decodeOp2C w
  | 0x2E => decodeOp2E w
  | 0x33 => decodeOp33 w
  | 0x34 => decodeOp34 w
  | 0x37 => decodeOp37 w
  | 0x3B => decodeOp3B w
  | _ => .error .unassignedOpcode

/-- R28: `lim` is the only two-word instruction. -/
def isTwoWord (w : Word) : Bool := opcodeOf w == 0x13

/-- Four bytes, the lowest address first, as a word (R28: little-endian). -/
def wordOfBytes (b0 b1 b2 b3 : Byte) : Word := b3 ++ b2 ++ b1 ++ b0

/-- The bytes of a word, lowest address first (R28). -/
def bytesOfWord (w : Word) : List Byte :=
  [w.extractLsb' 0 8, w.extractLsb' 8 8, w.extractLsb' 16 8, w.extractLsb' 24 8]

/-- Decode one instruction from a text of bytes and return the rest of the text. -/
noncomputable def decodeBytes : List Byte → Except DecodeError (Instr × List Byte)
  | b0 :: b1 :: b2 :: b3 :: rest =>
    let w := wordOfBytes b0 b1 b2 b3
    if isTwoWord w then
      match rest with
      | c0 :: c1 :: c2 :: c3 :: rest' => (decode w (wordOfBytes c0 c1 c2 c3)).map (fun i => (i, rest'))
      | _ => .error .short
    else (decode w 0).map (fun i => (i, rest))
  | _ => .error .short

/-- The instruction the decoder reads from an instruction whose bits are w, numbered as the opcode table numbers them
(bit 0 the least significant of the first word; a second word's bits count on), the bits from nbits up being zero. -/
noncomputable def decodeTableWord (nbits w : Nat) : Option Instr :=
  let v := w % 2 ^ nbits
  match decodeBytes (bytesOfWord (BitVec.ofNat 32 v) ++ bytesOfWord (BitVec.ofNat 32 (v / 2 ^ 32))) with
  | .ok (i, _) => some i
  | .error _ => none

/-- The words that encode an instruction (R24, R30, R34); an event has none. -/
def encode : Instr → List Word
  | .clauseHeader n g v e y w c k => [(0xB7 : BitVec 8) ++ n ++ g ++ v ++ (0x0 : BitVec 1) ++ e ++ y ++ w ++ c ++ k]
  | .add d a b u => [(0x10 : BitVec 10) ++ d ++ a ++ b ++ u]
  | .sub d a b u => [(0x11 : BitVec 10) ++ d ++ a ++ b ++ u]
  | .mullo d a b u => [(0x12 : BitVec 10) ++ d ++ a ++ b ++ u]
  | .mulhi d a b u => [(0x13 : BitVec 10) ++ d ++ a ++ b ++ u]
  | .mulhu d a b u => [(0x14 : BitVec 10) ++ d ++ a ++ b ++ u]
  | .and d a b u => [(0x15 : BitVec 10) ++ d ++ a ++ b ++ u]
  | .or d a b u => [(0x16 : BitVec 10) ++ d ++ a ++ b ++ u]
  | .xor d a b u => [(0x17 : BitVec 10) ++ d ++ a ++ b ++ u]
  | .andn d a b u => [(0x18 : BitVec 10) ++ d ++ a ++ b ++ u]
  | .shl d a b u => [(0x19 : BitVec 10) ++ d ++ a ++ b ++ u]
  | .shr d a b u => [(0x1A : BitVec 10) ++ d ++ a ++ b ++ u]
  | .sra d a b u => [(0x1B : BitVec 10) ++ d ++ a ++ b ++ u]
  | .min d a b u => [(0x1C : BitVec 10) ++ d ++ a ++ b ++ u]
  | .max d a b u => [(0x1D : BitVec 10) ++ d ++ a ++ b ++ u]
  | .minu d a b u => [(0x1E : BitVec 10) ++ d ++ a ++ b ++ u]
  | .maxu d a b u => [(0x1F : BitVec 10) ++ d ++ a ++ b ++ u]
  | .adds d a b u => [(0x20 : BitVec 10) ++ d ++ a ++ b ++ u]
  | .subs d a b u => [(0x21 : BitVec 10) ++ d ++ a ++ b ++ u]
  | .addus d a b u => [(0x22 : BitVec 10) ++ d ++ a ++ b ++ u]
  | .subus d a b u => [(0x23 : BitVec 10) ++ d ++ a ++ b ++ u]
  | .rotl d a b u => [(0x24 : BitVec 10) ++ d ++ a ++ b ++ u]
  | .popc d a => [(0x25 : BitVec 10) ++ d ++ a ++ (0x0 : BitVec 8)]
  | .clz d a => [(0x26 : BitVec 10) ++ d ++ a ++ (0x0 : BitVec 8)]
  | .brev d a => [(0x27 : BitVec 10) ++ d ++ a ++ (0x0 : BitVec 8)]
  | .absd d a b u => [(0x28 : BitVec 10) ++ d ++ a ++ b ++ u]
  | .avgu d a b u => [(0x29 : BitVec 10) ++ d ++ a ++ b ++ u]
  | .addi d a i => [(0x3 : BitVec 6) ++ d ++ a ++ i]
  | .andi d a i => [(0x4 : BitVec 6) ++ d ++ a ++ i]
  | .ori d a i => [(0x5 : BitVec 6) ++ d ++ a ++ i]
  | .xori d a i => [(0x6 : BitVec 6) ++ d ++ a ++ i]
  | .shli d a n => [(0x7 : BitVec 6) ++ d ++ a ++ (0x0 : BitVec 7) ++ n]
  | .shri d a n => [(0x7 : BitVec 6) ++ d ++ a ++ (0x20 : BitVec 7) ++ n]
  | .srai d a n => [(0x7 : BitVec 6) ++ d ++ a ++ (0x40 : BitVec 7) ++ n]
  | .rotli d a n => [(0x7 : BitVec 6) ++ d ++ a ++ (0x60 : BitVec 7) ++ n]
  | .fadd d a b u => [(0x80 : BitVec 10) ++ d ++ a ++ b ++ u]
  | .fsub d a b u => [(0x81 : BitVec 10) ++ d ++ a ++ b ++ u]
  | .fmul d a b u => [(0x82 : BitVec 10) ++ d ++ a ++ b ++ u]
  | .fmin d a b u => [(0x83 : BitVec 10) ++ d ++ a ++ b ++ u]
  | .fmax d a b u => [(0x84 : BitVec 10) ++ d ++ a ++ b ++ u]
  | .fma d a b u => [(0x85 : BitVec 10) ++ d ++ a ++ b ++ u]
  | .fnma d a b u => [(0x86 : BitVec 10) ++ d ++ a ++ b ++ u]
  | .fcopysign d a b u => [(0x87 : BitVec 10) ++ d ++ a ++ b ++ u]
  | .hadd2 d a b u => [(0x90 : BitVec 10) ++ d ++ a ++ b ++ u]
  | .hmul2 d a b u => [(0x91 : BitVec 10) ++ d ++ a ++ b ++ u]
  | .hfma2 d a b u => [(0x92 : BitVec 10) ++ d ++ a ++ b ++ u]
  | .badd2 d a b u => [(0x93 : BitVec 10) ++ d ++ a ++ b ++ u]
  | .bmul2 d a b u => [(0x94 : BitVec 10) ++ d ++ a ++ b ++ u]
  | .bfma2 d a b u => [(0x95 : BitVec 10) ++ d ++ a ++ b ++ u]
  | .hmin2 d a b u => [(0x96 : BitVec 10) ++ d ++ a ++ b ++ u]
  | .hmax2 d a b u => [(0x97 : BitVec 10) ++ d ++ a ++ b ++ u]
  | .frcp d a => [(0xA0 : BitVec 10) ++ d ++ a ++ (0x0 : BitVec 8)]
  | .frsq d a => [(0xA1 : BitVec 10) ++ d ++ a ++ (0x0 : BitVec 8)]
  | .fsqrt d a => [(0xA2 : BitVec 10) ++ d ++ a ++ (0x0 : BitVec 8)]
  | .fexp2 d a => [(0xA3 : BitVec 10) ++ d ++ a ++ (0x0 : BitVec 8)]
  | .flog2 d a => [(0xA4 : BitVec 10) ++ d ++ a ++ (0x0 : BitVec 8)]
  | .cvtFI d a => [(0xB0 : BitVec 10) ++ d ++ a ++ (0x0 : BitVec 8)]
  | .cvtFU d a => [(0xB1 : BitVec 10) ++ d ++ a ++ (0x0 : BitVec 8)]
  | .cvtIF d a => [(0xB2 : BitVec 10) ++ d ++ a ++ (0x0 : BitVec 8)]
  | .cvtUF d a => [(0xB3 : BitVec 10) ++ d ++ a ++ (0x0 : BitVec 8)]
  | .cvtBfp d a b u => [(0xB4 : BitVec 10) ++ d ++ a ++ b ++ u]
  | .cvtFBf d a e => [(0xB5 : BitVec 10) ++ d ++ a ++ e ++ (0x0 : BitVec 1)]
  | .cvtHp d a b u => [(0xB6 : BitVec 10) ++ d ++ a ++ b ++ u]
  | .cvtFH d a e => [(0xB7 : BitVec 10) ++ d ++ a ++ e ++ (0x0 : BitVec 1)]
  | .cvtE4l d a b u => [(0xB8 : BitVec 10) ++ d ++ a ++ b ++ u]
  | .cvtE4h d a b u => [(0xB9 : BitVec 10) ++ d ++ a ++ b ++ u]
  | .cvtFE4 d a e => [(0xBA : BitVec 10) ++ d ++ a ++ e ++ (0x0 : BitVec 1)]
  | .cvtE5l d a b u => [(0xBB : BitVec 10) ++ d ++ a ++ b ++ u]
  | .cvtE5h d a b u => [(0xBC : BitVec 10) ++ d ++ a ++ b ++ u]
  | .cvtFE5 d a e => [(0xBD : BitVec 10) ++ d ++ a ++ e ++ (0x0 : BitVec 1)]
  | .dp4S8 d a b u => [(0xC0 : BitVec 10) ++ d ++ a ++ b ++ u]
  | .dp4N8 d a b u => [(0xC1 : BitVec 10) ++ d ++ a ++ b ++ u]
  | .dp4Sn8 d a b u => [(0xC2 : BitVec 10) ++ d ++ a ++ b ++ u]
  | .dp8S4 d a b u => [(0xC3 : BitVec 10) ++ d ++ a ++ b ++ u]
  | .dp8N4 d a b u => [(0xC4 : BitVec 10) ++ d ++ a ++ b ++ u]
  | .dp8Sn4 d a b u => [(0xC5 : BitVec 10) ++ d ++ a ++ b ++ u]
  | .dp4E4 d a b u => [(0xC6 : BitVec 10) ++ d ++ a ++ b ++ u]
  | .dp4E5 d a b u => [(0xC7 : BitVec 10) ++ d ++ a ++ b ++ u]
  | .scacc d a b u => [(0xD0 : BitVec 10) ++ d ++ a ++ b ++ u]
  | .scacc2 d a b u => [(0xD1 : BitVec 10) ++ d ++ a ++ b ++ u]
  | .scmul d a b u => [(0xD2 : BitVec 10) ++ d ++ a ++ b ++ u]
  | .cmpEq p a b u c => [(0xE0 : BitVec 10) ++ p ++ a ++ b ++ u ++ c ++ (0x0 : BitVec 2)]
  | .cmpNe p a b u c => [(0xE1 : BitVec 10) ++ p ++ a ++ b ++ u ++ c ++ (0x0 : BitVec 2)]
  | .cmpLt p a b u c => [(0xE2 : BitVec 10) ++ p ++ a ++ b ++ u ++ c ++ (0x0 : BitVec 2)]
  | .cmpLe p a b u c => [(0xE3 : BitVec 10) ++ p ++ a ++ b ++ u ++ c ++ (0x0 : BitVec 2)]
  | .cmpGt p a b u c => [(0xE4 : BitVec 10) ++ p ++ a ++ b ++ u ++ c ++ (0x0 : BitVec 2)]
  | .cmpGe p a b u c => [(0xE5 : BitVec 10) ++ p ++ a ++ b ++ u ++ c ++ (0x0 : BitVec 2)]
  | .cmpLtu p a b u c => [(0xE6 : BitVec 10) ++ p ++ a ++ b ++ u ++ c ++ (0x0 : BitVec 2)]
  | .cmpLeu p a b u c => [(0xE7 : BitVec 10) ++ p ++ a ++ b ++ u ++ c ++ (0x0 : BitVec 2)]
  | .cmpGtu p a b u c => [(0xE8 : BitVec 10) ++ p ++ a ++ b ++ u ++ c ++ (0x0 : BitVec 2)]
  | .cmpGeu p a b u c => [(0xE9 : BitVec 10) ++ p ++ a ++ b ++ u ++ c ++ (0x0 : BitVec 2)]
  | .fcmpEq p a b u c => [(0xF0 : BitVec 10) ++ p ++ a ++ b ++ u ++ c ++ (0x0 : BitVec 2)]
  | .fcmpNe p a b u c => [(0xF1 : BitVec 10) ++ p ++ a ++ b ++ u ++ c ++ (0x0 : BitVec 2)]
  | .fcmpLt p a b u c => [(0xF2 : BitVec 10) ++ p ++ a ++ b ++ u ++ c ++ (0x0 : BitVec 2)]
  | .fcmpLe p a b u c => [(0xF3 : BitVec 10) ++ p ++ a ++ b ++ u ++ c ++ (0x0 : BitVec 2)]
  | .fcmpGt p a b u c => [(0xF4 : BitVec 10) ++ p ++ a ++ b ++ u ++ c ++ (0x0 : BitVec 2)]
  | .fcmpGe p a b u c => [(0xF5 : BitVec 10) ++ p ++ a ++ b ++ u ++ c ++ (0x0 : BitVec 2)]
  | .fcmpUn p a b u c => [(0xF6 : BitVec 10) ++ p ++ a ++ b ++ u ++ c ++ (0x0 : BitVec 2)]
  | .fcmpOrd p a b u c => [(0xF7 : BitVec 10) ++ p ++ a ++ b ++ u ++ c ++ (0x0 : BitVec 2)]
  | .pand p a b => [(0x100 : BitVec 10) ++ p ++ a ++ b ++ (0x0 : BitVec 13)]
  | .por p a b => [(0x101 : BitVec 10) ++ p ++ a ++ b ++ (0x0 : BitVec 13)]
  | .pxor p a b => [(0x102 : BitVec 10) ++ p ++ a ++ b ++ (0x0 : BitVec 13)]
  | .pandn p a b => [(0x103 : BitVec 10) ++ p ++ a ++ b ++ (0x0 : BitVec 13)]
  | .pnot p a => [(0x104 : BitVec 10) ++ p ++ a ++ (0x0 : BitVec 16)]
  | .pmov p a => [(0x105 : BitVec 10) ++ p ++ a ++ (0x0 : BitVec 16)]
  | .sel c n d a b u => [(0x11 : BitVec 6) ++ c ++ n ++ d ++ a ++ b ++ u]
  | .mov d a => [(0x120 : BitVec 10) ++ d ++ a ++ (0x0 : BitVec 8)]
  | .movs d a => [(0x121 : BitVec 10) ++ d ++ a ++ (0x0 : BitVec 8)]
  | .movix d b => [(0x122 : BitVec 10) ++ d ++ (0x0 : BitVec 7) ++ b ++ (0x1 : BitVec 1)]
  | .movixW a b => [(0x9180 : BitVec 17) ++ a ++ b ++ (0x1 : BitVec 1)]
  | .lane d => [(0x124 : BitVec 10) ++ d ++ (0x0 : BitVec 15)]
  | .lword d => [(0x125 : BitVec 10) ++ d ++ (0x0 : BitVec 15)]
  | .movsv d a => [(0x126 : BitVec 10) ++ d ++ a ++ (0x0 : BitVec 8)]
  | .lim c d lit => [(0x13 : BitVec 6) ++ c ++ d ++ (0 : BitVec 18), lit]
  | .sadd d a b => [(0x140 : BitVec 10) ++ d ++ a ++ b ++ (0x0 : BitVec 1)]
  | .ssub d a b => [(0x141 : BitVec 10) ++ d ++ a ++ b ++ (0x0 : BitVec 1)]
  | .smul d a b => [(0x142 : BitVec 10) ++ d ++ a ++ b ++ (0x0 : BitVec 1)]
  | .sand d a b => [(0x143 : BitVec 10) ++ d ++ a ++ b ++ (0x0 : BitVec 1)]
  | .sor d a b => [(0x144 : BitVec 10) ++ d ++ a ++ b ++ (0x0 : BitVec 1)]
  | .sxor d a b => [(0x145 : BitVec 10) ++ d ++ a ++ b ++ (0x0 : BitVec 1)]
  | .sshl d a b => [(0x146 : BitVec 10) ++ d ++ a ++ b ++ (0x0 : BitVec 1)]
  | .sshr d a b => [(0x147 : BitVec 10) ++ d ++ a ++ b ++ (0x0 : BitVec 1)]
  | .ssra d a b => [(0x148 : BitVec 10) ++ d ++ a ++ b ++ (0x0 : BitVec 1)]
  | .smin d a b => [(0x149 : BitVec 10) ++ d ++ a ++ b ++ (0x0 : BitVec 1)]
  | .smax d a b => [(0x14A : BitVec 10) ++ d ++ a ++ b ++ (0x0 : BitVec 1)]
  | .sminu d a b => [(0x14B : BitVec 10) ++ d ++ a ++ b ++ (0x0 : BitVec 1)]
  | .smaxu d a b => [(0x14C : BitVec 10) ++ d ++ a ++ b ++ (0x0 : BitVec 1)]
  | .saddi d a i => [(0x15 : BitVec 6) ++ d ++ a ++ i]
  | .scmpEq d a b => [(0x160 : BitVec 10) ++ d ++ a ++ b ++ (0x0 : BitVec 1)]
  | .scmpNe d a b => [(0x161 : BitVec 10) ++ d ++ a ++ b ++ (0x0 : BitVec 1)]
  | .scmpLt d a b => [(0x162 : BitVec 10) ++ d ++ a ++ b ++ (0x0 : BitVec 1)]
  | .scmpLe d a b => [(0x163 : BitVec 10) ++ d ++ a ++ b ++ (0x0 : BitVec 1)]
  | .scmpGt d a b => [(0x164 : BitVec 10) ++ d ++ a ++ b ++ (0x0 : BitVec 1)]
  | .scmpGe d a b => [(0x165 : BitVec 10) ++ d ++ a ++ b ++ (0x0 : BitVec 1)]
  | .scmpLtu d a b => [(0x166 : BitVec 10) ++ d ++ a ++ b ++ (0x0 : BitVec 1)]
  | .scmpLeu d a b => [(0x167 : BitVec 10) ++ d ++ a ++ b ++ (0x0 : BitVec 1)]
  | .scmpGtu d a b => [(0x168 : BitVec 10) ++ d ++ a ++ b ++ (0x0 : BitVec 1)]
  | .scmpGeu d a b => [(0x169 : BitVec 10) ++ d ++ a ++ b ++ (0x0 : BitVec 1)]
  | .shflIdx d a b u => [(0x170 : BitVec 10) ++ d ++ a ++ b ++ u]
  | .shflUp d a b u => [(0x171 : BitVec 10) ++ d ++ a ++ b ++ u]
  | .shflDn d a b u => [(0x172 : BitVec 10) ++ d ++ a ++ b ++ u]
  | .shflXor d a b u => [(0x173 : BitVec 10) ++ d ++ a ++ b ++ u]
  | .voteAny d a => [(0x174 : BitVec 10) ++ d ++ a ++ (0x0 : BitVec 8)]
  | .voteAll d a => [(0x175 : BitVec 10) ++ d ++ a ++ (0x0 : BitVec 8)]
  | .ballot d a => [(0x176 : BitVec 10) ++ d ++ a ++ (0x0 : BitVec 8)]
  | .redadd d a => [(0x177 : BitVec 10) ++ d ++ a ++ (0x0 : BitVec 8)]
  | .redmax d a => [(0x178 : BitVec 10) ++ d ++ a ++ (0x0 : BitVec 8)]
  | .ldG s d a f w => [(0x18 : BitVec 6) ++ s ++ d ++ a ++ f ++ w]
  | .stG s d a f w => [(0x19 : BitVec 6) ++ s ++ d ++ a ++ f ++ w]
  | .stGx s d a f w => [(0x37 : BitVec 6) ++ s ++ d ++ a ++ f ++ w]
  | .ldA s d a c w => [(0x1A : BitVec 6) ++ s ++ d ++ a ++ c ++ w ++ (0x0 : BitVec 3)]
  | .stL s d a c w o => [(0x1B : BitVec 6) ++ s ++ d ++ a ++ c ++ w ++ (0x0 : BitVec 2) ++ o]
  | .atAdd d a c w o => [(0x1C0 : BitVec 10) ++ d ++ a ++ c ++ w ++ o]
  | .atAnd d a c w o => [(0x1C1 : BitVec 10) ++ d ++ a ++ c ++ w ++ o]
  | .atOr d a c w o => [(0x1C2 : BitVec 10) ++ d ++ a ++ c ++ w ++ o]
  | .atXor d a c w o => [(0x1C3 : BitVec 10) ++ d ++ a ++ c ++ w ++ o]
  | .atMin d a c w o => [(0x1C4 : BitVec 10) ++ d ++ a ++ c ++ w ++ o]
  | .atMax d a c w o => [(0x1C5 : BitVec 10) ++ d ++ a ++ c ++ w ++ o]
  | .atMinu d a c w o => [(0x1C6 : BitVec 10) ++ d ++ a ++ c ++ w ++ o]
  | .atMaxu d a c w o => [(0x1C7 : BitVec 10) ++ d ++ a ++ c ++ w ++ o]
  | .atXchg d a c w o => [(0x1C8 : BitVec 10) ++ d ++ a ++ c ++ w ++ o]
  | .atCas d a c w o => [(0x1C9 : BitVec 10) ++ d ++ a ++ c ++ w ++ o]
  | .atFadd d a c w o => [(0x1CA : BitVec 10) ++ d ++ a ++ c ++ w ++ o]
  | .vatF32 d a c w o => [(0x1D0 : BitVec 10) ++ d ++ a ++ c ++ w ++ o]
  | .vatBf16 d a c w o => [(0x1D1 : BitVec 10) ++ d ++ a ++ c ++ w ++ o]
  | .ldS s d a f w => [(0x1E : BitVec 6) ++ s ++ d ++ a ++ f ++ w]
  | .stS s d a f w => [(0x1F : BitVec 6) ++ s ++ d ++ a ++ f ++ w]
  | .ldSq s d a f w => [(0x20 : BitVec 6) ++ s ++ d ++ a ++ (0x0 : BitVec 1) ++ f ++ w]
  | .stSq s d a f w => [(0x20 : BitVec 6) ++ s ++ d ++ a ++ (0x1 : BitVec 1) ++ f ++ w]
  | .tlook d a => [(0x210 : BitVec 10) ++ d ++ a ++ (0x0 : BitVec 8)]
  | .tins d a b u => [(0x211 : BitVec 10) ++ d ++ a ++ b ++ u]
  | .tinv d a => [(0x212 : BitVec 10) ++ d ++ a ++ (0x0 : BitVec 8)]
  | .tflush => [(0x84C00000 : BitVec 32)]
  | .ldU s d a f w => [(0x8A : BitVec 8) ++ s ++ d ++ a ++ f ++ w]
  | .stU s d a f w => [(0x8E : BitVec 8) ++ s ++ d ++ a ++ f ++ w]
  | .annc d a w => [(0x240 : BitVec 10) ++ d ++ a ++ (0x0 : BitVec 5) ++ w]
  | .wdrw d a w => [(0x241 : BitVec 10) ++ d ++ a ++ (0x0 : BitVec 5) ++ w]
  | .rlook d a h w => [(0x242 : BitVec 10) ++ d ++ a ++ (0x0 : BitVec 4) ++ h ++ w]
  | .hmove d a w => [(0x243 : BitVec 10) ++ d ++ a ++ (0x0 : BitVec 5) ++ w]
  | .rstat d t w => [(0x244 : BitVec 10) ++ d ++ (0x0 : BitVec 10) ++ t ++ w]
  | .qpush q r u w => [(0x260 : BitVec 10) ++ q ++ r ++ u ++ w ++ (0x0 : BitVec 7)]
  | .qpop q d w => [(0x261 : BitVec 10) ++ q ++ d ++ (0x1 : BitVec 1) ++ w ++ (0x0 : BitVec 7)]
  | .qtry q d p => [(0x262 : BitVec 10) ++ q ++ d ++ (0xF0 : BitVec 8) ++ p]
  | .qfence q m => [(0x263 : BitVec 10) ++ q ++ (0x7 : BitVec 11) ++ m]
  | .qstat q d => [(0x264 : BitVec 10) ++ q ++ d ++ (0x780 : BitVec 11)]
  | .cpyG2s q r w c => [(0x270 : BitVec 10) ++ q ++ r ++ (0x1 : BitVec 1) ++ w ++ (0x0 : BitVec 6) ++ c]
  | .cpyS2g q r w c => [(0x271 : BitVec 10) ++ q ++ r ++ (0x1 : BitVec 1) ++ w ++ (0x0 : BitVec 6) ++ c]
  | .cpyG2g q r w k => [(0x272 : BitVec 10) ++ q ++ r ++ (0x1 : BitVec 1) ++ w ++ k]
  | .cpyPln q r w p m c => [(0x273 : BitVec 10) ++ q ++ r ++ (0x1 : BitVec 1) ++ w ++ p ++ m ++ c]
  | .cpyS2sq q r w c => [(0x274 : BitVec 10) ++ q ++ r ++ (0x1 : BitVec 1) ++ w ++ (0x0 : BitVec 6) ++ c]
  | .cyc d => [(0x280 : BitVec 10) ++ d ++ (0x0 : BitVec 15)]
  | .sleepc a => [(0x14080 : BitVec 17) ++ a ++ (0x0 : BitVec 8)]
  | .mma d a b t => [(0xA4 : BitVec 8) ++ d ++ a ++ b ++ t]
  | .mmaZ d a b t => [(0xA5 : BitVec 8) ++ d ++ a ++ b ++ t]
  | .mmaB d a t => [(0xA6 : BitVec 8) ++ d ++ a ++ (0x0 : BitVec 7) ++ t]
  | .mmaBz d a t => [(0xA7 : BitVec 8) ++ d ++ a ++ (0x0 : BitVec 7) ++ t]
  | .amov d n p => [(0x2A0 : BitVec 10) ++ d ++ n ++ p ++ (0x0 : BitVec 5)]
  | .awr d n p => [(0x2A1 : BitVec 10) ++ d ++ n ++ p ++ (0x0 : BitVec 5)]
  | .aclr n => [(0x15100 : BitVec 17) ++ n ++ (0x0 : BitVec 9)]
  | .aovf d n c => [(0x2A3 : BitVec 10) ++ d ++ n ++ (0x0 : BitVec 3) ++ c ++ (0x0 : BitVec 5)]
  | .plnw d a p m => [(0x2B0 : BitVec 10) ++ d ++ a ++ p ++ m ++ (0x0 : BitVec 2)]
  | .plnr d a p m => [(0x2B1 : BitVec 10) ++ d ++ a ++ p ++ m ++ (0x0 : BitVec 2)]
  | .plnrS d a p m => [(0x2B1 : BitVec 10) ++ d ++ a ++ p ++ m ++ (0x2 : BitVec 2)]
  | .tset t a => [(0x2B2 : BitVec 10) ++ t ++ a ++ (0x0 : BitVec 8)]
  | .tget d t => [(0x2B3 : BitVec 10) ++ d ++ t ++ (0x0 : BitVec 8)]
  | .barArv c n l => [(0x16000 : BitVec 17) ++ c ++ n ++ l]
  | .barWait n l => [(0xB04000 : BitVec 24) ++ n ++ l]
  | .barSync c n l => [(0x16100 : BitVec 17) ++ c ++ n ++ l]
  | .barTo t c n l => [(0x2C3 : BitVec 10) ++ t ++ c ++ n ++ l]
  | .pbInit e a => [(0x2D0 : BitVec 10) ++ e ++ a ++ (0x0 : BitVec 8)]
  | .pbArv a => [(0x16880 : BitVec 17) ++ a ++ (0x0 : BitVec 8)]
  | .pbExp n a => [(0x2D2 : BitVec 10) ++ n ++ a ++ (0x0 : BitVec 8)]
  | .pbWait a p => [(0x16980 : BitVec 17) ++ a ++ (0x0 : BitVec 7) ++ p]
  | .pbTest a k p => [(0x16A00 : BitVec 17) ++ a ++ (0x0 : BitVec 4) ++ k ++ p]
  | .fenceAcq l => [(0x17000000 : BitVec 29) ++ l]
  | .fenceRel l => [(0x17080000 : BitVec 29) ++ l]
  | .fenceAr l => [(0x17100000 : BitVec 29) ++ l]
  | .fenceQ l => [(0x17180000 : BitVec 29) ++ l]
  | .br p n o => [(0x300 : BitVec 10) ++ p ++ n ++ o]
  | .bra o => [(0x3010 : BitVec 14) ++ o]
  | .call p n o => [(0x302 : BitVec 10) ++ p ++ n ++ o]
  | .exit p n => [(0x303 : BitVec 10) ++ p ++ n ++ (0x0 : BitVec 18)]
  | .bz c r o => [(0x310 : BitVec 10) ++ c ++ r ++ o]
  | .bnz c r o => [(0x311 : BitVec 10) ++ c ++ r ++ o]
  | .bpend c r o => [(0x312 : BitVec 10) ++ c ++ r ++ o]
  | .bpendN c r o => [(0x313 : BitVec 10) ++ c ++ r ++ o]
  | .jmps r o => [(0x18A1 : BitVec 13) ++ r ++ o]
  | .calls r o => [(0x18A9 : BitVec 13) ++ r ++ o]
  | .ret c r o => [(0xC58 : BitVec 12) ++ c ++ r ++ o]
  | .loop l a o => [(0x32 : BitVec 6) ++ l ++ a ++ o]
  | .frmode m => [(0xCC0000 : BitVec 24) ++ m]
  | .fryld => [(0xCC400000 : BitVec 32)]
  | .join a => [(0x19900 : BitVec 17) ++ a ++ (0x0 : BitVec 8)]
  | .mact d k => [(0x333 : BitVec 10) ++ d ++ (0x0 : BitVec 7) ++ k]
  | .deferOn => [(0xD0000000 : BitVec 32)]
  | .deferOff => [(0xD0400000 : BitVec 32)]
  | .deferStrict m => [(0xD08000 : BitVec 24) ++ m]
  | .rdrain => [(0xD0C00000 : BitVec 32)]
  | .rfstat d k => [(0x344 : BitVec 10) ++ d ++ (0x0 : BitVec 7) ++ k]
  | .acqx c n => [(0xD40000 : BitVec 24) ++ c ++ n]
  | .relx c n => [(0xD44000 : BitVec 24) ++ c ++ n]
  | .allq d c => [(0x352 : BitVec 10) ++ d ++ (0x0 : BitVec 7) ++ c ++ (0x0 : BitVec 6)]
  | .ptst d r k l => [(0x360 : BitVec 10) ++ d ++ r ++ k ++ l]
  | .pchk r l => [(0x1B080 : BitVec 17) ++ r ++ (0x0 : BitVec 5) ++ l]
  | .pchks a n => [(0x1B100 : BitVec 17) ++ a ++ n]
  | .post d a => [(0x380 : BitVec 10) ++ d ++ a ++ (0x0 : BitVec 8)]
  | .done a => [(0x1C080 : BitVec 17) ++ a ++ (0x0 : BitVec 8)]
  | .ctok d => [(0x382 : BitVec 10) ++ d ++ (0x0 : BitVec 15)]
  | .tid d => [(0x383 : BitVec 10) ++ d ++ (0x0 : BitVec 15)]
  | .trap n => [(0xE40000 : BitVec 24) ++ n]
  | .tresume a => [(0x1C880 : BitVec 17) ++ a ++ (0x0 : BitVec 8)]
  | .tkill a => [(0x1C900 : BitVec 17) ++ a ++ (0x0 : BitVec 8)]
  | .trelaunch a => [(0x1C980 : BitVec 17) ++ a ++ (0x0 : BitVec 8)]
  | .trecord d a k => [(0x394 : BitVec 10) ++ d ++ a ++ (0x0 : BitVec 7) ++ k]
  | .rdsys d n => [(0x3A0 : BitVec 10) ++ d ++ (0x0 : BitVec 7) ++ n]
  | .wrsys a n => [(0x1D080 : BitVec 17) ++ a ++ n]
  | .smp a t => [(0x1D100 : BitVec 17) ++ a ++ (0x0 : BitVec 2) ++ t]
  | .netPut q r u w => [(0x3B0 : BitVec 10) ++ q ++ r ++ u ++ w ++ (0x0 : BitVec 7)]
  | .netGet q r u w => [(0x3B1 : BitVec 10) ++ q ++ r ++ u ++ w ++ (0x0 : BitVec 7)]
  | .netAt q r u w o => [(0x3B2 : BitVec 10) ++ q ++ r ++ u ++ w ++ (0x0 : BitVec 6) ++ o]
  | .netFlush q w => [(0x3B3 : BitVec 10) ++ q ++ (0x0 : BitVec 8) ++ w ++ (0x0 : BitVec 7)]
  | .landing _ => []
  | .replyReceive _ => []
  | .residualEntryRun _ => []
  | .arrayPass _ => []
  | .copyStart _ _ => []
  | .copyComplete _ _ => []
  | .q8Command _ => []
  | .routeCommandStart _ => []
  | .routeRound _ => []
  | .announcementReceive _ => []
  | .routeAckReceive _ => []
  | .requestArrive _ _ _ => []
  | .nakReceive _ => []
  | .ofReleasePerform _ => []
  | .voidNoticeReceive _ => []
  | .mirrorPrepareReceive _ => []
  | .prepareAckReceive _ => []
  | .mirrorCommitReceive _ => []
  | .flitReceive _ _ _ _ => []
  | .replayTimeout _ _ => []
  | .flowControlSignal _ _ _ _ => []
  | .linkLostTimeout _ _ => []
  | .linkLostNotice _ => []
  | .silenceNoticeReceive _ => []
  | .windowRequestArrive _ => []
  | .hostRingDoorbell _ _ => []
  | .hostRingEntry _ => []
  | .mgmtRequestTail _ => []
  | .mgmtResponseHead _ => []
  | .bar0IgnoredWrite _ _ => []
  | .getVersion _ => []
  | .getCapabilities _ => []
  | .negotiateAlgorithms _ => []
  | .getDigests _ => []
  | .getCertificate _ => []
  | .challenge _ => []
  | .getMeasurements _ => []
  | .keyExchange _ => []
  | .finish _ => []
  | .keyUpdate _ => []
  | .heartbeat _ => []
  | .endSession _ => []
  | .spdmUnsupportedRequest _ => []
  | .lockInterface _ _ => []
  | .startInterface _ _ => []
  | .stopInterface _ _ _ => []
  | .getDeviceInterfaceReport _ _ => []
  | .getDeviceInterfaceState _ _ => []
  | .worldCreate _ _ => []
  | .worldKey _ _ _ _ => []
  | .worldDestroy _ _ => []
  | .rangeAssign _ _ _ _ _ => []
  | .contextSet _ _ _ _ => []
  | .contextInval _ _ _ _ _ => []
  | .ringSet _ _ _ _ _ _ _ _ => []
  | .sliceSet _ _ _ => []
  | .handlerSet _ _ _ _ _ _ _ => []
  | .watchArm _ _ _ _ _ _ _ => []
  | .watchDisarm _ _ _ => []
  | .logExport _ _ _ => []
  | .mrExtend _ _ _ => []
  | .restartFull _ => []
  | .netTableSet _ _ _ _ => []
  | .netConnSet _ _ _ _ _ _ _ _ _ _ => []
  | .netKey _ _ _ _ => []
  | .netConnClose _ _ => []
  | .sampleSet _ _ _ _ _ _ _ _ => []
  | .sampleSetActivate _ _ => []
  | .errlogExport _ _ _ _ => []
  | .dispatch _ => []
  | .crewRetire _ => []
  | .cardComplete _ => []
  | .sliceExpiry _ => []
  | .drainLimitExpiry _ => []
  | .crewSave _ => []
  | .trapRecordWrite _ => []
  | .teamResume _ => []
  | .relaunchHoldRelease _ => []
  | .dieReset _ => []
  | .joinTimeout _ => []
  | .barrierTimeout _ => []
  | .barrierRelease _ => []
  | .phaseBarrierWake _ => []
  | .sleepWake _ => []
  | .promiseMissed _ => []
  | .allotmentGrant _ => []
  | .scrubVisit _ _ _ => []
  | .sampleTick _ _ => []
  | .sampleTimerExpiry _ => []
  | .stopctlArm _ => []
  | .stopReached _ => []
  | .stopTrap _ => []
  | .bootStart => []
  | .startWatchdogExpiry => []
  | .dieEnterService _ => []
  | .calibrationComplete => []
  | .bringUpEnd => []
  | .datagramReceive _ => []
  | .connRecordFetch _ => []
  | .netRetransmitTimeout _ => []
  | .rnrRetransmit _ => []
  | .rateUpdate _ _ _ => []
  | .powerLoss _ _ _ => []
  | .dramTrainingFailed _ => []
  | .dieCalibrationFailed _ => []
  | .pierReset _ => []

end Sys2Proof
end

