-- ==== Sys2Proof/Machine/Encoding.lean ====
section
/-! DEFINITION. The encoding checks of spec/02 R29 step 6 that depend on field values: each names what it refuses. An
instruction that fails one traps 0x01 when it issues. -/

namespace Sys2Proof.Machine

/-- Which encoding check a word fails. -/
inductive IllFormed where
  | waitCode
  | sizeCode
  | scopeCode
  | orderCode
  | tableCode
  | planes
  | element
  | tile
  | barrier
  | classCode
  | immediate
  | pool
  | ptstWord
  | span
  deriving DecidableEq, Repr

/-- W codes 0–5 and 7 (R33). -/
def illWait (w : BitVec 3) : Option IllFormed := if w = 6 then some .waitCode else none

/-- SZ codes 0–6 (R33). -/
def illSize (s : BitVec 3) : Option IllFormed := if s = 7 then some .sizeCode else none

/-- SC codes 0–5 (R8, R33). -/
def illScope (c : BitVec 3) : Option IllFormed := if 6 ≤ c.toNat then some .scopeCode else none

/-- A relaxed atomic carries no scope: O = 0 with SC ≠ 0 is illegal (R236, R238). -/
def illRelaxedScope (c : BitVec 3) (o : BitVec 2) : Option IllFormed :=
  if o = 0 ∧ c ≠ 0 then some .orderCode else none

/-- A vector atomic is relaxed or a release (R238). -/
def illVatOrder (o : BitVec 2) : Option IllFormed := if o = 1 ∨ o = 3 then some .orderCode else none

/-- `rstat` tables 0–2 (R213). -/
def illTable (t : BitVec 2) : Option IllFormed := if t = 3 then some .tableCode else none

/-- m < p is illegal (R176, R186); the fields hold p − 1 and m − 1. -/
def illPlanes (p m : BitVec 3) : Option IllFormed := if m.toNat < p.toNat then some .planes else none

/-- Element numbers of the widening conversions (R119). -/
def illElement (e : BitVec 7) (top : Nat) : Option IllFormed := if top < e.toNat then some .element else none

/-- Tile numbers 0–15 (R176). -/
def illTile (t : BitVec 7) : Option IllFormed := if 15 < t.toNat then some .tile else none

/-- Barrier levels and counts (R268, R269): core 32, quad 16, die 16, package 8. -/
def illBarrier (n : BitVec 5) (l : BitVec 3) : Option IllFormed :=
  if l = 1 then none
  else if l = 2 ∨ l = 3 then (if 15 < n.toNat then some .barrier else none)
  else if l = 4 then (if 7 < n.toNat then some .barrier else none)
  else some .scopeCode

/-- Register class codes below a bound (R59, R83, R144). -/
def illClass (c : BitVec 3) (bound : Nat) : Option IllFormed := if bound ≤ c.toNat then some .classCode else none

/-- An immediate with a greatest legal value (R62, R142). -/
def illMax (m : BitVec 8) (top : Nat) : Option IllFormed := if top < m.toNat then some .immediate else none

/-- Allotment classes 0–2 (R75). -/
def illPool (c : BitVec 2) : Option IllFormed := if c = 3 then some .pool else none

/-- `acqx` and `relx` take at least one granule (R75). -/
def illZero (n : BitVec 6) : Option IllFormed := if n = 0 then some .immediate else none

/-- `ptst` names a mask word only for classes v and p (R83). -/
def illPtstWord (k : BitVec 5) (l : BitVec 3) : Option IllFormed :=
  if k ≠ 0 ∧ (l = 1 ∨ l = 3 ∨ l = 4) then some .ptstWord else none

/-- `pchks` covers at least one register and none past s127 (R83). -/
def illSpan (a : BitVec 7) (n : BitVec 8) : Option IllFormed :=
  if n = 0 ∨ 128 < a.toNat + n.toNat then some .span else none

end Sys2Proof.Machine
end

