-- ==== Sys2Proof/Machine/Sparse.lean ====
section
/-! DEFINITION. Tables with one default: a list of (key, value) pairs, keys strictly rising, no pair that holds the
default. Equal tables are then equal lists. Memory, registers, lanes and the package's tables are held so. -/

namespace Sys2Proof.Machine

/-- A table in its canonical form (see `wfTable`). -/
abbrev Table (α : Type) := List (Nat × α)

/-- Read key k; a key not listed reads as the default d. -/
def tget {α : Type} (d : α) : Table α → Nat → α
  | [], _ => d
  | (j, v) :: rest, k => if j = k then v else tget d rest k

/-- Write key k; writing the default removes the key. -/
def tset {α : Type} [DecidableEq α] (d : α) : Table α → Nat → α → Table α
  | [], k, v => if v = d then [] else [(k, v)]
  | (j, u) :: rest, k, v =>
    if v = d then (if j = k then tset d rest k v else (j, u) :: tset d rest k v)
    else if j = k then (k, v) :: rest
    else if k < j then (k, v) :: (j, u) :: rest
    else (j, u) :: tset d rest k v

/-- Every key of the table is at least lo, keys rise strictly, and no entry holds the default. -/
def wfFrom {α : Type} [DecidableEq α] (d : α) : Nat → Table α → Bool
  | _, [] => true
  | lo, (j, v) :: rest => decide (lo ≤ j) && decide (v ≠ d) && wfFrom d (j + 1) rest

/-- The canonical form. -/
def wfTable {α : Type} [DecidableEq α] (d : α) (t : Table α) : Bool := wfFrom d 0 t

/-- Replace the entry at k by its image. -/
def tmod {α : Type} [DecidableEq α] (d : α) (t : Table α) (k : Nat) (f : α → α) : Table α :=
  tset d t k (f (tget d t k))

/-- Set consecutive keys from k. -/
def tsetMany {α : Type} [DecidableEq α] (d : α) (t : Table α) (k : Nat) : List α → Table α
  | [] => t
  | v :: vs => tsetMany d (tset d t k v) (k + 1) vs

/-- Read n consecutive keys from k. -/
def tgetMany {α : Type} (d : α) (t : Table α) (k : Nat) : Nat → List α
  | 0 => []
  | n + 1 => tget d t k :: tgetMany d t (k + 1) n

/-- Drop every key in [lo, hi). -/
def tclear {α : Type} (t : Table α) (lo hi : Nat) : Table α :=
  t.filter (fun e => !(decide (lo ≤ e.1) && decide (e.1 < hi)))

end Sys2Proof.Machine
end

