-- ==== Sys2Proof/Machine/State.lean ====
section
/-! DEFINITION. The state of the package as plain data: teams with their registers and residual entries, crews, cards,
memory and the requests, replies and landings under way, the route tables, barriers, engines, worlds, host rings, network and
the management core. INVENTORY.md lists each piece with the rule that names it. -/

namespace Sys2Proof.Machine

/-- Why the machine stops with a fault. The spec gives the package no such end: every failing condition of an instruction is a
trap, which is a next state (R7, R291), so nothing raises a fault. Safe: no state is cut off. -/
inductive Fault where
  deriving DecidableEq, Repr

/-- Why an instruction is refused. -/
inductive Refusal where
  /-- An instruction with no meaning in the model yet; raised by Dispatch. Safe: the run ends there. -/
  | notModelled (mnemonic : String)
  deriving DecidableEq, Repr

/-- The four variants (R1). -/
inductive Variant where
  | a
  | n
  | c
  | nc
  deriving DecidableEq, Repr

/-! ## Registers -/

/-- A vector lane word or a uniform register: the word, its pending bit and generation (R78). -/
structure VUnit where
  val : Val := .word 0
  pend : Bool := false
  gen : BitVec 4 := 0
  deriving DecidableEq, Repr

/-- A predicate over the 32 lanes of one mask word: values and poison (R69), pending bit and generation (R78, R358). -/
structure PUnit where
  bits : Word := 0
  poison : Word := 0
  pend : Bool := false
  gen : BitVec 4 := 0
  deriving DecidableEq, Repr

/-- An accumulator: 8 by 64 elements (element 64·row + column), the sticky overflow bit, pending bit and generation
(R165, R167). -/
structure AUnit where
  elems : Table Val := []
  ovf : Bool := false
  pend : Bool := false
  gen : BitVec 4 := 0
  deriving DecidableEq, Repr

/-- A tile register (R164): the descriptor, its poison mark (R79), and the pending bit and generation that a captured
`tset` needs (R131, R132). DEDUCED: R78 does not list tiles, R132 captures `tset`. -/
structure TUnit where
  bits : BitVec 64 := 0
  poison : Bool := false
  pend : Bool := false
  gen : BitVec 4 := 0
  deriving DecidableEq, Repr

/-- A unit of register state (R358). -/
inductive UnitRef where
  | vec (reg lane : Nat)
  | uni (reg : Nat)
  | pred (reg word : Nat)
  | acc (reg : Nat)
  | tile (reg : Nat)
  deriving DecidableEq, Repr

/-- What a unit holds. -/
inductive UnitVal where
  | w (v : Val)
  | p (bits poison : Word)
  | a (elems : Table Val) (ovf : Bool)
  | t (bits : BitVec 64) (poison : Bool)
  deriving DecidableEq, Repr

/-- A source operand slot of a residual entry: the unit, the generation awaited, the value once it is there (R130), and which
operand of the instruction it belongs to (R131 counts each operand's lane-words, R141 saves each on its own). -/
structure Slot where
  unit : UnitRef
  want : BitVec 4
  got : Option UnitVal
  operand : Nat := 0
  deriving DecidableEq, Repr

/-- A destination with the generation its value carries (R133). -/
structure Owed where
  unit : UnitRef
  gen : BitVec 4
  deriving DecidableEq, Repr

/-- One mask word per entry, word 0 first. -/
abbrev Mask := List Word

/-- A residual entry (R130, R131, R141). An entry whose passes issue one by one has issued those of the mask words below `issuedTo`, under
the outstanding instruction `opId` (R136, R49). -/
structure Entry where
  word : Word
  lit : Word
  instr : Instr
  va : VA
  hdrVA : VA
  hdr : Word
  rm : BitVec 2
  w : BitVec 3
  mask : Mask
  slots : List Slot
  base : List Slot
  dests : List Owed
  laneWords : Nat
  issuedTo : Nat := 0
  opId : Nat := 0
  deriving DecidableEq, Repr

/-! ## Teams -/

/-- The frontier state of a lane (R47, R65). -/
inductive LaneSt where
  | active
  | waiting (pc : VA)
  | held (pc : VA)
  | exited
  deriving DecidableEq, Repr

/-- A hardware loop counter (R56). -/
structure LoopC where
  count : Word := 0
  start : VA := 0
  stop : VA := 0
  active : Bool := false
  deriving DecidableEq, Repr

/-- A team's frontier state (R55): every lane's state, the loop counters, which of them is inner, the frontier mode, the
quantum count and the VA of the join that holds lanes. -/
structure Frontier where
  lanes : Table LaneSt := []
  l0 : LoopC := {}
  l1 : LoopC := {}
  inner1 : Bool := false
  rotate : Bool := false
  quantum : Nat := 0
  joinVA : Option VA := none
  deriving DecidableEq, Repr

/-- An open clause: the header, the words fetched with it, the next word, the guard words read when it issued (R24, R25),
whether the clause has issued, and the mode that governs it (R143). Of a word whose passes issue one by one, those of the mask words
below `issuedTo` have issued, under the outstanding instruction `opId` (R48, R49). -/
structure Clause where
  hdrVA : VA
  hdr : Word
  words : List Word
  idx : Nat := 0
  guard : Mask := []
  issued : Bool := false
  deferring : Bool := false
  issuedTo : Nat := 0
  opId : Nat := 0
  /-- floating-point flags of those passes, merged with the last (R99) -/
  flags : BitVec 5 := 0
  /-- how far a fence or an arrival has come: 1 its first store-poison check has been made, 2 its release wait has begun (R267, R270) -/
  waited : Nat := 0
  deriving DecidableEq, Repr

/-- What a trap reports (R291, with the poison holder of R245; `supplier` is the holder of a word fetched as poison, R29). -/
structure TrapInfo where
  cause : BitVec 8
  hdrVA : VA
  maskWord : Nat := 0
  laneMask : Word := 0
  faultVA : BitVec 64 := 0
  holder : BitVec 8 := 0
  supplier : Option (BitVec 8) := none
  byEntry : Bool := false
  deriving DecidableEq, Repr

/-- Why a team that keeps its place issues nothing. -/
inductive Hold where
  | none
  /-- `sleepc` (R190): the DCC slept to. -/
  | sleep (till : BitVec 64)
  /-- `pb.wait` (R194): scratchpad address and parity. -/
  | phase (addr : Nat) (par : Bool)
  /-- a barrier wait (R270): barrier key, and the deadline of `bar.to`. -/
  | barrier (key : Nat) (deadline : Option (BitVec 64))
  /-- a parked `acqx` (R76): class, granules, place in the order of parking. -/
  | acqx (cls : BitVec 2) (n : Nat) (ticket : Nat)
  deriving DecidableEq, Repr

/-- Where a team is in its life (R46, R291, R289). -/
inductive TeamSt where
  | running
  | suspended
  | saved
  | ended
  deriving DecidableEq, Repr

/-- A team's last arrival at one barrier (R268, R271). -/
structure Arrival where
  phase : Nat := 0
  made : Bool := false
  waitedFor : Bool := true
  void : Bool := false
  deriving DecidableEq, Repr

/-- The stop registers of a team (R335, R336). -/
structure Stop where
  e : Word := 0
  p : BitVec 64 := 0
  arm : Bool := false
  mode : Bool := false
  missed : Bool := false
  reached : Bool := false
  /-- the re-execution has not yet issued the header of its region entry again (R336 step 2) -/
  redo : Bool := false
  deriving DecidableEq, Repr

/-- One program counter and all a team holds. -/
structure Team where
  crew : Nat
  num : Nat
  /-- its slot on its core, 0 to 15 (R332) -/
  slot : Nat := 0
  role : BitVec 2
  width : Nat
  status : TeamSt
  pc : VA
  clause : Option Clause := none
  fr : Frontier := {}
  regionVA : VA
  region : Frontier := {}
  regionCount : Word := 0
  passes : BitVec 64 := 0
  total : BitVec 64 := 0
  joinDeadline : Option (BitVec 64) := none
  waits : Table (BitVec 6) := []
  jto : Bool := false
  defOn : Bool := false
  strict : Bool := false
  fpf : BitVec 5 := 0
  rm : BitVec 2 := 0
  v : Table VUnit := []
  u : Table VUnit := []
  p : Table PUnit := []
  t : Table TUnit := []
  a : Table AUnit := []
  vN : Nat
  aN : Nat
  rN : Nat
  vBase : Nat
  aBase : Nat
  rBase : Nat
  fifo : List Entry := []
  results : Table (List (BitVec 64)) := []
  conn : Table (BitVec 20) := []
  arrivals : Table Arrival := []
  stop : Stop := {}
  poisonHolder : BitVec 8 := 0xFF
  late : Option TrapInfo := none
  trap : Option TrapInfo := none
  handle : Nat := 0
  ctlWord : Option Word := none
  stall : Nat := 0
  hold : Hold := .none
  /-- the counts of its core's ports A and B when it last issued (R50) -/
  lastA : Nat := 0
  lastB : Nat := 0
  /-- it closed its latest clause with Y set, on port A (false) or B (true) (R25) -/
  yielded : Option Bool := none
  fryldTurn : Bool := false
  deriving DecidableEq, Repr

/-! ## Crews, cards, handles -/

/-- The amounts free in a crew's extended pool (R72, R76). -/
structure Pools where
  vec : Nat := 0
  acc : Nat := 0
  res : Nat := 0
  deriving DecidableEq, Repr

/-- Where a crew is in its life (R46, R284, R288). -/
inductive CrewSt where
  | resident
  | draining
  | saving
  | saved
  | retiring
  | gone
  deriving DecidableEq, Repr

/-- What a crew was entered for (R292, R331). -/
inductive CrewKind where
  | ordinary
  | handler (handle slot : Nat)
  | sampler (slot core : Nat)
  deriving DecidableEq, Repr

/-- A crew: where it is placed, its allotment and what its teams share. -/
structure Crew where
  tid : BitVec 32
  index : Nat
  gang : Nat
  /-- its slot on its core, 0 to 7 (R332) -/
  slot : Nat := 0
  die : Nat
  core : Nat
  /-- the quad, over the package, that its copy queues and quad barriers are bound to at launch (R179, R88) -/
  quad : Nat := 0
  ticket : BitVec 16
  status : CrewSt
  kind : CrewKind := .ordinary
  world : Nat
  asn : BitVec 16
  teams : List Nat
  spk : Nat
  bkey : BitVec 10 := 0
  tsz : Nat := 0
  tent : Nat := 0
  spad : Table Byte := []
  spadPoison : Table Bool := []
  tags : Table (Option VA) := []
  pool : Pools := {}
  poolAll : Pools := {}
  ticketNext : Nat := 0
  storePoison : Bool := false
  drainTill : Option (BitVec 64) := none
  savedAt : Option Nat := none
  /-- its image is in the save area and its core has been given up -/
  offCore : Bool := false
  deriving DecidableEq, Repr

/-- The fields of a job card image (R272, R273, R72, R145). -/
structure CardImage where
  entry : VA := 0
  arg : VA := 0
  crews : Nat := 0
  gang : Nat := 0
  prio : Nat := 0
  tprio : Nat := 0
  flags : Word := 0
  teams : List Word := []
  spadWord : Word := 0
  poolWord : Word := 0
  count : Word := 0
  est : Word := 0
  succ : VA := 0
  hints : List (BitVec 64) := []
  done : VA := 0
  world : Nat := 0
  asn : BitVec 16 := 0
  reservedSet : Bool := false
  deriving DecidableEq, Repr

/-- Where a card stands (R281, R282, R285, R286). -/
structure Card where
  tid : BitVec 32
  va : VA
  die : Nat
  image : CardImage
  kind : CrewKind := .ordinary
  inPool : Bool := true
  /-- the priority its teams issue at: the card's, or for a handler or sampler card the trap priority (R50) -/
  prio : Nat := 0
  level : Nat := 0
  age : Nat := 0
  order : Nat := 0
  nextGang : Nat := 0
  relaunches : Nat := 0
  code : BitVec 16 := 0
  status : BitVec 6 := 0
  cause : BitVec 6 := 0
  token : BitVec 64 := 0
  vector : Option Nat := none
  stage : Nat := 0
  succIdx : Nat := 0
  deriving DecidableEq, Repr

/-- An open trap handle (R291 to R295). -/
structure Handle where
  team : Nat
  world : Nat
  slot : Nat
  handlerTid : BitVec 32
  ctl : Word
  cause : BitVec 6
  deriving DecidableEq, Repr

/-! ## Accesses under way -/

/-- A byte on its way: data, or part of a poisoned word. -/
abbrev PByte := Option Byte

/-- What an outstanding instruction of a team is (R26, R223, R267). -/
inductive OpKind where
  | load
  | store
  | atomic
  | scratch
  | window
  | pop (q : Nat)
  | copy
  | matrix
  | plane
  | route
  | net
  | task
  deriving DecidableEq, Repr

/-- A request packet not yet answered: its number, holder, whether it travels the ordered path, whether it writes, and the
16-byte granules it touches (R224, R226, R227). -/
structure Out where
  pkt : Nat
  holder : Nat
  ordered : Bool
  write : Bool
  grans : List Nat
  deriving DecidableEq, Repr

/-- A pass of a load that waits until every line has been answered (R224): the packets still out, and what has come. -/
structure Gather where
  pkts : List Nat
  got : List (Nat × List PByte)
  poisonFrom : Option Nat := none
  size : Nat
  signed : Bool
  dest : List (Nat × Owed)
  deriving DecidableEq, Repr

/-- An outstanding instruction of a team: what still has to happen before its wait counter falls (R26). -/
structure OpRec where
  id : Nat
  team : Nat
  kind : OpKind
  w : BitVec 3
  hdrVA : VA
  acquire : Bool := false
  outs : List Out := []
  gathers : List Gather := []
  owed : List Owed := []
  parts : Nat := 0
  deriving DecidableEq, Repr

/-- A value on its way into registers (R78): the units with the generations they carry. -/
structure Landing where
  id : Nat
  op : Nat
  team : Nat
  writes : List (Owed × UnitVal)
  holder : Option (BitVec 8) := none
  deriving DecidableEq, Repr

/-- The kinds of request (R206, R225, R240). -/
inductive ReqKind where
  | load
  | acquire
  | store
  | relaxed
  | release
  | atomic (fn : Nat)
  | vatomic (bf16 : Bool)
  deriving DecidableEq, Repr

/-- One lane's access in a packet: physical address, the bytes to write or the operand bytes. -/
structure LaneReq where
  lane : Nat
  pa : Nat
  data : List PByte
  deriving DecidableEq, Repr

/-- The key and generation of the table entry a request was stamped under (R200, R204). -/
structure Stamp where
  base : Nat
  len : Nat
  holder : Nat
  world : Nat
  gen : BitVec 8
  deriving DecidableEq, Repr

/-- A request packet (R223 to R229). -/
structure Packet where
  id : Nat
  op : Nat
  team : Nat
  crew : Nat
  hdrVA : VA
  src : Nat
  world : Nat
  holder : Nat
  path : Nat
  ordered : Bool
  /-- the pass of its instruction, by its mask word (R224) -/
  pass : Nat := 0
  kind : ReqKind
  size : Nat
  lanes : List LaneReq
  pos : BitVec 16 := 0
  carried : Option (List (BitVec 16)) := none
  naks : Nat := 0
  stamp : Stamp
  /-- not sent yet; and the earlier instructions of the team that R228 makes it wait for, and whether R229 exempts its own holder -/
  unsent : Bool := false
  after : List Nat := []
  ofFlag : Bool := false
  /-- at its holder, held by R229 step 3 -/
  held : Bool := false
  deriving DecidableEq, Repr

/-- The kinds of an announcement (R202). -/
inductive AnnKind where
  | home
  | mirror
  | snap
  deriving DecidableEq, Repr

/-- An announcement as a table holds it (R202). -/
structure Ann where
  base : Nat
  len : Nat
  holder : Nat
  localBase : Nat
  kind : AnnKind := .home
  gen : BitVec 8 := 0
  world : Nat := 0
  noPoison : Bool := false
  path : List Nat := []
  deriving DecidableEq, Repr

/-- A packet that a die has put on a path of class 0, as its span port counts it (R343): its number, path and bytes, the die's count at
that moment, a running number for the link's timing, and whether it is known to have left its queue. -/
structure Egress where
  pkt : Nat
  holder : Nat
  path : Nat
  bytes : Nat
  at_ : BitVec 64
  n : Nat
  left : Bool := false
  deriving DecidableEq, Repr

/-- What a reply says (R223, R212, R229, R240). -/
inductive Answer where
  /-- performed: the bytes read, lane by lane -/
  | done (data : List (Nat × List PByte))
  /-- poisoned completion (R240) -/
  | poisoned
  /-- refused with a trap cause -/
  | refused (cause : BitVec 8)
  | nakFrozen
  | nakMoved (dst : Ann)
  | nakReorder
  deriving DecidableEq, Repr

/-- A reply on its way to the requesting die. -/
structure Reply where
  id : Nat
  pkt : Packet
  ans : Answer
  deriving DecidableEq, Repr

/-- A quad-window request (R155, R156). -/
structure WinReq where
  id : Nat
  op : Nat
  team : Nat
  hdrVA : VA
  core : Nat
  ticket : BitVec 16
  write : Bool
  size : Nat
  signed : Bool
  lanes : List LaneReq
  dest : List (Nat × Owed)
  deriving DecidableEq, Repr

/-! ## Routes -/

/-- A copy of an announcement or of a withdrawal on its way from a node (or a CXL abutment) to a neighbour (R203). `camp` names the
announcement or withdrawal it is a copy of. -/
structure RouteMsg where
  id : Nat
  camp : Nat
  src : Nat
  node : Nat
  ann : Ann
  withdraw : Bool
  deriving DecidableEq, Repr

/-- A node's acknowledgement on its way to the holder (R204); `full` is a refusal for lack of space (R205). -/
structure RouteAck where
  id : Nat
  camp : Nat
  node : Nat
  ann : Ann
  withdraw : Bool
  full : Bool
  deriving DecidableEq, Repr

/-- What a node keeps of routes (R203, R204, R221): its table, the route generation, copies to send in its next round, the
announcements and withdrawals it has acknowledged, acknowledgements it holds back, and the DCC its round ends at. -/
structure Node where
  table : List Ann
  count : BitVec 32
  outbox : List (Nat × Ann × Bool) := []
  acked : List Nat := []
  heldAcks : List RouteAck := []
  round : BitVec 64 := 0
  deriving DecidableEq, Repr

/-- What an announcement or withdrawal under way is for: a command, the withdrawal of R205 for a command, a step of a home
transfer (R211), a silent holder (R241), a step of a channel failure (R340), or nothing that waits for it. -/
inductive Purpose where
  | cmd (id : Nat)
  | undo (id : Nat)
  | hmoveSnap (id : Nat)
  | hmoveHome (id : Nat)
  | silence (subject : Nat)
  | channel (job : Nat)
  | plain
  deriving DecidableEq, Repr

/-- An announcement or withdrawal that has not completed (R204). -/
structure Campaign where
  id : Nat
  ann : Ann
  withdraw : Bool
  acks : List Nat
  purpose : Purpose
  deriving DecidableEq, Repr

/-- A failed channel's re-announcement (R340): the pier, the original announcement, the pieces outside and inside, the step it is
at, the announcements it waits for, and whether one was refused. -/
structure ChanJob where
  id : Nat
  pier : Nat
  orig : Ann
  outside : List Ann
  inside : List Ann
  stage : Nat
  waiting : List Nat
  full : Bool := false
  deriving DecidableEq, Repr

/-- A route command in a die's engine (R216): the words of its block, and how far it has come. -/
structure RouteCmd where
  id : Nat
  op : Nat
  team : Nat
  die : Nat
  world : Nat
  fn : Nat
  block : List Word
  table : Nat := 0
  homeOnly : Bool := false
  asn : BitVec 16 := 0
  lanes : List (Nat × VA) := []
  started : Bool := false
  earlier : List Nat := []
  deriving DecidableEq, Repr

/-- A home transfer (R211): the range, both holders and the step it is at; the lines stored since the copy. -/
structure Transfer where
  cmd : Nat
  base : Nat
  len : Nat
  world : Nat
  old : Nat
  oldBase : Nat
  new : Nat
  newBase : Nat
  gen : BitVec 8
  noPoison : Bool
  step : Nat
  marked : List Nat := []
  deriving DecidableEq, Repr

/-- A write that the home of a mirrored range holds until the mirrors have acknowledged its prepares (R208);
`bad`: an uncorrectable cell answers it with poison (R339). -/
structure MirrorWrite where
  id : Nat
  pkt : Packet
  home : Nat
  members : List Nat
  waiting : List Nat
  bad : Bool
  deriving DecidableEq, Repr

/-- A prepare, its acknowledgement or its commit on its way (R208): the mirror, its home and the bytes by local offset, and
the accesses that they come from (address, size, and the world of the MIRROR entry, R298). -/
structure MirrorMsg where
  id : Nat
  write : Nat
  mirror : Nat
  home : Nat
  cells : List (Nat × PByte)
  accs : List (Nat × Nat × Nat)
  deriving DecidableEq, Repr

/-- A prepare a mirror has recorded (R208). -/
structure Prepared where
  write : Nat
  mirror : Nat
  home : Nat
  cells : List (Nat × PByte)
  accs : List (Nat × Nat × Nat)
  deriving DecidableEq, Repr

/-- A void notice (R360), a silence notice (R239, R243) or a link-lost notice (R243) on its way. -/
inductive Notice where
  | void (holder src path : Nat) (pos : BitVec 16)
  | silence (node subject : Nat)
  | linkLost (node teller subject : Nat)
  deriving DecidableEq, Repr

/-- What a holder keeps beside its memory: the announcements it originated (R201), ownership (R299), the write packets it has
disposed of (R228) — positions up to a mark all counted, and those counted above it — and the marked sources (R229). -/
structure Holder where
  anns : List Ann
  owners : List (Nat × Nat × Nat) := []
  arr : Table (BitVec 16) := []
  seen : List (Nat × BitVec 16) := []
  marks : List Nat := []
  deriving DecidableEq, Repr

/-! ## Links and piers -/

/-- One direction of a link (R230, R231): the sender's next sequence number and how many of the flits before it are kept, the number the
receiver expects, the replay under way, failed replays, the classes that are off. -/
structure LinkDir where
  send : BitVec 12 := 0
  kept : Nat := 0
  expect : BitVec 12 := 0
  replaying : Bool := false
  failedReplays : Nat := 0
  off : BitVec 4 := 0
  /-- the sender's count at which the replay under way fails (R231) -/
  replayTill : BitVec 64 := 0
  /-- route rounds of the receiving pier since the last flit (R243) -/
  quiet : Nat := 0
  deriving DecidableEq, Repr

/-- A link with both directions. -/
structure Link where
  ab : LinkDir := {}
  ba : LinkDir := {}
  failed : Bool := false
  deriving DecidableEq, Repr

/-- An entry of a pier's range watch (R309). -/
structure Watch where
  world : Nat
  base : Nat
  len : Nat
  mode : Bool
  reads : BitVec 48 := 0
  writes : BitVec 48 := 0
  deriving DecidableEq, Repr

/-- A record of a watch log (R309). -/
structure WatchRec where
  dcc : BitVec 64
  pa : Nat
  world : Nat
  kind : Nat
  src : Nat
  size : Nat
  entry : Nat
  seq : Nat
  deriving DecidableEq, Repr

/-- A record of an error log (R337). -/
structure ErrRec where
  dcc : BitVec 64
  kind : BitVec 8
  low : Nat
  world : Nat
  cls : Nat
  index : Nat
  deriving DecidableEq, Repr

/-- An error log with the records dropped (R337). -/
structure ErrLog where
  recs : List ErrRec := []
  dropped : Nat := 0
  deriving DecidableEq, Repr

/-- A pier: its own count, links held lost, watches, logs, failed channels. Its multicast group entries (R232) are those of the bound MIRROR
entries in its homes' tables (Route.lean). -/
structure Pier where
  dcc : BitVec 64 := 0
  silent : Bool := false
  fenced : Bool := false
  /-- the neighbour that declared it silent, and that pier's count then (R243) -/
  declared : Option (Nat × BitVec 64) := none
  /-- its DRAM training has failed in this start (R314) -/
  dramFailed : Bool := false
  /-- the management core is resetting it -/
  resetting : Bool := false
  /-- links it records lost, as (teller, subject) piers (R243) -/
  lost : List (Nat × Nat) := []
  /-- silent holders whose announcements it withdraws at its next round (R241) -/
  toWithdraw : List Nat := []
  watches : Table (Option Watch) := []
  watchLog : List WatchRec := []
  watchSeq : Nat := 0
  watchDropped : Nat := 0
  batch : Nat := 0
  cellLog : ErrLog := {}
  xferLog : ErrLog := {}
  failedChans : List Nat := []
  chanTries : Table Nat := []
  oldCounts : List (Nat × BitVec 48 × BitVec 48) := []
  sb : Nat := 0
  db : Nat := 0
  /-- words of its SRAM that hold the poison codeword (R79); which structure a word belongs to the spec does not lay out -/
  sramPoison : Table Bool := []
  deriving DecidableEq, Repr

/-! ## Engines of cores, quads and dies -/

/-- A pass in a core's array queue (R162 to R171); `bases` are the B bases of its quarters (or of its products) that the array has still to
take. -/
structure MmaPass where
  id : Nat
  op : Nat
  team : Nat
  acc : Nat
  zero : Bool
  batched : Bool
  desc : BitVec 64
  acting : Word
  rowsA : List (Nat × Nat)
  bases : List (Nat × Nat)
  gens : List Owed
  deriving DecidableEq, Repr

/-- The column rows that a core's array holds: the instruction, B bases and tile descriptor they were granted for, and their bytes (R163). -/
structure ArrayCols where
  op : Nat
  bases : List Nat
  desc : BitVec 64
  rows : List (List PByte)
  deriving DecidableEq, Repr

/-- A command of a copy queue (R184 to R189). `fn` 5 is a fence entry, which names its fence and queues. -/
structure CopyCmd where
  id : Nat
  op : Nat
  team : Nat
  crew : Nat
  hdrVA : VA
  engine : Nat
  queue : Nat
  fn : Nat
  block : List Word
  imm : BitVec 7
  bytes : Nat
  accepted : BitVec 64
  promise : BitVec 64
  revised : BitVec 64
  started : Bool := false
  fence : Nat := 0
  fenceQs : List Nat := []
  earlier : List Nat := []
  deriving DecidableEq, Repr

/-- A hardware barrier (R268): completed phases, expected count, the teams whose arrivals are counted, the ticket or world it
is bound to, and the phases already delivered. -/
structure Barrier where
  phase : Nat := 0
  expected : Nat := 0
  arrivals : List Nat := []
  isOpen : Bool := false
  bind : Nat := 0
  delivered : Nat := 0
  deriving DecidableEq, Repr

/-- A translation held in a core's TLB (R198). -/
structure TlbEnt where
  world : Nat
  asn : BitVec 16
  glob : Bool
  va : Nat
  log2 : Nat
  pa : Nat
  rd : Bool
  wr : Bool
  ex : Bool
  deriving DecidableEq, Repr

/-- A core's own registers outside its teams: TSEL (R332), error counters (R332, R337), the last teams sampled (R329), the
counts of the ports' cycles (R50), the sampler timer (R331), translations (R198) and the array (R162, R163). -/
structure CoreSt where
  tsel : Word := 0
  ecsb : BitVec 32 := 0
  ecdb : BitVec 32 := 0
  ecscr : BitVec 32 := 0
  lastA : Nat := 0
  lastB : Nat := 0
  portA : Nat := 0
  portB : Nat := 0
  timerAt : BitVec 64 := 0
  sampler : Bool := false
  tlb : List TlbEnt := []
  array : List MmaPass := []
  cols : Option ArrayCols := none
  deriving DecidableEq, Repr

/-- Sampling of one world on one die (R328, R329, R332). -/
structure Sampling where
  logN : Nat := 0
  ring : Nat := 0
  entries : Nat := 0
  period : BitVec 64 := 0
  card : VA := 0
  idx : BitVec 32 := 0
  head : BitVec 32 := 0
  drop : BitVec 16 := 0
  dropTimer : BitVec 16 := 0
  wanted : Option (Nat × Nat × Nat × BitVec 64 × VA) := none
  wantedAt : BitVec 64 := 0
  deriving DecidableEq, Repr

/-- A command word pair or half pair on q8 (R280). -/
structure Q8Word where
  team : Nat
  crew : Nat
  world : Nat
  asn : BitVec 16
  tid : BitVec 32
  earlier : List Nat
  word : Word
  deriving DecidableEq, Repr

/-- Crews waiting to be placed again from their start (R289 flush-and-restart, R294, R296): the card, its gang, the crews' indices,
and the silent holders it is held for (R354). -/
structure Relaunch where
  tid : BitVec 32
  gang : Nat
  crews : List Nat
  held : List Nat := []
  deriving DecidableEq, Repr

/-- A die: its count, silence, task unit and route engine. -/
structure Die where
  dcc : BitVec 64 := 0
  silent : Bool := false
  fenced : Bool := false
  /-- the attach pier that has declared it silent, while the other has not yet heard of it (R239) -/
  declared : Option Nat := none
  cal12 : Bool := false
  calFull : Bool := false
  /-- its calibration has failed in this start (R314) -/
  calFailed : Bool := false
  /-- the management core is resetting it (R296) -/
  resetting : Bool := false
  tids : BitVec 28 := 0
  world : Nat := 0
  sliceStart : BitVec 64 := 0
  sliceLen : BitVec 64 := 0
  relaunch : List Relaunch := []
  /-- silent holders whose notice has come, with the die's route rounds since (R354) -/
  holds : List (Nat × Nat) := []
  savedOrder : List Nat := []
  sent : Table (BitVec 16) := []
  egress : List Egress := []
  routes : List RouteCmd := []
  q8 : List Q8Word := []
  errLog : ErrLog := {}
  poolSb : Nat := 0
  poolDb : Nat := 0
  deriving DecidableEq, Repr

/-! ## Memory -/

/-- The package's memory. Keys are holder × 2^44 + local offset (R201). Bytes not listed read 0 (R362). `poison` is kept at
the granules of R244 (key: the granule's first byte), `written` and `keys` at 128-byte lines (R362; R301: the world and
epoch under which a line's tag was made), `seeds` at the words of die pools: the scramble seed under which a word was written, none for world
0's (R300). -/
structure Memory where
  cells : List Host.Cell := []
  poison : Table Bool := []
  seeds : Table (Option (BitVec 128)) := []
  written : Table Bool := []
  keys : Table (Nat × Nat) := []
  deriving DecidableEq, Repr

/-! ## Worlds, host, network, boot -/

/-- TDISP states (R305). -/
inductive Tdisp where
  | none
  | unlocked
  | locked
  | run
  | error
  deriving DecidableEq, Repr

/-- The receipt counts of a world (R307, R308). -/
structure Zeroed where
  words : Nat := 0
  accs : Nat := 0
  bytes : Nat := 0
  tags : Nat := 0
  resid : Nat := 0
  deriving DecidableEq, Repr

/-- A world (R288 to R305). -/
structure World where
  state : Tdisp := .none
  session : Option Nat := none
  epoch : Nat := 0
  keyed : Bool := false
  xts : BitVec 512 := 0
  tagKey : BitVec 256 := 0
  scrubbed : Bool := false
  /-- a STOP_INTERFACE under way: its session and nonce (R305) -/
  stopping : Option (Nat × BitVec 64) := none
  ctxs : List (BitVec 16 × PA) := []
  slice : BitVec 64 := 0
  handler : Option (VA × CardImage) := none
  trapBase : VA := 0
  trapSlots : Nat := 0
  trapTaken : List Nat := []
  saveBase : Nat := 0
  saveSize : Nat := 0
  saved : List (Nat × Nat × Nat) := []
  zeroed : Zeroed := {}
  seed : BitVec 128 := 0
  netTable : Option (PA × Nat) := none
  deriving DecidableEq, Repr

/-- A host ring (R278, R304, R306). -/
structure Ring where
  set : Bool := false
  base : BitVec 64 := 0
  entries : Nat := 0
  world : Nat := 0
  asn : BitVec 16 := 0
  msixLo : Nat := 0
  msixHi : Nat := 0
  head : Nat := 0
  tail : Nat := 0
  code : BitVec 8 := 0
  skipped : BitVec 24 := 0
  latest : Nat := 0
  deriving DecidableEq, Repr

/-- A secured session (R303, R306). -/
structure Session where
  id : Nat
  finished : Bool := false
  world : Nat := 0
  deriving DecidableEq, Repr

/-- A response of the management core (R303, R304, R306): the request's name, the status, and the words of its content. -/
structure Response where
  request : String
  sess : Nat
  error : Bool
  status : Nat
  words : List (BitVec 64) := []
  /-- the bytes of its message, 0 for an SPDM ERROR, whose length is not stated; and the response slots it takes (R304) -/
  bytes : Nat := 0
  slots : Nat := 1
  deriving DecidableEq, Repr

/-- What a response slot holds: a part of a response, and the response's number. -/
structure FilledSlot where
  rsp : Response
  part : Nat
  serial : Nat
  deriving DecidableEq, Repr

/-- The management ring of a host port (R304): tails and heads, the responses in slots not yet read, those that wait for slots, the words the
host has put into request slots, and what response slots hold. -/
structure MgmtRing where
  reqTail : Nat := 0
  reqHead : Nat := 0
  rspTail : Nat := 0
  rspHead : Nat := 0
  rsps : List Response := []
  owed : List Response := []
  reqWords : Table Word := []
  filled : Table (Option FilledSlot) := []
  deriving DecidableEq, Repr

/-- The host side: rings, the management ring of abutment W's port and that of abutment E's optional one (`other`), the ports whose requests
wait in the order they came (true for E), the port whose request was read last, how many responses have been written, sessions, MSI-X vectors
raised (R285, R303, R304). -/
structure HostSide where
  rings : Table Ring := []
  reqTail : Nat := 0
  reqHead : Nat := 0
  rspTail : Nat := 0
  rspHead : Nat := 0
  sessions : List Session := []
  msix : List Nat := []
  rsps : List Response := []
  owed : List Response := []
  reqWords : Table Word := []
  filled : Table (Option FilledSlot) := []
  other : MgmtRing := {}
  waiting : List Bool := []
  serving : Bool := false
  written : Nat := 0
  receipts : Nat := 0
  spdm : Nat := 0
  deriving DecidableEq, Repr

/-- A network command held for its connection (R324 to R327). -/
structure NetCmd where
  id : Nat
  op : Nat
  team : Nat
  crew : Nat
  hdrVA : VA
  world : Nat
  asn : BitVec 16
  q : Nat
  conn : Nat
  fn : Nat
  block : List Word
  cas : Bool := false
  state : Nat := 0
  lastSeq : BitVec 32 := 0
  status : BitVec 8 := 0
  result : Option (BitVec 64) := none
  earlier : List Nat := []
  deriving DecidableEq, Repr

/-- A packet sent and not acknowledged (R320, R321). -/
structure NetPkt where
  seq : BitVec 32
  cmd : Nat
  opcode : BitVec 8
  offset : BitVec 64
  payload : List PByte
  last : Bool
  sent : Bool := false
  /-- its abutment's count when it was last sent (R321), and when a receiver was not ready for it (R319) -/
  sentAt : BitVec 64 := 0
  rnr : Option (BitVec 64) := none
  deriving DecidableEq, Repr

/-- An ACK, NAK or receiver-not-ready NAK that waits for a key (R323). -/
structure HeldAnswer where
  opcode : BitVec 8
  flags : BitVec 16
  seq : BitVec 32
  payload : List PByte
  deriving DecidableEq, Repr

/-- A datagram sent (R317): where to, the header, the payload before encryption, the nonce and the tag. -/
structure Sent where
  port : Nat
  peer : BitVec 128
  udp : BitVec 16
  version : BitVec 8
  opcode : BitVec 8
  flags : BitVec 16
  conn : BitVec 20
  seq : BitVec 32
  iv : BitVec 32
  offset : BitVec 64
  payload : List PByte
  nonce : BitVec 96
  tag : BitVec 128
  deriving DecidableEq, Repr

/-- A connection record (R318 to R323); the rate is a fraction in Gb/s (R322). -/
structure Conn where
  world : Nat := 0
  asn : BitVec 16 := 0
  port : Nat := 0
  peer : BitVec 128 := 0
  udp : BitVec 16 := 0
  peerConn : BitVec 20 := 0
  winBase : VA := 0
  winSize : Nat := 0
  key : Option (BitVec 256) := none
  salt : BitVec 64 := 0
  iv : BitVec 32 := 0
  sendSeq : BitVec 32 := 0
  expSeq : BitVec 32 := 0
  rate : Nat × Nat := (1600, 1)
  up : Bool := false
  unackd : List NetPkt := []
  buffered : List Datagram := []
  timeouts : Nat := 0
  exhausted : Bool := false
  /-- answers that wait for a key (R323) -/
  answers : List HeldAnswer := []
  /-- the get and at commands whose data are to come, in the order of their requests (R326) -/
  expects : List Nat := []
  /-- the round trip measured last (R321), the packets of the present one acknowledged and those marked, and its start (R322) -/
  rtt : Nat := 0
  backTotal : Nat := 0
  backMarked : Nat := 0
  rateAt : BitVec 64 := 0
  /-- it stopped after 16 timeouts in a row (R321) -/
  unreachable : Bool := false
  deriving DecidableEq, Repr

/-- The network engine: records by number, which are cached (latest used first), those written back to tables in host memory (table PA, number,
record; R318), parked datagrams, commands, sent datagrams and the drop counts of the ports. -/
structure Net where
  conns : Table (Option Conn) := []
  cached : List Nat := []
  hostTable : List (PA × Nat × Conn) := []
  parked : List Datagram := []
  cmds : List NetCmd := []
  sent : List Sent := []
  drops : Table Nat := []
  deriving DecidableEq, Repr

/-- A firmware image slot (R312, R313). -/
structure ImageSlot where
  /-- BL1 verifies -/
  good : Bool := true
  /-- the first part after it that does not: 1 BL2, 2 to 4 the die, pier and abutment firmware -/
  fails : Option Nat := none
  version : Nat := 0
  digest : BitVec 512 := 0
  deriving DecidableEq, Repr

/-- The management core's boot state (R311 to R315). -/
structure Boot where
  reason : BitVec 8 := 0
  minimal : Bool := false
  up : Bool := false
  cal : Bool := false
  /-- 0 before BL0 has run, 1 while the start is under way or done, 2 once it has ended in failure -/
  stage : Nat := 0
  flashA : Nat × Nat := (0, 0)
  flashB : Nat × Nat := (0, 0)
  fuses : BitVec 64 := 0
  weak : BitVec 64 := 0
  /-- the bits that this start has blown since UP (R313) -/
  fresh : BitVec 64 := 0
  slotA : ImageSlot := {}
  slotB : ImageSlot := {}
  usedB : Bool := false
  mrs : Table (BitVec 512) := []
  deriving DecidableEq, Repr

/-! ## The package -/

/-- A turn the outside has chosen: how many DCC pass first, and what happens. -/
inductive Turn where
  | event (lapse : Nat) (i : Instr)
  | issue (lapse team : Nat)
  deriving DecidableEq, Repr

/-- The whole package. -/
structure State where
  /-- MODEL's own: the team whose turn it is. -/
  cur : Nat
  /-- MODEL's own: the turns the outside has chosen, taken before the default scheduler's. -/
  agenda : List Turn
  /-- MODEL's own: the default scheduler's counter. -/
  phase : Nat
  /-- MODEL's own: the next number for a team, crew, packet, message or command. -/
  nextId : Nat
  /-- MODEL's own: counter for free values. -/
  free : Nat
  /-- MODEL's own: lines (holder, offset) whose tag failed in this step, and worlds whose crew violated a confidential world in
  it: acted on when the step ends (R301, R305). -/
  tagFails : List (Nat × Nat)
  badWorlds : List Nat
  variant : Variant
  /-- CAP (R2): DIES, CXL, NET. -/
  capDies : BitVec 8
  capCxl : Bool
  capNet : Bool
  teams : Table (Option Team)
  crews : Table (Option Crew)
  cards : List Card
  handles : Table (Option Handle)
  dies : Table Die
  cores : Table CoreSt
  copies : List CopyCmd
  bars : Table Barrier
  mem : Memory
  ops : List OpRec
  lands : List Landing
  pkts : List Packet
  replies : List Reply
  wins : List WinReq
  nodes : Table Node
  holders : Table Holder
  campaigns : List Campaign
  chanJobs : List ChanJob
  routeMsgs : List RouteMsg
  routeAcks : List RouteAck
  transfers : List Transfer
  mirrors : List MirrorWrite
  prepares : List MirrorMsg
  prepAcks : List MirrorMsg
  commits : List MirrorMsg
  prepared : List Prepared
  notices : List (Nat × Notice)
  links : Table Link
  piers : Table Pier
  worlds : Table World
  samplings : Table Sampling
  abutLogs : Table ErrLog
  /-- the counts of abutments W and E (R10, R22) -/
  abutDccs : Table (BitVec 64)
  host : HostSide
  net : Net
  boot : Boot
  deriving DecidableEq, Repr

/-! ## Reset -/

/-- The 18 default announcements (R18): piers, die pools, and X0 and X1 where CXL is fitted (R1). -/
def resetAnns (cxl : Bool) : List Ann :=
  (List.range 8).map (fun k => { base := k * 0x1000000000, len := 16, holder := 8 + k, localBase := 0 })
  ++ (List.range 8).map (fun i => { base := 0x10000000000 + i * 0x1000000, len := 28, holder := i, localBase := 0 })
  ++ (if cxl then [{ base := 0x80000000000, len := 10, holder := 16, localBase := 0 },
        { base := 0xC0000000000, len := 10, holder := 17, localBase := 0 }] else [])

/-- Which variants carry the network engine and the second tier (R1, R2). -/
def Variant.hasNet : Variant → Bool
  | .a => true
  | .n => false
  | .c => true
  | .nc => false

def Variant.hasCxl : Variant → Bool
  | .a => true
  | .n => true
  | .c => false
  | .nc => false

/-- A node's table right after reset: the default announcements, and a route generation that counts them (R18, and the worked
program of spec/11). -/
def resetNode (cxl : Bool) : Node :=
  { table := resetAnns cxl, count := BitVec.ofNat 32 (resetAnns cxl).length }

/-- A holder right after reset: it has originated its default announcement (R18). -/
def resetHolder (cxl : Bool) (h : Nat) : Holder := { anns := (resetAnns cxl).filter (fun a => a.holder == h) }

/-- The default of the node table, the holder table and the world table; entries that differ are listed. -/
def nodeDefault : Node := { table := [], count := 0 }
def holderDefault : Holder := { anns := [] }
/-- World 0 counts as RUN (R305); worlds 1 to 15 have not been created. -/
def worldDefault : World := {}
/-- World 0 right after reset (R305). -/
def worldZero : World := { state := .run, keyed := true }

/-- The package right after reset, for a variant. -/
def State.resetOf (v : Variant) : State :=
  { cur := 0, agenda := [], phase := 0, nextId := 1, free := 0, tagFails := [], badWorlds := [], variant := v,
    capDies := 0xFF, capCxl := v.hasCxl, capNet := v.hasNet,
    teams := [], crews := [], cards := [], handles := [], dies := [], cores := [], copies := [], bars := [],
    mem := {}, ops := [], lands := [], pkts := [], replies := [], wins := [],
    nodes := (List.range 16).map (fun k => (k, resetNode v.hasCxl)),
    holders := (List.range (if v.hasCxl then 18 else 16)).map (fun h => (h, resetHolder v.hasCxl h)),
    campaigns := [], chanJobs := [], routeMsgs := [], routeAcks := [], transfers := [], mirrors := [], prepares := [], prepAcks := [],
    commits := [], prepared := [], notices := [], links := [], piers := [],
    worlds := [(0, worldZero)], samplings := [], abutLogs := [], abutDccs := [], host := {}, net := {}, boot := {} }

/-- The package right after reset. The variant is F9-A (DESIGN CHOICE, notes/assumptions/2.md). -/
def State.reset : State := State.resetOf .a

end Sys2Proof.Machine
end

