-- ==== Sys2Proof/Machine/Operands.lean ====
section
/-! DEFINITION. Register units (spec/04 R69, R70, R78; spec/07 R133, R358), lanes and mask words (spec/03 R47, R48), and the
parts a load or store moves between registers and bytes (spec/02 R33). -/

namespace Sys2Proof.Machine

/-! ## Masks -/

/-- The mask word whose bit j is f j. -/
def maskWord (f : Nat → Bool) : Word :=
  BitVec.ofNat 32 ((List.range 32).foldl (fun acc j => if f j then acc + 2 ^ j else acc) 0)

/-- Bit L of a mask. -/
def Mask.has (m : Mask) (lane : Nat) : Bool := (m.getD (lane / 32) 0).getLsbD (lane % 32)

/-- The lanes of a mask, ascending. -/
def Mask.lanes (m : Mask) : List Nat := (List.range (32 * m.length)).filter (fun l => Mask.has m l)

/-- The executed mask words (R48): those not zero, ascending. -/
def Mask.words (m : Mask) : List Nat := (List.range m.length).filter (fun k => m.getD k 0 != 0)

/-- No lane at all. -/
def Mask.none (m : Mask) : Bool := m.all (· == 0)

/-- Lane-wise AND of two masks. -/
def Mask.inter (m n : Mask) : Mask := (List.range m.length).map (fun k => m.getD k 0 &&& n.getD k 0)

/-- Only the first n executed words. -/
def Mask.first (m : Mask) (n : Nat) : Mask :=
  let keep := (Mask.words m).take n
  (List.range m.length).map (fun k => if keep.contains k then m.getD k 0 else 0)

/-- Only word k. -/
def Mask.only (m : Mask) (k : Nat) : Mask := (List.range m.length).map (fun j => if j = k then m.getD j 0 else 0)

def LaneSt.isActive : LaneSt → Bool
  | .active => true
  | _ => false

/-- The frontier state of a lane; a lane not listed is active (R46: all are at launch). -/
def Frontier.lane (f : Frontier) (l : Nat) : LaneSt := tget .active f.lanes l

/-- Set the state of some lanes. -/
def Frontier.setLanes (f : Frontier) (ls : List Nat) (st : LaneSt) : Frontier :=
  { f with lanes := ls.foldl (fun m l => tset .active m l st) f.lanes }

/-- The active mask words of a team (R47). -/
def Team.active (t : Team) : Mask :=
  (List.range t.width).map (fun k => maskWord (fun j => (t.fr.lane (32 * k + j)).isActive))

/-- All lanes of a team, ascending. -/
def Team.lanes (t : Team) : List Nat := List.range (32 * t.width)

/-- The active lanes, ascending. -/
def Team.activeLanes (t : Team) : List Nat := t.lanes.filter (fun l => (t.fr.lane l).isActive)

/-! ## Units -/

/-- One number for two; no two pairs share it. -/
def pairKey (a b : Nat) : Nat := if a < b then b * b + a else a * a + a + b

/-- Key of a vector lane word. -/
def vkey (reg lane : Nat) : Nat := pairKey reg lane

/-- Key of a predicate over a mask word. -/
def pkey (reg word : Nat) : Nat := pairKey reg word

/-- Units that the hard-wired registers v0, s0 and p0 name (R70). -/
def UnitRef.wired : UnitRef → Bool
  | .vec r _ => r == 0
  | .uni r => r == 0
  | .pred r _ => r == 0
  | .acc _ => false
  | .tile _ => false

/-- What a unit holds. v0 and s0 read zero, p0 reads 1 in every lane (R70). -/
def Team.unit (t : Team) : UnitRef → UnitVal
  | .vec r l => if r = 0 then .w (.word 0) else .w (tget {} t.v (vkey r l)).val
  | .uni r => if r = 0 then .w (.word 0) else .w (tget {} t.u r).val
  | .pred r k => if r = 0 then .p 0xFFFFFFFF 0 else let c := tget {} t.p (pkey r k); .p c.bits c.poison
  | .acc r => let c := tget {} t.a r; .a c.elems c.ovf
  | .tile r => let c := tget {} t.t r; .t c.bits c.poison

/-- Whether a unit is pending (R78); the hard-wired ones never are (R70). -/
def Team.pend (t : Team) : UnitRef → Bool
  | .vec r l => r != 0 && (tget {} t.v (vkey r l)).pend
  | .uni r => r != 0 && (tget {} t.u r).pend
  | .pred r k => r != 0 && (tget {} t.p (pkey r k)).pend
  | .acc r => (tget {} t.a r).pend
  | .tile r => (tget {} t.t r).pend

/-- A unit's generation (R78). -/
def Team.gen (t : Team) : UnitRef → BitVec 4
  | .vec r l => (tget {} t.v (vkey r l)).gen
  | .uni r => (tget {} t.u r).gen
  | .pred r k => (tget {} t.p (pkey r k)).gen
  | .acc r => (tget {} t.a r).gen
  | .tile r => (tget {} t.t r).gen

/-- Put a value, pending bit and generation into a unit. A write to v0, s0 or p0 is discarded (R70); a value of another class
than the unit's changes nothing. -/
def Team.put (t : Team) (r : UnitRef) (x : UnitVal) (pend : Bool) (gen : BitVec 4) : Team :=
  if r.wired then t else
  match r, x with
  | .vec r l, .w v => { t with v := tset {} t.v (vkey r l) { val := v, pend := pend, gen := gen } }
  | .uni r, .w v => { t with u := tset {} t.u r { val := v, pend := pend, gen := gen } }
  | .pred r k, .p b q => { t with p := tset {} t.p (pkey r k) { bits := b, poison := q, pend := pend, gen := gen } }
  | .acc r, .a e o => { t with a := tset {} t.a r { elems := e, ovf := o, pend := pend, gen := gen } }
  | .tile r, .t b q => { t with t := tset {} t.t r { bits := b, poison := q, pend := pend, gen := gen } }
  | _, _ => t

/-- A direct write (R78, R133): it replaces the value, clears pending and advances the generation. -/
def Team.write (t : Team) (r : UnitRef) (x : UnitVal) : Team := t.put r x false (t.gen r + 1)

/-- An instruction that will write a unit later makes it pending and advances its generation (R78). -/
def Team.owe (t : Team) (r : UnitRef) : Team := t.put r (t.unit r) true (t.gen r + 1)

/-- A landing writes, and clears pending, only if the generation it carries is still the unit's (R78). -/
def Team.land (t : Team) (o : Owed) (x : UnitVal) : Team :=
  if t.gen o.unit = o.gen then t.put o.unit x false o.gen else t

/-- A unit turned into poison as a whole, no longer pending (R140, R358). -/
def Team.poisonUnit (t : Team) (r : UnitRef) : Team :=
  match r with
  | .vec _ _ => t.put r (.w .poison) false (t.gen r)
  | .uni _ => t.put r (.w .poison) false (t.gen r)
  | .pred _ _ => t.put r (.p 0 0xFFFFFFFF) false (t.gen r)
  | .acc n => t.put r (.a ((List.range 512).map (fun e => (e, Val.poison))) (tget {} t.a n).ovf) false (t.gen r)
  | .tile n => t.put r (.t (tget {} t.t n).bits true) false (t.gen r)

def Team.writeAll (t : Team) (ws : List (UnitRef × UnitVal)) : Team := ws.foldl (fun t w => t.write w.1 w.2) t

def Team.oweAll (t : Team) (rs : List UnitRef) : Team := rs.foldl (fun t r => t.owe r) t

/-- The word in a vector lane word or a uniform register. -/
def UnitVal.val : UnitVal → Val
  | .w v => v
  | _ => .word 0

/-- Values and poison of a predicate word. -/
def UnitVal.preds : UnitVal → Word × Word
  | .p b q => (b, q)
  | _ => (0, 0)

/-- An accumulator's elements and overflow bit. -/
def UnitVal.accu : UnitVal → Table Val × Bool
  | .a e o => (e, o)
  | _ => ([], false)

/-- A tile's descriptor and poison mark. -/
def UnitVal.tile : UnitVal → BitVec 64 × Bool
  | .t b q => (b, q)
  | _ => (0, false)

/-! ## Sizes (R33) -/

/-- Bytes of a size code. -/
def szBytes (s : BitVec 3) : Nat :=
  match s.toNat with
  | 0 => 1
  | 1 => 1
  | 2 => 2
  | 3 => 2
  | 4 => 4
  | 5 => 8
  | _ => 16

/-- Registers of a size code. -/
def szRegs (s : BitVec 3) : Nat :=
  match s.toNat with
  | 5 => 2
  | 6 => 4
  | _ => 1

/-- Whether the load extends with the sign. -/
def szSigned (s : BitVec 3) : Bool := s = 1 ∨ s = 3

/-- The register words that the bytes of one lane's access make: sub-word loads extend, a poisoned byte poisons its whole
register word (R33, R154). -/
def wordsOf (size : Nat) (signed : Bool) (bs : List PByte) : List Val :=
  if size < 4 then
    if bs.any Option.isNone then [.poison]
    else
      let n := (bs.zipIdx.foldl (fun acc b => acc + (b.1.getD 0).toNat * 2 ^ (8 * b.2)) 0)
      if signed ∧ 2 ^ (8 * size - 1) ≤ n then [.word (BitVec.ofNat 32 (n + 2 ^ 32 - 2 ^ (8 * size)))]
      else [.word (BitVec.ofNat 32 n)]
  else
    (List.range (size / 4)).map (fun k =>
      let w := (bs.drop (4 * k)).take 4
      if w.any Option.isNone then .poison
      else .word (BitVec.ofNat 32 (w.zipIdx.foldl (fun acc b => acc + (b.1.getD 0).toNat * 2 ^ (8 * b.2)) 0)))

/-- The bytes that a store of some register words writes, the low bytes of a sub-word store; a poisoned word gives poisoned
bytes (R33, R154). -/
def bytesOf (size : Nat) (ws : List Val) : List PByte :=
  (List.range size).map (fun i =>
    match ws.getD (i / 4) (.word 0) with
    | .word w => some (w.extractLsb' (8 * (i % 4)) 8)
    | .poison => none)

end Sys2Proof.Machine
end

