-- ==== Sys2Proof/Machine/Ops.lean ====
section
/-! DEFINITION. The operations every instruction shares: finding the team whose turn it is, taking a trap (spec/14 R291,
spec/07 R140) and resuming from one (R294), moving past a word with the loop-end test (spec/03 R56), the order in which a word's
checks, waits, capture and effect come (spec/02 R25, R26, R29; spec/07 R130 to R139), and the records of accesses under way. -/

namespace Sys2Proof.Machine

/-- How an instruction answers in this model: always with a next state. -/
abbrev Answered := Host.Outcome State Fault Refusal

/-! ## Access to the parts of the state -/

def State.team? (s : State) (uid : Nat) : Option Team := tget none s.teams uid

def State.setTeam (s : State) (uid : Nat) (t : Team) : State := { s with teams := tset none s.teams uid (some t) }

def State.modTeam (s : State) (uid : Nat) (f : Team → Team) : State :=
  match s.team? uid with
  | some t => s.setTeam uid (f t)
  | none => s

def State.crew? (s : State) (uid : Nat) : Option Crew := tget none s.crews uid

def State.setCrew (s : State) (uid : Nat) (c : Crew) : State := { s with crews := tset none s.crews uid (some c) }

def State.modCrew (s : State) (uid : Nat) (f : Crew → Crew) : State :=
  match s.crew? uid with
  | some c => s.setCrew uid (f c)
  | none => s

def State.die (s : State) (d : Nat) : Die := tget {} s.dies d

def State.modDie (s : State) (d : Nat) (f : Die → Die) : State := { s with dies := tmod {} s.dies d f }

/-- Cores are numbered over the package: die × 144 + core (R10). -/
def coreKey (die core : Nat) : Nat := die * 144 + core

def Crew.coreKey (c : Crew) : Nat := Machine.coreKey c.die c.core

/-- Quads are numbered over the package: die × 36 + quad (R10). -/
def quadOf (die core : Nat) : Nat := die * 36 + core / 4

def State.core (s : State) (k : Nat) : CoreSt := tget {} s.cores k

def State.modCore (s : State) (k : Nat) (f : CoreSt → CoreSt) : State := { s with cores := tmod {} s.cores k f }

def State.world (s : State) (w : Nat) : World := tget worldDefault s.worlds w

def State.modWorld (s : State) (w : Nat) (f : World → World) : State := { s with worlds := tmod worldDefault s.worlds w f }

def State.node (s : State) (n : Nat) : Node := tget nodeDefault s.nodes n

def State.modNode (s : State) (n : Nat) (f : Node → Node) : State := { s with nodes := tmod nodeDefault s.nodes n f }

def State.holder (s : State) (h : Nat) : Holder := tget holderDefault s.holders h

def State.modHolder (s : State) (h : Nat) (f : Holder → Holder) : State :=
  { s with holders := tmod holderDefault s.holders h f }

def State.pier (s : State) (p : Nat) : Pier := tget {} s.piers p

def State.modPier (s : State) (p : Nat) (f : Pier → Pier) : State := { s with piers := tmod {} s.piers p f }

/-- The team whose turn it is, with its crew. -/
def State.current (s : State) : Option (Team × Crew) :=
  match s.team? s.cur with
  | some t =>
    match s.crew? t.crew with
    | some c => some (t, c)
    | none => none
  | none => none

/-- The die cycle count of the die a crew is on (R22). -/
def State.dccOf (s : State) (c : Crew) : BitVec 64 := (s.die c.die).dcc

/-- The count of abutment W (0) or E (1) (R10, R22). -/
def State.abutDcc (s : State) (w : Nat) : BitVec 64 := tget 0 s.abutDccs w

/-- Take the next unique number. -/
def State.fresh (s : State) : Nat × State := (s.nextId, { s with nextId := s.nextId + 1 })

/-- Is die i in service (R2)? -/
def State.dieUp (s : State) (i : Nat) : Bool := s.capDies.getLsbD i

/-! ## Wait counters and outstanding instructions (R26) -/

/-- One wait counter down by one (R26); W code 7 names none. -/
def Team.decW (t : Team) (w : BitVec 3) : Team :=
  if w.toNat < 6 then { t with waits := tmod 0 t.waits w.toNat (fun n => if n = 0 then 0 else n - 1) } else t

/-- One wait counter up by one (R26). -/
def Team.incW (t : Team) (w : BitVec 3) : Team :=
  if w.toNat < 6 then { t with waits := tmod 0 t.waits w.toNat (fun n => n + 1) } else t

/-- R26: an instruction that names a counter at 63 does not issue. -/
def Team.fullW (t : Team) (w : BitVec 3) : Bool := decide (w.toNat < 6) && (tget 0 t.waits w.toNat == 63)

/-- An outstanding instruction has nothing left to wait for (R26). -/
def OpRec.done (o : OpRec) : Bool := o.outs.isEmpty && o.gathers.isEmpty && o.owed.isEmpty && o.parts == 0

def State.op? (s : State) (id : Nat) : Option OpRec := s.ops.find? (fun o => o.id == id)

/-- Change the record of an outstanding instruction; when nothing is left its counter falls and the record goes (R26). -/
def State.modOp (s : State) (id : Nat) (f : OpRec → OpRec) : State :=
  match s.op? id with
  | none => s
  | some o =>
    let o' := f o
    if o'.done then
      let s := { s with ops := s.ops.filter (fun o => o.id != id) }
      s.modTeam o.team (fun t => t.decW o.w)
    else { s with ops := s.ops.map (fun o => if o.id == id then o' else o) }

/-- Start the record of an instruction whose effects complete later; one already complete lowers its counter at once. -/
def State.addOp (s : State) (o : OpRec) : State :=
  if o.done then s.modTeam o.team (fun t => t.decW o.w) else { s with ops := s.ops ++ [o] }

/-- The outstanding instructions whose passes issue one by one (R49): `parts` counts those still to issue. -/
def OpKind.byPass : OpKind → Bool
  | .scratch => true
  | .plane => true
  | .matrix => true
  | _ => false

/-- A word cut off gives up the passes it would still have issued one by one: its outstanding instruction waits for what has issued, and
when that is nothing its counter falls and the record goes (R26). -/
def State.abandon (s : State) (uid : Nat) : State :=
  let cut := fun (o : OpRec) => o.team == uid && o.kind.byPass && o.parts != 0
  let given := fun (o : OpRec) => { o with parts := 0 }
  State.modTeam { s with ops := s.ops.filterMap (fun o => if cut o then (if (given o).done then none else some (given o)) else some o) } uid
    (fun t => ((s.ops.filter cut).map given).foldl (fun t o => if o.done then t.decW o.w else t) t)

/-! ## Traps -/

/-- A trap as an instruction raises it (R7): the cause, and where the spec states them the lowest failing lane, the lane mask of
R199, the fault VA and the holder that supplied a word fetched as poison (R29). What it does not state is a free value in the record
(notes/assumptions/8.md). -/
structure Trap where
  cause : BitVec 8
  lane : Option Nat := none
  mask : Option Word := none
  va : Option (BitVec 64) := none
  holder : Option (BitVec 8) := none
  deriving DecidableEq, Repr

def Trap.illegalInstruction : Trap := { cause := 0x01 }
def Trap.illegalClause : Trap := { cause := 0x02 }
def Trap.misframed : Trap := { cause := 0x03 }
def Trap.illegalOperand : Trap := { cause := 0x04 }
def Trap.unitAbsent : Trap := { cause := 0x05 }
def Trap.permission (lane : Option Nat) (va : BitVec 64) : Trap := { cause := 0x09, lane := lane, va := some va }
def Trap.denied : Trap := { cause := 0x09 }
def Trap.poisonConsumed (lane : Nat) : Trap := { cause := 0x10, lane := some lane }
def Trap.poisonUniform : Trap := { cause := 0x10 }
def Trap.queueMisuse : Trap := { cause := 0x1D }

/-- A check that every acting lane fails alike (an allotment, a poisoned uniform) is reported for the lowest of them (R7). -/
def Trap.atLane (tr : Trap) (whole : Bool) (m : Mask) : Trap :=
  if whole || tr.lane.isSome then tr else { tr with lane := (Mask.lanes m).head? }

/-- The lane mask where R199 does not state it: the lowest failing lane is in it and no lower one; the lanes above are a free value
(DESIGN CHOICE, notes/assumptions/8.md). -/
def lowestLane (lane : Nat) (x : Word) : Word := (x <<< (lane % 32 + 1)) ||| (1 <<< (lane % 32))

/-- What the record reports of a trap (R291), taking free values from the running number n on. -/
def Trap.info (tr : Trap) (n : Nat) (hdr : VA) (byEntry : Bool) : TrapInfo :=
  { cause := tr.cause, hdrVA := hdr, byEntry := byEntry, supplier := tr.holder
    maskWord := match tr.lane with | some l => l / 32 | none => (Config.freeWord n).toNat % 32
    laneMask := match tr.mask, tr.lane with
      | some m, _ => m
      | none, some l => lowestLane l (Config.freeWord (n + 1))
      | none, none => Config.freeWord (n + 1)
    faultVA := tr.va.getD (Config.freeBits (n + 2)) }

/-- Discard the residual FIFO (R140): unrun entries go, the counters they named fall, and every unit whose current generation
a removed entry set becomes poison as a whole. -/
def Team.discard (t : Team) : Team :=
  let t1 := t.fifo.foldl (fun t e => t.decW e.w) t
  let t2 := t.fifo.foldl (fun t e => e.dests.foldl (fun t o => if t.gen o.unit = o.gen then t.poisonUnit o.unit else t) t) t1
  { t2 with fifo := [] }

/-- Suspend a team with what its trap reports (R291). In deferring mode the FIFO is discarded (R140). The poison holder is
reported for causes 0x10 and 0x11 only (R245), the holder that supplied a word fetched as poison before it (R29). A team that has ended (killed by what it did, R305) takes none. -/
def Team.suspend (t : Team) (i : TrapInfo) : Team :=
  if t.status = .ended then t else
  let t := if t.defOn || !t.fifo.isEmpty then t.discard else t
  { t with status := .suspended, late := none, hold := .none, stall := 15
           trap := some { i with holder := if i.cause = 0x10 ∨ i.cause = 0x11 then i.supplier.getD t.poisonHolder else 0 } }

/-- Suspend a team: a word of which only some passes have issued gives up the others. -/
def State.suspend (s : State) (uid : Nat) (i : TrapInfo) : State := (s.modTeam uid (fun t => t.suspend i)).abandon uid

/-- A trap 0x11 clears the crew's store-poison flag (R246). -/
def State.clearStorePoison (s : State) (uid : Nat) (tr : Trap) : State :=
  match s.team? uid with
  | some t => if tr.cause = 0x11 then s.modCrew t.crew (fun c => { c with storePoison := false }) else s
  | none => s

/-- TAKING A TRAP, for every instruction and event that raises one: the team is suspended at the clause hdr with the record
fields of R291. The record itself is written, and the handler entered, by TRAP_RECORD_WRITE. -/
def State.takeTrap (s : State) (uid : Nat) (hdr : VA) (tr : Trap) (byEntry : Bool := false) : State :=
  (State.clearStorePoison { s with free := s.free + 3 } uid tr).suspend uid (tr.info s.free hdr byEntry)

/-- A world violation (0x0C) of a confidential world's team against another confidential world: its world enters ERROR when the step
ends (R305). -/
def State.violated (s : State) (uid : Nat) (tr : Trap) : State :=
  match s.team? uid with
  | none => s
  | some t => match s.crew? t.crew with
    | none => s
    | some k => if tr.cause = 0x0C ∧ k.world ≠ 0 then { s with badWorlds := k.world :: s.badWorlds } else s

/-- A fault reported late: the team traps at its next issue, with a lane mask of 0 (R223, R156, R188). An earlier one stands. -/
def State.lateTrap (s : State) (uid : Nat) (hdr : VA) (tr : Trap) : State :=
  ({ s with free := s.free + 3 }).modTeam uid (fun t => if t.late.isSome then t else
    { t with late := some ({ tr with mask := some 0 }.info s.free hdr false) })

/-- RETURNING FROM A TRAP at the region entry (R294 `tresume`; R336 step 2): the region-entry frontier state comes back (R55),
retired passes count from the region entry again, result FIFOs are empty (R180). Registers are not restored. A join deadline
stays only with the hold it belongs to (R65, R87). -/
def Team.reenter (t : Team) : Team :=
  { t with status := .running, trap := none, late := none, clause := none, hold := .none, stall := 0
           pc := t.regionVA, fr := t.region, passes := 0, fryldTurn := false
           joinDeadline := if t.region.joinVA.isSome && t.region.joinVA == t.fr.joinVA then t.joinDeadline else none
           results := [], handle := 0, ctlWord := none }

/-! ## Frontier groups (R51 to R54, R65) -/

/-- The distinct wait-PCs of waiting lanes not held by a join. -/
def Team.waitPCs (t : Team) : List VA :=
  (t.lanes.filterMap (fun l => match t.fr.lane l with | .waiting pc => some pc | _ => none)).eraseDups

/-- The least address of a list. -/
def leastVA : List VA → Option VA
  | [] => none
  | v :: vs => match leastVA vs with
    | some m => some (if v.ult m then v else m)
    | none => some v

/-- The lanes waiting at a wait-PC become active; any switch resets the quantum count (R54). -/
def Team.switchTo (t : Team) (pc : VA) : Team :=
  let ls := t.lanes.filter (fun l => t.fr.lane l == LaneSt.waiting pc)
  { t with pc := pc, fr := { (t.fr.setLanes ls .active) with quantum := 0 } }

/-- The active lanes wait at a VA. -/
def Team.parkActive (t : Team) (pc : VA) : Team := { t with fr := t.fr.setLanes t.activeLanes (.waiting pc) }

/-- The group a rotation from n goes to: the lowest wait-PC above n, else the lowest (R53, R54). -/
def rotateTarget (n : VA) (pcs : List VA) : Option VA :=
  match leastVA (pcs.filter (fun p => n.ult p)) with
  | some p => some p
  | none => leastVA pcs

/-- Every lane that has not exited is held by a join (R53, R65). -/
def Team.allHeld (t : Team) : Bool :=
  t.lanes.all (fun l => match t.fr.lane l with | .held _ => true | .exited => true | _ => false)

def Team.allExited (t : Team) : Bool := t.lanes.all (fun l => t.fr.lane l == LaneSt.exited)

/-- A join whose every lane that has not exited is held completes: the held lanes become active at the fall-through, and the
join and its deadline are gone (R65). The quantum count stays as it is: R54 resets it at a switch, and the spec does not say whether this
is one (DESIGN CHOICE, notes/assumptions/16.md). -/
def Team.joinComplete (t : Team) : Team :=
  if t.allHeld && !t.allExited then
    match t.lanes.filterMap (fun l => match t.fr.lane l with | .held pc => some pc | _ => none) with
    | pc :: _ =>
      let ls := t.lanes.filter (fun l => t.fr.lane l == LaneSt.held pc)
      { t with pc := pc, joinDeadline := none, fr := { (t.fr.setLanes ls .active) with joinVA := none } }
    | [] => t
  else t

/-- R53: with no active lane left the team switches before its next fetch; `none` when no lane can go on. -/
def Team.refill (t : Team) : Option Team :=
  if t.activeLanes.isEmpty then
    match (if t.fr.rotate then rotateTarget t.pc t.waitPCs else leastVA t.waitPCs) with
    | some pc => some (t.switchTo pc)
    | none => none
  else some t

/-- R52 steps 1 to 3 (the clause after `fryld` skips step 2, R64), made each time the team is about to fetch the header at its PC. -/
def Team.reconverge (t : Team) : Team :=
  let n := t.pc
  let t1 := { t with fr := t.fr.setLanes (t.lanes.filter (fun l => t.fr.lane l == LaneSt.waiting n)) .active }
  if t1.fr.rotate then
    if 64 ≤ t1.fr.quantum then
      match rotateTarget n t1.waitPCs with
      | some m => (t1.parkActive n).switchTo m
      | none => t1
    else t1
  else if t.fryldTurn then t1
  else
    match leastVA t1.waitPCs with
    | some m => if m.ult n then (t1.parkActive n).switchTo m else t1
    | none => t1

/-! ## Moving past a word (R56) -/

/-- The VA of word idx of a clause. -/
def Clause.wordVA (c : Clause) (idx : Nat) : VA := c.hdrVA + BitVec.ofNat 64 (4 * (1 + idx))

/-- The fall-through of a clause (R51). -/
def Clause.fallThrough (c : Clause) : VA := c.hdrVA + BitVec.ofNat 64 (4 * (1 + c.words.length))

/-- Count a loop down: the new counter and whether it goes on. -/
def LoopC.step (l : LoopC) : LoopC × Bool :=
  let n := l.count - 1
  if n = 0 then ({ l with count := n, active := false }, false) else ({ l with count := n }, true)

/-- The loop-end test of R56 on a word whose VAs (word and literal) satisfy `here`: the frontier after it and, when a loop goes
on, its start. -/
def Frontier.loopTest (f : Frontier) (here : VA → Bool) : Frontier × Option VA :=
  let m0 := f.l0.active && here f.l0.stop
  let m1 := f.l1.active && here f.l1.stop
  if m0 && m1 then
    if f.inner1 then
      let (i, go) := f.l1.step
      if go then ({ f with l1 := i }, some i.start)
      else
        let (o, go') := f.l0.step
        ({ f with l1 := i, l0 := o }, if go' then some o.start else none)
    else
      let (i, go) := f.l0.step
      if go then ({ f with l0 := i }, some i.start)
      else
        let (o, go') := f.l1.step
        ({ f with l0 := i, l1 := o }, if go' then some o.start else none)
  else if m0 then
    let (i, go) := f.l0.step
    let l1 := if f.l1.active && f.inner1 then { f.l1 with active := false } else f.l1
    ({ f with l0 := i, l1 := l1, inner1 := false }, if go then some i.start else none)
  else if m1 then
    let (i, go) := f.l1.step
    let l0 := if f.l0.active && !f.inner1 then { f.l0 with active := false } else f.l0
    ({ f with l1 := i, l0 := l0, inner1 := f.inner1 || (f.l0.active && !f.inner1) }, if go then some i.start else none)
  else (f, none)

/-- The port of a clause: A for lane-class clauses, B for all others (R49). -/
def Clause.onB (c : Clause) : Bool := fld c.hdr 4 3 != 0

/-- The port of the clause a team is in. -/
def Team.onB (t : Team) : Bool := match t.clause with | some c => c.onB | none => false

/-- What Y leaves when a clause has closed: the port that yields (R25). -/
def Team.yield (t : Team) : Option Bool :=
  match t.clause with
  | some c => if c.hdr.getLsbD 13 then some c.onB else none
  | none => none

/-- Leave the clause with no lane active: the PC stays where it was (R53). -/
def Team.close (t : Team) : Team := { t with clause := none, yielded := t.yield }

/-- Close the clause and go on at a header VA. -/
def Team.goTo (t : Team) (pc : VA) : Team := { t with pc := pc, clause := none, yielded := t.yield }

/-- The loop-end test of the word of n words at which the team stands: the team after it and, when a loop goes on, its start (R56). -/
def Team.endTest (t : Team) (n : Nat) : Team × Option VA :=
  match t.clause with
  | none => (t, none)
  | some c =>
    let va := c.wordVA c.idx
    let r := t.fr.loopTest (fun x => x == va || (n == 2 && x == va + 4))
    ({ t with fr := r.1 }, r.2)

/-- Go on past a word of n words: at a loop's start, at the next word of the clause or at the fall-through (R28, R56). -/
def Team.onward (t : Team) (n : Nat) (go : Option VA) : Team :=
  match go, t.clause with
  | _, none => t
  | some start, some _ => t.goTo start
  | none, some c =>
    if c.idx + n < c.words.length then
      { t with clause := some { c with idx := c.idx + n, issuedTo := 0, opId := 0, flags := 0, waited := 0 } }
    else t.goTo c.fallThrough

/-- Move past a word of n words: the loop-end test, then on. -/
def Team.advance (t : Team) (n : Nat) : Team := (t.endTest n).1.onward n (t.endTest n).2

/-! ## Accesses under way -/

/-- Put a landing on its way. -/
def State.addLanding (s : State) (op team : Nat) (writes : List (Owed × UnitVal)) (holder : Option (BitVec 8) := none) : State :=
  let (id, s) := s.fresh
  { s with lands := s.lands ++ [{ id := id, op := op, team := team, writes := writes, holder := holder }] }

/-- The generations that outstanding producers of a unit carry (R133): accesses and engines under way, and entries. -/
def State.carried (s : State) (uid : Nat) (t : Team) (r : UnitRef) : List (BitVec 4) :=
  (s.ops.filter (fun o => o.team == uid)).flatMap (fun o => (o.owed.filter (fun w => w.unit == r)).map Owed.gen)
  ++ t.fifo.flatMap (fun e => (e.dests.filter (fun w => w.unit == r)).map Owed.gen)

/-- How far the word at which a team stands has come with its waits. -/
def Team.waited (t : Team) : Nat := match t.clause with | some c => c.waited | none => 0

def State.noteWait (s : State) (uid n : Nat) : State :=
  s.modTeam uid (fun t => { t with clause := t.clause.map (fun c => { c with waited := n }) })

/-- The team's outstanding instructions. -/
def State.opsOf (s : State) (uid : Nat) : List OpRec := s.ops.filter (fun o => o.team == uid)

/-! ## Delivery to residual entries (R134) -/

/-- Give a value to a slot that awaits the unit at a generation. -/
def Slot.fill (x : Slot) (o : Owed) (v : UnitVal) : Slot :=
  if x.got.isNone && x.unit == o.unit && x.want == o.gen then { x with got := some v } else x

/-- Deliver a value by generation to every entry of a team (R134). -/
def Team.deliver (t : Team) (o : Owed) (v : UnitVal) : Team :=
  { t with fifo := t.fifo.map (fun e => { e with slots := e.slots.map (fun x => x.fill o v)
                                                 base := e.base.map (fun x => x.fill o v) }) }

/-! ## The course of a word -/

/-- What an instruction sees when it executes: its team, acting lanes, rounding mode (R96), the values of its operands, the
generation its later writes carry, its clause and W field, and whether a residual entry runs it. Where its passes issue one by one (R49),
`mask` is this pass's, `rest` adds the passes still to come, and `opId` is the outstanding instruction that earlier passes began. -/
structure Env where
  uid : Nat
  mask : Mask
  rest : Mask
  opId : Nat := 0
  rm : BitVec 2
  rd : UnitRef → UnitVal
  gen : UnitRef → BitVec 4
  hdrVA : VA
  w : BitVec 3
  byEntry : Bool

/-- What an instruction did: the state with its effects outside registers and flow, the units it wrote, those it will write
later, the floating-point flags it raised, whether it has moved the team itself, and the outstanding instruction its later passes go on
with. -/
structure Effect where
  s : State
  writes : List (UnitRef × UnitVal) := []
  owes : List UnitRef := []
  flags : BitVec 5 := 0
  moved : Bool := false
  opId : Nat := 0

/-- How an instruction's execution ends. -/
inductive Done where
  | trap (t : Trap)
  /-- a trap that leaves something changed (R271: a void arrival then counts as waited for) -/
  | fail (s : State) (t : Trap)
  /-- it cannot issue yet: the stall reason of R330 -/
  | wait (reason : Nat) (s : State)
  | ok (e : Effect)

/-- How deferring mode handles an instruction (R132). -/
inductive Handling where
  /-- captured on a pending operand or a chain -/
  | capture
  /-- parks on a pending operand -/
  | park
  /-- waits until the FIFO is empty, then as in normal mode -/
  | drain
  /-- never waits for registers -/
  | free
  deriving DecidableEq, Repr

/-- A source operand: its units and the lane-words it takes in an entry (R131). The global base pair takes none. -/
structure Src where
  units : List UnitRef
  words : Nat
  isBase : Bool := false

/-- Everything an instruction's entry says about it, in the order the core asks. -/
structure Plan where
  /-- a whole-team instruction (R25) -/
  whole : Bool := false
  /-- ignores the guard (R25) -/
  noGuard : Bool := false
  /-- the encoding check it fails (R29 step 6) -/
  ill : Option IllFormed := none
  /-- a place in its clause that the instruction must have (R65) -/
  place : Team → Option Trap := fun _ => none
  /-- needs a unit that is absent (R3) -/
  absent : State → Bool := fun _ => false
  /-- operand checks that need no operand value (R29 step 7, R74) -/
  regs : Team → Mask → Option Trap := fun _ _ => none
  /-- registers whose pending bit parks the team with reason 2 in both modes (R81) -/
  hold : Team → List UnitRef := fun _ => []
  /-- a privilege its crew must have (R293, R310, R332) -/
  priv : Crew → Option Trap := fun _ => none
  srcs : Team → Mask → List Src := fun _ _ => []
  dsts : Team → Mask → List UnitRef := fun _ _ => []
  /-- old values of units written in part (R358) -/
  part : Team → Mask → List Src := fun _ _ => []
  /-- the pending destinations that normal mode waits for (R78) -/
  dstWait : State → Team → Mask → List UnitRef := fun _ t m => dsts t m
  /-- a further ground for capture (R135) -/
  behind : Team → Mask → Bool := fun _ _ => false
  how : Handling := .capture
  /-- the stall reason of a pending operand in normal mode -/
  reason : Nat := 21
  /-- the wait counter it names (R26) -/
  w : BitVec 3 := 7
  /-- `lim`: two words (R28) -/
  two : Bool := false
  /-- its passes issue one by one, since others may act between them (R49): on the scratchpad, the tag table and the array queue -/
  byPass : Bool := false
  act : Env → State → Done

/-- A uniform pair must be even. -/
def evenU (r : BitVec 7) : Option Trap := if r.toNat % 2 = 1 then some .illegalOperand else none

/-- A word belongs to the memory chain (R138). -/
def memChain (w : Word) : Bool :=
  let op := opcodeOf w
  (0x18 ≤ op && op ≤ 0x23) || op == 0x37 || op == 0x29 || (op == 0x2B && fnOf w ≤ 1)

/-- The queue registers an engine command names (R132, R138): `qfence` every queue of its fence; route instructions go through q9
(R216). -/
def queuesOf (w : Word) : List Nat :=
  let op := opcodeOf w
  let q := (fld w 18 4).toNat
  if op == 0x24 then [9]
  else if op == 0x26 && fnOf w == 3 then q :: ((List.range 7).filter (fun i => w.getLsbD i)).map (fun i => q + 1 + i)
  else if op == 0x27 || op == 0x3B || (op == 0x26 && fnOf w == 0) then [q]
  else []

/-- A chain of R138 joins a later word to a captured one. -/
def chains (earlier later : Word) : Bool :=
  ((memChain later || !(queuesOf later).isEmpty) && memChain earlier) || (queuesOf later).any (queuesOf earlier).contains

/-- Whether a chain of R138 requires that a word be captured. -/
def Team.chained (t : Team) (w : Word) : Bool := t.fifo.any (fun e => chains e.word w)

/-- Any unit of some operands is pending. -/
def Team.anyPend (t : Team) (xs : List Src) : Bool := xs.any (fun x => x.units.any t.pend)

/-- The slot that an operand unit takes in an entry: its value, or the generation it awaits (R130). -/
def Team.slotOf (t : Team) (operand : Nat) (r : UnitRef) : Slot :=
  { unit := r, want := t.gen r, got := if t.pend r then none else some (t.unit r), operand := operand }

/-- The lane-words in use in a team's FIFO (R131). -/
def Team.laneWords (t : Team) : Nat := t.fifo.foldl (fun n e => n + e.laneWords) 0

/-- Hold the team at the word with a stall reason (R330). -/
def State.stallTeam (s : State) (uid reason : Nat) : State := s.modTeam uid (fun t => if t.status = .running then { t with stall := reason } else t)

/-- A port has issued n passes: its count of port cycles (R50). -/
def CoreSt.counted (c : CoreSt) (onB : Bool) (n : Nat) : CoreSt :=
  if onB then { c with portB := c.portB + n } else { c with portA := c.portA + n }

/-- A port has issued n passes for the team (R50). A word that holds its team leaves the stall reason of the hold (R330). -/
def State.issued (s : State) (uid core : Nat) (onB : Bool) (n : Nat) : State :=
  let s := s.modCore core (fun c => c.counted onB n)
  let k := s.core core
  s.modTeam uid (fun t => { t with stall := if t.hold = .none then 0 else t.stall, lastA := k.portA, lastB := k.portB })

/-- The lowest code of the reasons that apply (R329). -/
def lowestReason (rs : List (Bool × Nat)) : Option Nat :=
  rs.foldl (fun best r => if !r.1 then best else match best with
    | some n => some (if r.2 < n then r.2 else n)
    | none => some r.2) none

/-- Count n retired passes (R137, R335). -/
def Team.countPasses (t : Team) (n : Nat) : Team :=
  { t with passes := t.passes + BitVec.ofNat 64 n, total := t.total + BitVec.ofNat 64 n }

/-- The passes left until an armed stop at (E, P) is reached in this region entry (R335). -/
def Team.stopRoom (t : Team) : Option Nat :=
  if t.stop.arm && !t.stop.redo && t.regionCount == t.stop.e && !t.stop.p.ult t.passes then some (t.stop.p.toNat - t.passes.toNat)
  else none

/-- Capture a word into the FIFO in place of its execution (R130, R131, R133, R137, R139). -/
def State.capture (s : State) (i : Instr) (p : Plan) (t : Team) (c : Clause) (m : Mask) (core : Nat) : State :=
  let uid := s.cur
  let srcs := p.srcs t m ++ p.part t m
  let need := srcs.foldl (fun n x => n + x.words) 0
  let dsts := (p.dsts t m).filter (fun r => !r.wired)
  if t.rN = 0 ∨ 64 * t.rN < need then s.takeTrap uid c.hdrVA { cause := 0x14 }
  else if t.rN < t.fifo.length + 1 ∨ 64 * t.rN < t.laneWords + need then
    if t.strict then s.takeTrap uid c.hdrVA { cause := 0x14 } else s.stallTeam uid 3
  else if dsts.any (fun r => (s.carried uid t r).contains (t.gen r + 1)) then s.stallTeam uid 2
  else
    let ws := encode i
    let e : Entry :=
      { word := ws.headD 0, lit := ws.getD 1 0, instr := i, va := c.wordVA c.idx, hdrVA := c.hdrVA, hdr := c.hdr
        rm := t.rm, w := p.w, mask := m
        slots := (srcs.filter (fun x => !x.isBase)).zipIdx.flatMap (fun x => x.1.units.map (t.slotOf x.2))
        base := (srcs.filter (fun x => x.isBase)).flatMap (fun x => x.units.map (t.slotOf 0))
        dests := dsts.map (fun r => { unit := r, gen := t.gen r + 1 })
        laneWords := need }
    let t := { t with fifo := t.fifo ++ [e] }
    let n := if p.whole then 1 else (Mask.words m).length
    let t := ((t.oweAll dsts).incW p.w).countPasses n
    (s.setTeam uid (t.advance (if p.two then 2 else 1))).issued uid core c.onB n

/-- What a direct execution sees. -/
def Env.ofTeam (uid : Nat) (t : Team) (c : Clause) (m rest : Mask) (w : BitVec 3) : Env :=
  { uid := uid, mask := m, rest := rest, opId := c.opId, rm := t.rm, rd := t.unit, gen := fun r => t.gen r + 1, hdrVA := c.hdrVA, w := w
    byEntry := false }

/-- The clause when a word is cut off after the mask words m: how far the word has come, and the outstanding instruction it goes on with. -/
def Clause.cutAt (c : Clause) (m : Mask) (opId : Nat) : Clause :=
  { c with issuedTo := match (Mask.words m).getLast? with | some k => k + 1 | none => c.issuedTo, opId := opId }

/-- What follows a word's effect: when the word is through, its flags merge and the team moves past it (R99); with mask words of it still
to issue (`cut`: passes one by one, or a stop between them, R336) it keeps its place, its flags and how far it has come. -/
def Team.passed (t : Team) (p : Plan) (m : Mask) (cut : Bool) (flags : BitVec 5) (moved : Bool) (opId : Nat) : Team :=
  match t.clause with
  | none => { t with fpf := t.fpf ||| flags }
  | some c =>
    if cut then
      { t with clause := some { c.cutAt m opId with flags := c.flags ||| flags } }
    else
      let t := { t with fpf := t.fpf ||| c.flags ||| flags }
      if moved then t else t.advance (if p.two then 2 else 1)

/-- Execute a word directly over the mask words m of those not yet issued, `rest`; `cut` says that some are left for later. The first pass
raises the wait counter (R26). -/
def State.direct (s : State) (p : Plan) (t : Team) (k : Crew) (c : Clause) (m rest : Mask) (cut : Bool) : State :=
  let uid := s.cur
  match p.act (Env.ofTeam uid t c m rest p.w) (if c.opId = 0 then s.setTeam uid (t.incW p.w) else s) with
  | .trap tr => let tr := tr.atLane p.whole m; (s.violated uid tr).takeTrap uid c.hdrVA tr
  | .fail s' tr => (s'.modTeam uid (fun t' => { t' with waits := t.waits })).takeTrap uid c.hdrVA tr
  | .wait r s' => (s'.modTeam uid (fun t' => { t' with waits := t.waits })).stallTeam uid r
  | .ok e =>
    if (e.writes.map Prod.fst ++ e.owes).any (fun r => !r.wired && (s.carried uid t r).contains (t.gen r + 1)) then
      s.stallTeam uid 2
    else
      let n := if p.whole then 1 else (Mask.words m).length
      let s := e.s.modTeam uid (fun t =>
        (((t.writeAll e.writes).oweAll e.owes).countPasses n).passed p m cut e.flags e.moved e.opId)
      s.issued uid k.coreKey c.onB n

/-- The mask words of a word that are still to issue. -/
def Mask.from (m : Mask) (n : Nat) : Mask := (List.range m.length).map (fun k => if n ≤ k then m.getD k 0 else 0)

/-- How many of the mask words still to issue this turn takes: one where the passes issue one by one, no more than an armed stop leaves
(R335), else all. -/
def Plan.turns (p : Plan) (room : Option Nat) (rest : Mask) : Nat :=
  let n := if p.whole then 1 else if p.byPass then 1 else (Mask.words rest).length
  match room with
  | some r => if r < n then r else n
  | none => n

/-- The reasons that keep a word from issuing, besides those it finds itself (R330): its wait counter full (R26), a register that parks it
(R81), the FIFO to drain (R132), pending operands and destinations (R78). -/
def Plan.reasons (p : Plan) (s : State) (t : Team) (c : Clause) (m : Mask) (deferring : Bool) : List (Bool × Nat) :=
  let waits := p.how != .free && !(p.how == .capture && deferring)
  [(c.opId = 0 && t.fullW p.w, 1), ((p.hold t).any t.pend, 2), (p.how == .drain && deferring && !t.fifo.isEmpty, 11),
   (waits && t.anyPend (p.srcs t m), p.reason),
   (waits && !(p.how == .park && deferring) && (p.dstWait s t m).any t.pend, if p.how == .capture then p.reason else 21)]

/-- A word in deferring mode is captured in place of its execution: a pending operand, or a chain (R130, R135, R138). -/
def Plan.captures (p : Plan) (i : Instr) (t : Team) (c : Clause) (m : Mask) : Bool :=
  c.issuedTo = 0 && (t.anyPend (p.srcs t m) || t.anyPend (p.part t m) || p.behind t m || t.chained ((encode i).headD 0))

/-- The course of one word of the open clause of the team whose turn it is: a trap reported late (R223), a unit absent (R3), the
encoding (R29 step 6), no acting lane (R48), operand checks (R29 step 7), waits or capture (R78, R130, R132), the effect. A unit absent
comes before a failing encoding check, as R325 orders them for `net.*`; for the other words of R3 the spec gives no order (DESIGN CHOICE,
notes/assumptions/3.md). The operand checks are made for acting lanes, so with none of them they are not (DESIGN CHOICE, R48,
notes/assumptions/3.md). -/
def State.issueWord (s : State) (i : Option Instr) (p : Plan) : State :=
  match s.current with
  | none => s
  | some (t, k) =>
    match t.clause with
    | none => s
    | some c =>
      if t.status ≠ .running ∨ t.hold ≠ .none ∨ c.issued = false then s
      else
        let uid := s.cur
        match t.late with
        | some info => s.suspend uid info
        | none =>
          if t.stopRoom = some 0 then s.stallTeam uid 11
          else if t.stop.mode && !(s.opsOf uid).isEmpty then s.stallTeam uid 21
          else if p.absent s then s.takeTrap uid c.hdrVA .unitAbsent
          else if p.ill.isSome then s.takeTrap uid c.hdrVA .illegalInstruction
          else match p.place t with
          | some tr => s.takeTrap uid c.hdrVA tr
          | none =>
            let full := if p.noGuard then t.active else t.active.inter c.guard
            if full.none then (s.modTeam uid (fun t => t.advance (if p.two then 2 else 1))).issued uid k.coreKey c.onB 1
            else
              let rest := if p.whole then full else Mask.from full c.issuedTo
              let n := p.turns t.stopRoom rest
              let cut := !p.whole && decide (n < (Mask.words rest).length)
              let m := if cut then Mask.first rest n else rest
              match (match p.regs t rest with | some tr => some (tr.atLane p.whole rest) | none => p.priv k) with
              | some tr => s.takeTrap uid c.hdrVA tr
              | none =>
                let deferring := c.deferring && !t.stop.mode
                match lowestReason (p.reasons s t c m deferring) with
                | some r => s.stallTeam uid r
                | none =>
                  match (if p.how = .capture ∧ deferring = true then i else none) with
                  | some i => if p.captures i t c m then s.capture i p t c m k.coreKey else s.direct p t k c m rest cut
                  | none => s.direct p t k c m rest cut

/-- An instruction word as a step: its course always ends in a next state. The instruction itself is what a capture keeps. -/
def issue (i : Instr) (p : Plan) (s : State) : Answered := .next (s.issueWord (some i) p)

/-- An instruction that is never captured (R132). -/
def issuePlain (p : Plan) (s : State) : Answered := .next (s.issueWord none p)

end Sys2Proof.Machine
end

