-- ==== Sys2Proof/Machine/Lane.lean ====
section
/-! DEFINITION. Lane-class integer, move, compare, predicate, selection and uniform instructions (spec/06; spec/04 R81, R82;
spec/03 R67). Each has a plan, which a residual entry runs too, and a meaning. -/

namespace Sys2Proof.Machine

/-! ## Operands -/

/-- A vector operand over the acting lanes (R131). -/
def vSrc (r : Nat) (m : Mask) : Src := { units := (Mask.lanes m).map (UnitRef.vec r), words := 32 * (Mask.words m).length }

/-- A uniform operand (R131). -/
def uSrc (r : Nat) : Src := { units := [.uni r], words := 1 }

/-- The second operand of format V: vector, or uniform when U = 1 (R32). -/
def bSrc (r : Nat) (u : BitVec 1) (m : Mask) : Src := if u = 1 then uSrc r else vSrc r m

/-- A predicate operand over the executed words (R131). -/
def pSrc (r : Nat) (m : Mask) : Src := { units := (Mask.words m).map (UnitRef.pred r), words := (Mask.words m).length }

/-- The acting lanes of a vector register. -/
def vDst (r : Nat) (m : Mask) : List UnitRef := (Mask.lanes m).map (UnitRef.vec r)

/-- Vector registers within the allotment (R74). -/
def checkV (rs : List Nat) (t : Team) (_ : Mask) : Option Trap :=
  if rs.all (fun r => decide (r < t.vN)) then none else some .illegalOperand

/-- Lane L's value of a vector register. -/
def Env.v (e : Env) (r lane : Nat) : Val := (e.rd (.vec r lane)).val

/-- A uniform register's value. -/
def Env.u (e : Env) (r : Nat) : Val := (e.rd (.uni r)).val

/-- `Opnd(x, L)` of R6. -/
def Env.opnd (e : Env) (r : Nat) (u : BitVec 1) (lane : Nat) : Val := if u = 1 then e.u r else e.v r lane

/-- Lane L's bit of a predicate: value and poison. -/
def Env.p (e : Env) (r lane : Nat) : Bool × Bool :=
  let w := (e.rd (.pred r (lane / 32))).preds
  (w.1.getLsbD (lane % 32), w.2.getLsbD (lane % 32))

/-- The registers that a form with a second operand names as vectors. -/
def vregs (d a b : Nat) (u : BitVec 1) : List Nat := if u = 1 then [d, a] else [d, a, b]

/-! ## Shapes -/

/-- One result word per acting lane from the lane's source words; any poisoned source gives poison and no flag (R106). -/
def laneFn (xs : List Val) (f : List Word → Word × Flags) : Val × Flags :=
  if xs.any Val.isPoison then (.poison, 0)
  else let r := f (xs.map Val.bits); (.word r.1, r.2)

/-- An instruction that computes vd per lane from vector a and, where it has one, operand b, and the old vd where it reads it. -/
def lanePlan (d a : Nat) (b : Option (Nat × BitVec 1)) (readD : Bool) (f : BitVec 2 → List Word → Word × Flags) : Plan where
  regs := checkV (match b with | some (b, u) => vregs d a b u | none => [d, a])
  srcs := fun _ m => [vSrc a m] ++ (match b with | some (b, u) => [bSrc b u m] | none => []) ++ (if readD then [vSrc d m] else [])
  dsts := fun _ m => vDst d m
  act := fun e s =>
    let rs := (Mask.lanes e.mask).map (fun l =>
      let xs := [e.v a l] ++ (match b with | some (b, u) => [e.opnd b u l] | none => []) ++ (if readD then [e.v d l] else [])
      (l, laneFn xs (f e.rm)))
    .ok { s := s, writes := rs.map (fun r => (.vec d r.1, .w r.2.1)), flags := Flags.all (rs.map (fun r => r.2.2)) }

/-- vd ← f(a, b), no flag. -/
def laneBin (d a b : BitVec 7) (u : BitVec 1) (f : Word → Word → Word) : Plan :=
  lanePlan d.toNat a.toNat (some (b.toNat, u)) false (fun _ xs => (f (xs.getD 0 0) (xs.getD 1 0), 0))

/-- vd ← f(a), no flag. -/
def laneUn (d a : BitVec 7) (f : Word → Word) : Plan :=
  lanePlan d.toNat a.toNat none false (fun _ xs => (f (xs.getD 0 0), 0))

/-- vd ← f(a, b, old vd), no flag. -/
def laneTri (d a b : BitVec 7) (u : BitVec 1) (f : Word → Word → Word → Word) : Plan :=
  lanePlan d.toNat a.toNat (some (b.toNat, u)) true (fun _ xs => (f (xs.getD 0 0) (xs.getD 1 0) (xs.getD 2 0), 0))

/-- sD ← f(sA, sB): whole team; poison of either gives poison (R127). -/
def uniBin (d a b : BitVec 7) (f : Word → Word → Word) : Plan where
  whole := true
  srcs := fun _ _ => [uSrc a.toNat, uSrc b.toNat]
  dsts := fun _ _ => [.uni d.toNat]
  act := fun e s => .ok { s := s, writes := [(.uni d.toNat, .w (Val.map2 f (e.u a.toNat) (e.u b.toNat)))] }

/-- sD ← f(sA): whole team (R127). -/
def uniUn (d a : BitVec 7) (f : Word → Word) : Plan where
  whole := true
  srcs := fun _ _ => [uSrc a.toNat]
  dsts := fun _ _ => [.uni d.toNat]
  act := fun e s => .ok { s := s, writes := [(.uni d.toNat, .w (Val.map f (e.u a.toNat)))] }

/-- pd per lane (R123, R125): the new value and poison of the acting lanes, merged into the old word. `readOld` says that the
form itself reads the old pd (CB ≠ 0). -/
def predPlan (pd : Nat) (regs : Team → Mask → Option Trap) (srcs : Mask → List Src) (readOld : Bool)
    (f : Env → Nat → Bool × Bool → Bool × Bool × Flags) : Plan where
  regs := fun t m => match regs t m with
    | some tr => some tr
    | none => if pd = 0 then some .illegalOperand else none
  srcs := fun _ m => srcs m ++ (if readOld then [pSrc pd m] else [])
  part := fun _ m =>
    if readOld then [] else
    let ks := (Mask.words m).filter (fun k => m.getD k 0 != 0xFFFFFFFF)
    if ks.isEmpty then [] else [{ units := ks.map (UnitRef.pred pd), words := ks.length }]
  dsts := fun _ m => (Mask.words m).map (UnitRef.pred pd)
  act := fun e s =>
    let ws := (Mask.words e.mask).map (fun k =>
      let old := (e.rd (.pred pd k)).preds
      let am := e.mask.getD k 0
      let r := fun j => f e (32 * k + j) (old.1.getLsbD j, old.2.getLsbD j)
      let bits := maskWord (fun j => if am.getLsbD j then (r j).1 else old.1.getLsbD j)
      let pois := maskWord (fun j => if am.getLsbD j then (r j).2.1 else old.2.getLsbD j)
      let fl := Flags.all (((List.range 32).filter (fun j => am.getLsbD j)).map (fun j => (r j).2.2))
      ((UnitRef.pred pd k, UnitVal.p bits pois), fl))
    .ok { s := s, writes := ws.map Prod.fst, flags := Flags.all (ws.map Prod.snd) }

/-- A compare (R123): operands a and b|sB, the combine code, a condition that may raise NV. A poisoned lane raises no flag (R98). -/
def cmpPlan (pd : BitVec 3) (a b : BitVec 7) (u : BitVec 1) (cb : BitVec 2) (f : Word → Word → Bool × Flags) : Plan :=
  predPlan pd.toNat (checkV (if u = 1 then [a.toNat] else [a.toNat, b.toNat]))
    (fun m => [vSrc a.toNat m, bSrc b.toNat u m]) (cb != 0)
    (fun e l old =>
      let x := e.v a.toNat l
      let y := e.opnd b.toNat u l
      if x.isPoison || y.isPoison || (cb != 0 && old.2) then (false, true, 0)
      else
        let (c, fl) := f x.bits y.bits
        (combine cb old.1 c, false, fl))

/-- An integer compare. -/
def icmp (pd : BitVec 3) (a b : BitVec 7) (u : BitVec 1) (cb : BitVec 2) (c : Cond) : Plan :=
  cmpPlan pd a b u cb (fun x y => (c.holds x y, 0))

/-- A predicate operation (R125) of one or two source predicates. -/
def predOp (pd pa : BitVec 3) (pb : Option (BitVec 3)) (f : Bool → Bool → Bool) : Plan :=
  predPlan pd.toNat (fun _ _ => none)
    (fun m => [pSrc pa.toNat m] ++ (match pb with | some q => [pSrc q.toNat m] | none => [])) false
    (fun e l _ =>
      let x := e.p pa.toNat l
      let y := match pb with | some q => e.p q.toNat l | none => (false, false)
      if x.2 || y.2 then (false, true, 0) else (f x.1 y.1, false, 0))

/-! ## Integer helpers -/

/-- Clamp (`Sat` of R6) and write as a word. -/
def satWord (n lo hi : Int) : Word := BitVec.ofInt 32 (if n < lo then lo else if hi < n then hi else n)

/-- `Sh(x)` of R110. -/
def shAmt (b : Word) : Nat := b.toNat % 32

def popCount (a : Word) : Word := BitVec.ofNat 32 ((List.range 32).filter (fun i => a.getLsbD i)).length

def leadZeros (a : Word) : Word := BitVec.ofNat 32 (32 - bitLen a.toNat)

def bitReverse (a : Word) : Word := maskWord (fun j => a.getLsbD (31 - j))

/-- An imm12, sign-extended (R113). -/
def imm32 (i : BitVec 12) : Word := i.signExtend 32

def sMin (a b : Word) : Word := if a.slt b then a else b
def sMax (a b : Word) : Word := if a.slt b then b else a
def uMin (a b : Word) : Word := if a.ult b then a else b
def uMax (a b : Word) : Word := if a.ult b then b else a

def boolWord (b : Bool) : Word := if b then 1 else 0

/-! ## IALU and IALU2 (R111, R112) -/

/-- `ADD` (R111). Adds two words per lane, modulo 2^32. -/
def planAdd (d : BitVec 7) (a : BitVec 7) (b : BitVec 7) (u : BitVec 1) : Plan :=
  laneBin d a b u (fun x y => x + y)

def execAdd (d : BitVec 7) (a : BitVec 7) (b : BitVec 7) (u : BitVec 1) (s : State) : Answered := issue (.add d a b u) (planAdd d a b u) s

/-- `SUB` (R111). Subtracts per lane, modulo 2^32. -/
def planSub (d : BitVec 7) (a : BitVec 7) (b : BitVec 7) (u : BitVec 1) : Plan :=
  laneBin d a b u (fun x y => x - y)

def execSub (d : BitVec 7) (a : BitVec 7) (b : BitVec 7) (u : BitVec 1) (s : State) : Answered := issue (.sub d a b u) (planSub d a b u) s

/-- `MULLO` (R111). Writes the low word of the product per lane. -/
def planMullo (d : BitVec 7) (a : BitVec 7) (b : BitVec 7) (u : BitVec 1) : Plan :=
  laneBin d a b u (fun x y => x * y)

def execMullo (d : BitVec 7) (a : BitVec 7) (b : BitVec 7) (u : BitVec 1) (s : State) : Answered := issue (.mullo d a b u) (planMullo d a b u) s

/-- `MULHI` (R111). Writes the high word of the signed product per lane. -/
def planMulhi (d : BitVec 7) (a : BitVec 7) (b : BitVec 7) (u : BitVec 1) : Plan :=
  laneBin d a b u (fun x y => BitVec.ofInt 32 (x.toInt * y.toInt / 2 ^ 32))

def execMulhi (d : BitVec 7) (a : BitVec 7) (b : BitVec 7) (u : BitVec 1) (s : State) : Answered := issue (.mulhi d a b u) (planMulhi d a b u) s

/-- `MULHU` (R111). Writes the high word of the unsigned product per lane. -/
def planMulhu (d : BitVec 7) (a : BitVec 7) (b : BitVec 7) (u : BitVec 1) : Plan :=
  laneBin d a b u (fun x y => BitVec.ofNat 32 (x.toNat * y.toNat / 2 ^ 32))

def execMulhu (d : BitVec 7) (a : BitVec 7) (b : BitVec 7) (u : BitVec 1) (s : State) : Answered := issue (.mulhu d a b u) (planMulhu d a b u) s

/-- `AND` (R111). Writes the bitwise AND per lane. -/
def planAnd (d : BitVec 7) (a : BitVec 7) (b : BitVec 7) (u : BitVec 1) : Plan :=
  laneBin d a b u (fun x y => x &&& y)

def execAnd (d : BitVec 7) (a : BitVec 7) (b : BitVec 7) (u : BitVec 1) (s : State) : Answered := issue (.and d a b u) (planAnd d a b u) s

/-- `OR` (R111). Writes the bitwise OR per lane. -/
def planOr (d : BitVec 7) (a : BitVec 7) (b : BitVec 7) (u : BitVec 1) : Plan :=
  laneBin d a b u (fun x y => x ||| y)

def execOr (d : BitVec 7) (a : BitVec 7) (b : BitVec 7) (u : BitVec 1) (s : State) : Answered := issue (.or d a b u) (planOr d a b u) s

/-- `XOR` (R111). Writes the bitwise XOR per lane. -/
def planXor (d : BitVec 7) (a : BitVec 7) (b : BitVec 7) (u : BitVec 1) : Plan :=
  laneBin d a b u (fun x y => x ^^^ y)

def execXor (d : BitVec 7) (a : BitVec 7) (b : BitVec 7) (u : BitVec 1) (s : State) : Answered := issue (.xor d a b u) (planXor d a b u) s

/-- `ANDN` (R111). Writes a AND NOT b per lane. -/
def planAndn (d : BitVec 7) (a : BitVec 7) (b : BitVec 7) (u : BitVec 1) : Plan :=
  laneBin d a b u (fun x y => x &&& ~~~y)

def execAndn (d : BitVec 7) (a : BitVec 7) (b : BitVec 7) (u : BitVec 1) (s : State) : Answered := issue (.andn d a b u) (planAndn d a b u) s

/-- `SHL` (R111). Shifts left by the low five bits of b per lane. -/
def planShl (d : BitVec 7) (a : BitVec 7) (b : BitVec 7) (u : BitVec 1) : Plan :=
  laneBin d a b u (fun x y => x <<< shAmt y)

def execShl (d : BitVec 7) (a : BitVec 7) (b : BitVec 7) (u : BitVec 1) (s : State) : Answered := issue (.shl d a b u) (planShl d a b u) s

/-- `SHR` (R111). Shifts right logically per lane. -/
def planShr (d : BitVec 7) (a : BitVec 7) (b : BitVec 7) (u : BitVec 1) : Plan :=
  laneBin d a b u (fun x y => x >>> shAmt y)

def execShr (d : BitVec 7) (a : BitVec 7) (b : BitVec 7) (u : BitVec 1) (s : State) : Answered := issue (.shr d a b u) (planShr d a b u) s

/-- `SRA` (R111). Shifts right arithmetically per lane. -/
def planSra (d : BitVec 7) (a : BitVec 7) (b : BitVec 7) (u : BitVec 1) : Plan :=
  laneBin d a b u (fun x y => x.sshiftRight (shAmt y))

def execSra (d : BitVec 7) (a : BitVec 7) (b : BitVec 7) (u : BitVec 1) (s : State) : Answered := issue (.sra d a b u) (planSra d a b u) s

/-- `MIN` (R111). Writes the signed minimum per lane. -/
def planMin (d : BitVec 7) (a : BitVec 7) (b : BitVec 7) (u : BitVec 1) : Plan :=
  laneBin d a b u (fun x y => sMin x y)

def execMin (d : BitVec 7) (a : BitVec 7) (b : BitVec 7) (u : BitVec 1) (s : State) : Answered := issue (.min d a b u) (planMin d a b u) s

/-- `MAX` (R111). Writes the signed maximum per lane. -/
def planMax (d : BitVec 7) (a : BitVec 7) (b : BitVec 7) (u : BitVec 1) : Plan :=
  laneBin d a b u (fun x y => sMax x y)

def execMax (d : BitVec 7) (a : BitVec 7) (b : BitVec 7) (u : BitVec 1) (s : State) : Answered := issue (.max d a b u) (planMax d a b u) s

/-- `MINU` (R111). Writes the unsigned minimum per lane. -/
def planMinu (d : BitVec 7) (a : BitVec 7) (b : BitVec 7) (u : BitVec 1) : Plan :=
  laneBin d a b u (fun x y => uMin x y)

def execMinu (d : BitVec 7) (a : BitVec 7) (b : BitVec 7) (u : BitVec 1) (s : State) : Answered := issue (.minu d a b u) (planMinu d a b u) s

/-- `MAXU` (R111). Writes the unsigned maximum per lane. -/
def planMaxu (d : BitVec 7) (a : BitVec 7) (b : BitVec 7) (u : BitVec 1) : Plan :=
  laneBin d a b u (fun x y => uMax x y)

def execMaxu (d : BitVec 7) (a : BitVec 7) (b : BitVec 7) (u : BitVec 1) (s : State) : Answered := issue (.maxu d a b u) (planMaxu d a b u) s

/-- `ADDS` (R112). Adds with signed saturation per lane. -/
def planAdds (d : BitVec 7) (a : BitVec 7) (b : BitVec 7) (u : BitVec 1) : Plan :=
  laneBin d a b u (fun x y => satWord (x.toInt + y.toInt) (-2 ^ 31) (2 ^ 31 - 1))

def execAdds (d : BitVec 7) (a : BitVec 7) (b : BitVec 7) (u : BitVec 1) (s : State) : Answered := issue (.adds d a b u) (planAdds d a b u) s

/-- `SUBS` (R112). Subtracts with signed saturation per lane. -/
def planSubs (d : BitVec 7) (a : BitVec 7) (b : BitVec 7) (u : BitVec 1) : Plan :=
  laneBin d a b u (fun x y => satWord (x.toInt - y.toInt) (-2 ^ 31) (2 ^ 31 - 1))

def execSubs (d : BitVec 7) (a : BitVec 7) (b : BitVec 7) (u : BitVec 1) (s : State) : Answered := issue (.subs d a b u) (planSubs d a b u) s

/-- `ADDUS` (R112). Adds with unsigned saturation per lane. -/
def planAddus (d : BitVec 7) (a : BitVec 7) (b : BitVec 7) (u : BitVec 1) : Plan :=
  laneBin d a b u (fun x y => satWord (x.toNat + y.toNat) 0 (2 ^ 32 - 1))

def execAddus (d : BitVec 7) (a : BitVec 7) (b : BitVec 7) (u : BitVec 1) (s : State) : Answered := issue (.addus d a b u) (planAddus d a b u) s

/-- `SUBUS` (R112). Subtracts with unsigned saturation per lane. -/
def planSubus (d : BitVec 7) (a : BitVec 7) (b : BitVec 7) (u : BitVec 1) : Plan :=
  laneBin d a b u (fun x y => satWord (x.toNat - y.toNat : Int) 0 (2 ^ 32 - 1))

def execSubus (d : BitVec 7) (a : BitVec 7) (b : BitVec 7) (u : BitVec 1) (s : State) : Answered := issue (.subus d a b u) (planSubus d a b u) s

/-- `ROTL` (R112). Rotates left per lane. -/
def planRotl (d : BitVec 7) (a : BitVec 7) (b : BitVec 7) (u : BitVec 1) : Plan :=
  laneBin d a b u (fun x y => x.rotateLeft (shAmt y))

def execRotl (d : BitVec 7) (a : BitVec 7) (b : BitVec 7) (u : BitVec 1) (s : State) : Answered := issue (.rotl d a b u) (planRotl d a b u) s

/-- `POPC` (R112). Counts the one bits per lane. -/
def planPopc (d : BitVec 7) (a : BitVec 7) : Plan :=
  laneUn d a popCount

def execPopc (d : BitVec 7) (a : BitVec 7) (s : State) : Answered := issue (.popc d a) (planPopc d a) s

/-- `CLZ` (R112). Counts the leading zeros per lane. -/
def planClz (d : BitVec 7) (a : BitVec 7) : Plan :=
  laneUn d a leadZeros

def execClz (d : BitVec 7) (a : BitVec 7) (s : State) : Answered := issue (.clz d a) (planClz d a) s

/-- `BREV` (R112). Reverses the bits per lane. -/
def planBrev (d : BitVec 7) (a : BitVec 7) : Plan :=
  laneUn d a bitReverse

def execBrev (d : BitVec 7) (a : BitVec 7) (s : State) : Answered := issue (.brev d a) (planBrev d a) s

/-- `ABSD` (R112). Writes the absolute signed difference per lane. -/
def planAbsd (d : BitVec 7) (a : BitVec 7) (b : BitVec 7) (u : BitVec 1) : Plan :=
  laneBin d a b u (fun x y => BitVec.ofNat 32 (x.toInt - y.toInt).natAbs)

def execAbsd (d : BitVec 7) (a : BitVec 7) (b : BitVec 7) (u : BitVec 1) (s : State) : Answered := issue (.absd d a b u) (planAbsd d a b u) s

/-- `AVGU` (R112). Writes the rounded-up unsigned average per lane. -/
def planAvgu (d : BitVec 7) (a : BitVec 7) (b : BitVec 7) (u : BitVec 1) : Plan :=
  laneBin d a b u (fun x y => BitVec.ofNat 32 ((x.toNat + y.toNat + 1) / 2))

def execAvgu (d : BitVec 7) (a : BitVec 7) (b : BitVec 7) (u : BitVec 1) (s : State) : Answered := issue (.avgu d a b u) (planAvgu d a b u) s

/-! ## Immediates and shifts (R113, R114) -/

/-- `ADDI` (R113). Adds a sign-extended 12-bit immediate per lane. -/
def planAddi (d : BitVec 7) (a : BitVec 7) (i : BitVec 12) : Plan :=
  laneUn d a (fun x => x + imm32 i)

def execAddi (d : BitVec 7) (a : BitVec 7) (i : BitVec 12) (s : State) : Answered := issue (.addi d a i) (planAddi d a i) s

/-- `ANDI` (R113). ANDs with a sign-extended immediate per lane. -/
def planAndi (d : BitVec 7) (a : BitVec 7) (i : BitVec 12) : Plan :=
  laneUn d a (fun x => x &&& imm32 i)

def execAndi (d : BitVec 7) (a : BitVec 7) (i : BitVec 12) (s : State) : Answered := issue (.andi d a i) (planAndi d a i) s

/-- `ORI` (R113). ORs with a sign-extended immediate per lane. -/
def planOri (d : BitVec 7) (a : BitVec 7) (i : BitVec 12) : Plan :=
  laneUn d a (fun x => x ||| imm32 i)

def execOri (d : BitVec 7) (a : BitVec 7) (i : BitVec 12) (s : State) : Answered := issue (.ori d a i) (planOri d a i) s

/-- `XORI` (R113). XORs with a sign-extended immediate per lane. -/
def planXori (d : BitVec 7) (a : BitVec 7) (i : BitVec 12) : Plan :=
  laneUn d a (fun x => x ^^^ imm32 i)

def execXori (d : BitVec 7) (a : BitVec 7) (i : BitVec 12) (s : State) : Answered := issue (.xori d a i) (planXori d a i) s

/-- `SHLI` (R114). Shifts left by an immediate amount per lane. -/
def planShli (d : BitVec 7) (a : BitVec 7) (n : BitVec 5) : Plan :=
  laneUn d a (fun x => x <<< n.toNat)

def execShli (d : BitVec 7) (a : BitVec 7) (n : BitVec 5) (s : State) : Answered := issue (.shli d a n) (planShli d a n) s

/-- `SHRI` (R114). Shifts right logically by an immediate amount per lane. -/
def planShri (d : BitVec 7) (a : BitVec 7) (n : BitVec 5) : Plan :=
  laneUn d a (fun x => x >>> n.toNat)

def execShri (d : BitVec 7) (a : BitVec 7) (n : BitVec 5) (s : State) : Answered := issue (.shri d a n) (planShri d a n) s

/-- `SRAI` (R114). Shifts right arithmetically by an immediate amount per lane. -/
def planSrai (d : BitVec 7) (a : BitVec 7) (n : BitVec 5) : Plan :=
  laneUn d a (fun x => x.sshiftRight n.toNat)

def execSrai (d : BitVec 7) (a : BitVec 7) (n : BitVec 5) (s : State) : Answered := issue (.srai d a n) (planSrai d a n) s

/-- `ROTLI` (R114). Rotates left by an immediate amount per lane. -/
def planRotli (d : BitVec 7) (a : BitVec 7) (n : BitVec 5) : Plan :=
  laneUn d a (fun x => x.rotateLeft n.toNat)

def execRotli (d : BitVec 7) (a : BitVec 7) (n : BitVec 5) (s : State) : Answered := issue (.rotli d a n) (planRotli d a n) s

/-! ## Compares and predicates (R123, R125) -/

/-- `CMP_EQ` (R123). Writes the equal test into a predicate, with an optional combine. -/
def planCmpEq (p : BitVec 3) (a : BitVec 7) (b : BitVec 7) (u : BitVec 1) (c : BitVec 2) : Plan :=
  icmp p a b u c .eq

def execCmpEq (p : BitVec 3) (a : BitVec 7) (b : BitVec 7) (u : BitVec 1) (c : BitVec 2) (s : State) : Answered := issue (.cmpEq p a b u c) (planCmpEq p a b u c) s

/-- `CMP_NE` (R123). Writes the not-equal test into a predicate. -/
def planCmpNe (p : BitVec 3) (a : BitVec 7) (b : BitVec 7) (u : BitVec 1) (c : BitVec 2) : Plan :=
  icmp p a b u c .ne

def execCmpNe (p : BitVec 3) (a : BitVec 7) (b : BitVec 7) (u : BitVec 1) (c : BitVec 2) (s : State) : Answered := issue (.cmpNe p a b u c) (planCmpNe p a b u c) s

/-- `CMP_LT` (R123). Writes the signed less-than test into a predicate. -/
def planCmpLt (p : BitVec 3) (a : BitVec 7) (b : BitVec 7) (u : BitVec 1) (c : BitVec 2) : Plan :=
  icmp p a b u c .lt

def execCmpLt (p : BitVec 3) (a : BitVec 7) (b : BitVec 7) (u : BitVec 1) (c : BitVec 2) (s : State) : Answered := issue (.cmpLt p a b u c) (planCmpLt p a b u c) s

/-- `CMP_LE` (R123). Writes the signed less-or-equal test. -/
def planCmpLe (p : BitVec 3) (a : BitVec 7) (b : BitVec 7) (u : BitVec 1) (c : BitVec 2) : Plan :=
  icmp p a b u c .le

def execCmpLe (p : BitVec 3) (a : BitVec 7) (b : BitVec 7) (u : BitVec 1) (c : BitVec 2) (s : State) : Answered := issue (.cmpLe p a b u c) (planCmpLe p a b u c) s

/-- `CMP_GT` (R123). Writes the signed greater-than test. -/
def planCmpGt (p : BitVec 3) (a : BitVec 7) (b : BitVec 7) (u : BitVec 1) (c : BitVec 2) : Plan :=
  icmp p a b u c .gt

def execCmpGt (p : BitVec 3) (a : BitVec 7) (b : BitVec 7) (u : BitVec 1) (c : BitVec 2) (s : State) : Answered := issue (.cmpGt p a b u c) (planCmpGt p a b u c) s

/-- `CMP_GE` (R123). Writes the signed greater-or-equal test. -/
def planCmpGe (p : BitVec 3) (a : BitVec 7) (b : BitVec 7) (u : BitVec 1) (c : BitVec 2) : Plan :=
  icmp p a b u c .ge

def execCmpGe (p : BitVec 3) (a : BitVec 7) (b : BitVec 7) (u : BitVec 1) (c : BitVec 2) (s : State) : Answered := issue (.cmpGe p a b u c) (planCmpGe p a b u c) s

/-- `CMP_LTU` (R123). Writes the unsigned less-than test. -/
def planCmpLtu (p : BitVec 3) (a : BitVec 7) (b : BitVec 7) (u : BitVec 1) (c : BitVec 2) : Plan :=
  icmp p a b u c .ltu

def execCmpLtu (p : BitVec 3) (a : BitVec 7) (b : BitVec 7) (u : BitVec 1) (c : BitVec 2) (s : State) : Answered := issue (.cmpLtu p a b u c) (planCmpLtu p a b u c) s

/-- `CMP_LEU` (R123). Writes the unsigned less-or-equal test. -/
def planCmpLeu (p : BitVec 3) (a : BitVec 7) (b : BitVec 7) (u : BitVec 1) (c : BitVec 2) : Plan :=
  icmp p a b u c .leu

def execCmpLeu (p : BitVec 3) (a : BitVec 7) (b : BitVec 7) (u : BitVec 1) (c : BitVec 2) (s : State) : Answered := issue (.cmpLeu p a b u c) (planCmpLeu p a b u c) s

/-- `CMP_GTU` (R123). Writes the unsigned greater-than test. -/
def planCmpGtu (p : BitVec 3) (a : BitVec 7) (b : BitVec 7) (u : BitVec 1) (c : BitVec 2) : Plan :=
  icmp p a b u c .gtu

def execCmpGtu (p : BitVec 3) (a : BitVec 7) (b : BitVec 7) (u : BitVec 1) (c : BitVec 2) (s : State) : Answered := issue (.cmpGtu p a b u c) (planCmpGtu p a b u c) s

/-- `CMP_GEU` (R123). Writes the unsigned greater-or-equal test. -/
def planCmpGeu (p : BitVec 3) (a : BitVec 7) (b : BitVec 7) (u : BitVec 1) (c : BitVec 2) : Plan :=
  icmp p a b u c .geu

def execCmpGeu (p : BitVec 3) (a : BitVec 7) (b : BitVec 7) (u : BitVec 1) (c : BitVec 2) (s : State) : Answered := issue (.cmpGeu p a b u c) (planCmpGeu p a b u c) s
/-- `PAND` (R125). ANDs two predicates per lane. -/
def planPand (p : BitVec 3) (a : BitVec 3) (b : BitVec 3) : Plan :=
  predOp p a (some b) (fun x y => x && y)

def execPand (p : BitVec 3) (a : BitVec 3) (b : BitVec 3) (s : State) : Answered := issue (.pand p a b) (planPand p a b) s

/-- `POR` (R125). ORs two predicates per lane. -/
def planPor (p : BitVec 3) (a : BitVec 3) (b : BitVec 3) : Plan :=
  predOp p a (some b) (fun x y => x || y)

def execPor (p : BitVec 3) (a : BitVec 3) (b : BitVec 3) (s : State) : Answered := issue (.por p a b) (planPor p a b) s

/-- `PXOR` (R125). XORs two predicates per lane. -/
def planPxor (p : BitVec 3) (a : BitVec 3) (b : BitVec 3) : Plan :=
  predOp p a (some b) (fun x y => x != y)

def execPxor (p : BitVec 3) (a : BitVec 3) (b : BitVec 3) (s : State) : Answered := issue (.pxor p a b) (planPxor p a b) s

/-- `PANDN` (R125). Writes pa AND NOT pb per lane. -/
def planPandn (p : BitVec 3) (a : BitVec 3) (b : BitVec 3) : Plan :=
  predOp p a (some b) (fun x y => x && !y)

def execPandn (p : BitVec 3) (a : BitVec 3) (b : BitVec 3) (s : State) : Answered := issue (.pandn p a b) (planPandn p a b) s

/-- `PNOT` (R125). Inverts a predicate per lane. -/
def planPnot (p : BitVec 3) (a : BitVec 3) : Plan :=
  predOp p a none (fun x _ => !x)

def execPnot (p : BitVec 3) (a : BitVec 3) (s : State) : Answered := issue (.pnot p a) (planPnot p a) s

/-- `PMOV` (R125). Copies a predicate per lane. -/
def planPmov (p : BitVec 3) (a : BitVec 3) : Plan :=
  predOp p a none (fun x _ => x)

def execPmov (p : BitVec 3) (a : BitVec 3) (s : State) : Answered := issue (.pmov p a) (planPmov p a) s

/-! ## Selection, moves and literals (R126, R81, R82, R67) -/

/-- `sel` (R126): the selector is consumed; each lane copies the operand it selects, poison included. -/
def selPlan (c : BitVec 3) (n : BitVec 1) (d a b : BitVec 7) (u : BitVec 1) : Plan where
  regs := checkV (vregs d.toNat a.toNat b.toNat u)
  srcs := fun _ m => [pSrc c.toNat m, vSrc a.toNat m, bSrc b.toNat u m]
  dsts := fun _ m => vDst d.toNat m
  act := fun e s =>
    let ls := Mask.lanes e.mask
    match ls.find? (fun l => (e.p c.toNat l).2) with
    | some l => .trap (.poisonConsumed l)
    | none => .ok { s := s, writes := ls.map (fun l =>
        (.vec d.toNat l, .w (if (e.p c.toNat l).1 != (n == 1) then e.v a.toNat l else e.opnd b.toNat u l))) }

/-- A copy into the acting lanes of vd of what `f` gives for each, poison included. -/
def copyPlan (d : Nat) (regs : List Nat) (srcs : Mask → List Src) (f : Env → Nat → Val) : Plan where
  regs := checkV (d :: regs)
  srcs := fun _ m => srcs m
  dsts := fun _ m => vDst d m
  act := fun e s => .ok { s := s, writes := (Mask.lanes e.mask).map (fun l => (.vec d l, .w (f e l))) }

/-- `movs` (R81): the lowest acting lane's word. -/
def movsPlan (d a : BitVec 7) : Plan where
  whole := true
  regs := checkV [a.toNat]
  srcs := fun _ m => [{ units := ((Mask.lanes m).take 1).map (UnitRef.vec a.toNat), words := 32 * (Mask.words m).length }]
  dsts := fun _ _ => [.uni d.toNat]
  act := fun e s => match Mask.lanes e.mask with
    | l :: _ => .ok { s := s, writes := [(.uni d.toNat, .w (e.v a.toNat l))] }
    | [] => .ok { s := s }

/-- The index register of `movix` and `movix.w`: pending parks with reason 2 in both modes, poison traps 0x10, V or above traps
0x04 (R81). `k` gets the index. -/
def withIndex (b : BitVec 7) (t : Team) (k : Nat → Option Trap) : Option Trap :=
  match (t.unit (.uni b.toNat)).val with
  | .poison => some (.poisonConsumed 0)
  | .word n => if t.vN ≤ n.toNat then some .illegalOperand else k n.toNat

/-- The landed index, 0 when it is poison. -/
def indexOf (b : BitVec 7) (t : Team) : Nat := (t.unit (.uni b.toNat)).val.bits.toNat

/-- The index as an entry keeps it: it has landed before capture, so it takes no lane-word (R81, R131; DEDUCED). -/
def indexSrc (b : BitVec 7) : Src := { units := [.uni b.toNat], words := 0 }

/-- `movix` once its index has landed: v(n) is an ordinary source (R81). In an entry the index is the value held there. -/
def movixPlan (d b : BitVec 7) : Plan where
  regs := fun t m => match checkV [d.toNat] t m with
    | some tr => some tr
    | none => if t.pend (.uni b.toNat) then none else withIndex b t (fun _ => none)
  hold := fun _ => [.uni b.toNat]
  srcs := fun t m => [indexSrc b, vSrc (indexOf b t) m]
  dsts := fun _ m => vDst d.toNat m
  act := fun e s =>
    let n := (e.u b.toNat).bits.toNat
    .ok { s := s, writes := (Mask.lanes e.mask).map (fun l => (.vec d.toNat l, .w (e.v n l))) }

/-- `movix.w` once its index has landed: v(n) is its destination (R81). -/
def movixWPlan (b a : BitVec 7) : Plan where
  regs := fun t m => match checkV [a.toNat] t m with
    | some tr => some tr
    | none => if t.pend (.uni b.toNat) then none else withIndex b t (fun _ => none)
  hold := fun _ => [.uni b.toNat]
  srcs := fun _ m => [indexSrc b, vSrc a.toNat m]
  dsts := fun t m => vDst (indexOf b t) m
  act := fun e s =>
    let n := (e.u b.toNat).bits.toNat
    .ok { s := s, writes := (Mask.lanes e.mask).map (fun l => (.vec n l, .w (e.v a.toNat l))) }

/-- `lim` (R82): the literal into the acting lanes of a vector register, or once into a uniform register. -/
def limPlan (c : BitVec 1) (d : BitVec 7) (lit : Word) : Plan :=
  if c = 1 then
    { whole := true, two := true, dsts := fun _ _ => [.uni d.toNat]
      act := fun _ s => .ok { s := s, writes := [(.uni d.toNat, .w (.word lit))] } }
  else
    { two := true, regs := checkV [d.toNat], dsts := fun _ m => vDst d.toNat m
      act := fun e s => .ok { s := s, writes := (Mask.lanes e.mask).map (fun l => (.vec d.toNat l, .w (.word lit))) } }

/-- `SEL` (R126). Selects va or vb per lane by a predicate, trapping on a poisoned selector. -/
def planSel (c : BitVec 3) (n : BitVec 1) (d : BitVec 7) (a : BitVec 7) (b : BitVec 7) (u : BitVec 1) : Plan :=
  selPlan c n d a b u

def execSel (c : BitVec 3) (n : BitVec 1) (d : BitVec 7) (a : BitVec 7) (b : BitVec 7) (u : BitVec 1) (s : State) : Answered := issue (.sel c n d a b u) (planSel c n d a b u) s

/-- `MOV` (R81). Copies a vector register per lane. -/
def planMov (d : BitVec 7) (a : BitVec 7) : Plan :=
  copyPlan d.toNat [a.toNat] (fun m => [vSrc a.toNat m]) (fun e l => e.v a.toNat l)

def execMov (d : BitVec 7) (a : BitVec 7) (s : State) : Answered := issue (.mov d a) (planMov d a) s

/-- `MOVS` (R81). Copies the lowest acting lane's value into a uniform register. -/
def planMovs (d : BitVec 7) (a : BitVec 7) : Plan :=
  movsPlan d a

def execMovs (d : BitVec 7) (a : BitVec 7) (s : State) : Answered := issue (.movs d a) (planMovs d a) s

/-- `MOVIX` (R81). Reads the vector register indexed by a uniform register. -/
def planMovix (d : BitVec 7) (b : BitVec 7) : Plan :=
  movixPlan d b

def execMovix (d : BitVec 7) (b : BitVec 7) (s : State) : Answered := issue (.movix d b) (planMovix d b) s

/-- `MOVIX_W` (R81). Writes the vector register indexed by a uniform register. -/
def planMovixW (a : BitVec 7) (b : BitVec 7) : Plan :=
  movixWPlan b a

def execMovixW (a : BitVec 7) (b : BitVec 7) (s : State) : Answered := issue (.movixW a b) (planMovixW a b) s

/-- `LANE` (R67). Writes each lane's team lane number. -/
def planLane (d : BitVec 7) : Plan :=
  copyPlan d.toNat [] (fun _ => []) (fun _ l => .word (BitVec.ofNat 32 l))

def execLane (d : BitVec 7) (s : State) : Answered := issue (.lane d) (planLane d) s

/-- `LWORD` (R67). Writes each lane's guard-restricted mask word. -/
def planLword (d : BitVec 7) : Plan :=
  copyPlan d.toNat [] (fun _ => []) (fun e l => .word (e.mask.getD (l / 32) 0))

def execLword (d : BitVec 7) (s : State) : Answered := issue (.lword d) (planLword d) s

/-- `MOVSV` (R81). Broadcasts a uniform register into a vector register. -/
def planMovsv (d : BitVec 7) (a : BitVec 7) : Plan :=
  copyPlan d.toNat [] (fun _ => [uSrc a.toNat]) (fun e _ => e.u a.toNat)

def execMovsv (d : BitVec 7) (a : BitVec 7) (s : State) : Answered := issue (.movsv d a) (planMovsv d a) s

/-- `LIM` (R82). Writes a 32-bit literal word -/
def planLim (c : BitVec 1) (d : BitVec 7) (lit : BitVec 32) : Plan :=
  limPlan c d lit

def execLim (c : BitVec 1) (d : BitVec 7) (lit : BitVec 32) (s : State) : Answered := issue (.lim c d lit) (planLim c d lit) s

/-! ## Uniform arithmetic (R127) -/

/-- `SADD` (R127). Adds uniform registers. -/
def planSadd (d : BitVec 7) (a : BitVec 7) (b : BitVec 7) : Plan :=
  uniBin d a b (fun x y => x + y)

def execSadd (d : BitVec 7) (a : BitVec 7) (b : BitVec 7) (s : State) : Answered := issue (.sadd d a b) (planSadd d a b) s

/-- `SSUB` (R127). Subtracts uniform registers. -/
def planSsub (d : BitVec 7) (a : BitVec 7) (b : BitVec 7) : Plan :=
  uniBin d a b (fun x y => x - y)

def execSsub (d : BitVec 7) (a : BitVec 7) (b : BitVec 7) (s : State) : Answered := issue (.ssub d a b) (planSsub d a b) s

/-- `SMUL` (R127). Multiplies uniform registers, low word. -/
def planSmul (d : BitVec 7) (a : BitVec 7) (b : BitVec 7) : Plan :=
  uniBin d a b (fun x y => x * y)

def execSmul (d : BitVec 7) (a : BitVec 7) (b : BitVec 7) (s : State) : Answered := issue (.smul d a b) (planSmul d a b) s

/-- `SAND` (R127). ANDs uniform registers. -/
def planSand (d : BitVec 7) (a : BitVec 7) (b : BitVec 7) : Plan :=
  uniBin d a b (fun x y => x &&& y)

def execSand (d : BitVec 7) (a : BitVec 7) (b : BitVec 7) (s : State) : Answered := issue (.sand d a b) (planSand d a b) s

/-- `SOR` (R127). ORs uniform registers. -/
def planSor (d : BitVec 7) (a : BitVec 7) (b : BitVec 7) : Plan :=
  uniBin d a b (fun x y => x ||| y)

def execSor (d : BitVec 7) (a : BitVec 7) (b : BitVec 7) (s : State) : Answered := issue (.sor d a b) (planSor d a b) s

/-- `SXOR` (R127). XORs uniform registers. -/
def planSxor (d : BitVec 7) (a : BitVec 7) (b : BitVec 7) : Plan :=
  uniBin d a b (fun x y => x ^^^ y)

def execSxor (d : BitVec 7) (a : BitVec 7) (b : BitVec 7) (s : State) : Answered := issue (.sxor d a b) (planSxor d a b) s

/-- `SSHL` (R127). Shifts a uniform register left. -/
def planSshl (d : BitVec 7) (a : BitVec 7) (b : BitVec 7) : Plan :=
  uniBin d a b (fun x y => x <<< shAmt y)

def execSshl (d : BitVec 7) (a : BitVec 7) (b : BitVec 7) (s : State) : Answered := issue (.sshl d a b) (planSshl d a b) s

/-- `SSHR` (R127). Shifts a uniform register right logically. -/
def planSshr (d : BitVec 7) (a : BitVec 7) (b : BitVec 7) : Plan :=
  uniBin d a b (fun x y => x >>> shAmt y)

def execSshr (d : BitVec 7) (a : BitVec 7) (b : BitVec 7) (s : State) : Answered := issue (.sshr d a b) (planSshr d a b) s

/-- `SSRA` (R127). Shifts a uniform register right arithmetically. -/
def planSsra (d : BitVec 7) (a : BitVec 7) (b : BitVec 7) : Plan :=
  uniBin d a b (fun x y => x.sshiftRight (shAmt y))

def execSsra (d : BitVec 7) (a : BitVec 7) (b : BitVec 7) (s : State) : Answered := issue (.ssra d a b) (planSsra d a b) s

/-- `SMIN` (R127). Writes the signed uniform minimum. -/
def planSmin (d : BitVec 7) (a : BitVec 7) (b : BitVec 7) : Plan :=
  uniBin d a b (fun x y => sMin x y)

def execSmin (d : BitVec 7) (a : BitVec 7) (b : BitVec 7) (s : State) : Answered := issue (.smin d a b) (planSmin d a b) s

/-- `SMAX` (R127). Writes the signed uniform maximum. -/
def planSmax (d : BitVec 7) (a : BitVec 7) (b : BitVec 7) : Plan :=
  uniBin d a b (fun x y => sMax x y)

def execSmax (d : BitVec 7) (a : BitVec 7) (b : BitVec 7) (s : State) : Answered := issue (.smax d a b) (planSmax d a b) s

/-- `SMINU` (R127). Writes the unsigned uniform minimum. -/
def planSminu (d : BitVec 7) (a : BitVec 7) (b : BitVec 7) : Plan :=
  uniBin d a b (fun x y => uMin x y)

def execSminu (d : BitVec 7) (a : BitVec 7) (b : BitVec 7) (s : State) : Answered := issue (.sminu d a b) (planSminu d a b) s

/-- `SMAXU` (R127). Writes the unsigned uniform maximum. -/
def planSmaxu (d : BitVec 7) (a : BitVec 7) (b : BitVec 7) : Plan :=
  uniBin d a b (fun x y => uMax x y)

def execSmaxu (d : BitVec 7) (a : BitVec 7) (b : BitVec 7) (s : State) : Answered := issue (.smaxu d a b) (planSmaxu d a b) s

/-- `SADDI` (R127). Adds a sign-extended immediate to a uniform register. -/
def planSaddi (d : BitVec 7) (a : BitVec 7) (i : BitVec 12) : Plan :=
  uniUn d a (fun x => x + imm32 i)

def execSaddi (d : BitVec 7) (a : BitVec 7) (i : BitVec 12) (s : State) : Answered := issue (.saddi d a i) (planSaddi d a i) s

/-- `SCMP_EQ` (R127). Writes 1 to a uniform register when the operands are equal. -/
def planScmpEq (d : BitVec 7) (a : BitVec 7) (b : BitVec 7) : Plan :=
  uniBin d a b (fun x y => boolWord (Cond.holds .eq x y))

def execScmpEq (d : BitVec 7) (a : BitVec 7) (b : BitVec 7) (s : State) : Answered := issue (.scmpEq d a b) (planScmpEq d a b) s

/-- `SCMP_NE` (R127). Writes the uniform not-equal test. -/
def planScmpNe (d : BitVec 7) (a : BitVec 7) (b : BitVec 7) : Plan :=
  uniBin d a b (fun x y => boolWord (Cond.holds .ne x y))

def execScmpNe (d : BitVec 7) (a : BitVec 7) (b : BitVec 7) (s : State) : Answered := issue (.scmpNe d a b) (planScmpNe d a b) s

/-- `SCMP_LT` (R127). Writes the uniform signed less-than test. -/
def planScmpLt (d : BitVec 7) (a : BitVec 7) (b : BitVec 7) : Plan :=
  uniBin d a b (fun x y => boolWord (Cond.holds .lt x y))

def execScmpLt (d : BitVec 7) (a : BitVec 7) (b : BitVec 7) (s : State) : Answered := issue (.scmpLt d a b) (planScmpLt d a b) s

/-- `SCMP_LE` (R127). Writes the uniform signed less-or-equal test. -/
def planScmpLe (d : BitVec 7) (a : BitVec 7) (b : BitVec 7) : Plan :=
  uniBin d a b (fun x y => boolWord (Cond.holds .le x y))

def execScmpLe (d : BitVec 7) (a : BitVec 7) (b : BitVec 7) (s : State) : Answered := issue (.scmpLe d a b) (planScmpLe d a b) s

/-- `SCMP_GT` (R127). Writes the uniform signed greater-than test. -/
def planScmpGt (d : BitVec 7) (a : BitVec 7) (b : BitVec 7) : Plan :=
  uniBin d a b (fun x y => boolWord (Cond.holds .gt x y))

def execScmpGt (d : BitVec 7) (a : BitVec 7) (b : BitVec 7) (s : State) : Answered := issue (.scmpGt d a b) (planScmpGt d a b) s

/-- `SCMP_GE` (R127). Writes the uniform signed greater-or-equal test. -/
def planScmpGe (d : BitVec 7) (a : BitVec 7) (b : BitVec 7) : Plan :=
  uniBin d a b (fun x y => boolWord (Cond.holds .ge x y))

def execScmpGe (d : BitVec 7) (a : BitVec 7) (b : BitVec 7) (s : State) : Answered := issue (.scmpGe d a b) (planScmpGe d a b) s

/-- `SCMP_LTU` (R127). Writes the uniform unsigned less-than test. -/
def planScmpLtu (d : BitVec 7) (a : BitVec 7) (b : BitVec 7) : Plan :=
  uniBin d a b (fun x y => boolWord (Cond.holds .ltu x y))

def execScmpLtu (d : BitVec 7) (a : BitVec 7) (b : BitVec 7) (s : State) : Answered := issue (.scmpLtu d a b) (planScmpLtu d a b) s

/-- `SCMP_LEU` (R127). Writes the uniform unsigned less-or-equal test. -/
def planScmpLeu (d : BitVec 7) (a : BitVec 7) (b : BitVec 7) : Plan :=
  uniBin d a b (fun x y => boolWord (Cond.holds .leu x y))

def execScmpLeu (d : BitVec 7) (a : BitVec 7) (b : BitVec 7) (s : State) : Answered := issue (.scmpLeu d a b) (planScmpLeu d a b) s

/-- `SCMP_GTU` (R127). Writes the uniform unsigned greater-than test. -/
def planScmpGtu (d : BitVec 7) (a : BitVec 7) (b : BitVec 7) : Plan :=
  uniBin d a b (fun x y => boolWord (Cond.holds .gtu x y))

def execScmpGtu (d : BitVec 7) (a : BitVec 7) (b : BitVec 7) (s : State) : Answered := issue (.scmpGtu d a b) (planScmpGtu d a b) s

/-- `SCMP_GEU` (R127). Writes the uniform unsigned greater-or-equal test. -/
def planScmpGeu (d : BitVec 7) (a : BitVec 7) (b : BitVec 7) : Plan :=
  uniBin d a b (fun x y => boolWord (Cond.holds .geu x y))

def execScmpGeu (d : BitVec 7) (a : BitVec 7) (b : BitVec 7) (s : State) : Answered := issue (.scmpGeu d a b) (planScmpGeu d a b) s

end Sys2Proof.Machine
end

