-- ==== Sys2Proof/Machine/Phys.lean ====
section
/-! DEFINITION. Physical memory and the way to it: distances and paths (spec/01 R10 to R17), choosing a holder (spec/11 R200 to
R206), the holder's mapping, capacity and owner (R19, R201, R299), bytes, poison, written lines and line keys (spec/12 R244;
spec/15 R301, R362), translation (spec/11 R196 to R199) and clause fetch (spec/02 R28, R29). -/

namespace Sys2Proof.Machine

/-! ## Topology -/

/-- Pier distance by ring offset: 0, 1, 2, 2, 1 (R13). -/
def pierDist (i j : Nat) : Nat :=
  match (j + 8 - i % 8) % 8 with
  | 0 => 0
  | 1 => 1
  | 4 => 1
  | 7 => 1
  | _ => 2

/-- The attach pier of die i with index a: the lower-numbered for 0 (R11, R17). -/
def attach (i a : Nat) : Nat :=
  let x := i % 8
  let y := (i + 1) % 8
  if a = 0 then (if x < y then x else y) else (if x < y then y else x)

/-- The piers linked to abutment W (0) or E (1) (R10). -/
def abutPiers (w : Nat) : List Nat := if w = 0 then [0, 1, 2, 3] else [4, 5, 6, 7]

/-- The piers at which a holder, or a requesting die or abutment, meets the crossbars. -/
def holderPiers (h : Nat) : List Nat :=
  if h < 8 then [attach h 0, attach h 1] else if h < 16 then [h - 8] else abutPiers (h - 16)

def leastOf : List Nat → Nat
  | [] => 0
  | [x] => x
  | x :: xs => let m := leastOf xs; if x < m then x else m

/-- Distance in pier crossbars from a requesting die or abutment to a holder (R13, R15): a CXL holder is one more than the
pier it hangs on. -/
def distance (src h : Nat) : Nat :=
  if src = h then 0
  else
    let d := leastOf ((holderPiers src).flatMap (fun i => (holderPiers h).map (pierDist i)))
    if 16 ≤ h then d + 2 else d + 1

/-- The piers of the fixed route from Pi to Pj (R16), both ends included. -/
def pierRoute (i j : Nat) : List Nat :=
  match (j + 8 - i % 8) % 8 with
  | 0 => [i]
  | 1 => [i, j]
  | 2 => [i, (i + 1) % 8, j]
  | 3 => [i, (i + 4) % 8, j]
  | 4 => [i, j]
  | 5 => [i, (i + 1) % 8, j]
  | 6 => [i, (i + 7) % 8, j]
  | _ => [i, j]

/-- Links by number: 0 to 15 spans (2 × die + attach index), 16 to 23 ring links (Pi to Pi+1), 24 to 27 chords, 28 to 35
abutment–pier links by pier. The A end is the die, the lower end clockwise, the lower-numbered pier, or the abutment. -/
def pierLink (i j : Nat) : Nat :=
  if (i + 1) % 8 = j then 16 + i else if (j + 1) % 8 = i then 16 + j else 24 + (if i < j then i else j)

/-- The links between consecutive piers of a route. -/
def routeLinks : List Nat → List Nat
  | i :: j :: rest => pierLink i j :: routeLinks (j :: rest)
  | _ => []

/-- The pier nearest to Pi of those linked to an abutment, the lower-numbered taking ties (R17). -/
def nearestAbutPier (i w : Nat) : Nat :=
  (abutPiers w).foldl (fun best p => if pierDist i p < pierDist i best then p else best) ((abutPiers w).headD 0)

/-- How many paths lead from a die to a holder (R17): 4 to a die, 2 to a pier or CXL holder, none to its own pool. -/
def pathCount (src h : Nat) : Nat := if src = h then 0 else if h < 8 then 4 else 2

/-- The piers that path p from die src to holder h crosses (R17). -/
def pathPiers (src h p : Nat) : List Nat :=
  if h < 8 then pierRoute (attach src (p / 2)) (attach h (p % 2))
  else if h < 16 then pierRoute (attach src p) (h - 8)
  else pierRoute (attach src p) (nearestAbutPier (attach src p) (h - 16))

/-- The links of a path, the source's span first. -/
def pathLinks (src h p : Nat) : List Nat :=
  let ps := pathPiers src h p
  if h < 8 then (2 * src + p / 2) :: routeLinks ps ++ [2 * h + p % 2]
  else if h < 16 then (2 * src + p) :: routeLinks ps
  else (2 * src + p) :: routeLinks ps ++ [28 + nearestAbutPier (attach src p) (h - 16)]

/-- The nodes at the A and the B end of a link: dies 0 to 7, piers 8 to 15, abutments 16 and 17. -/
def linkEnds (l : Nat) : Nat × Nat :=
  if l < 16 then (l / 2, 8 + attach (l / 2) (l % 2))
  else if l < 24 then (8 + (l - 16), 8 + (l - 16 + 1) % 8)
  else if l < 28 then (8 + (l - 24), 8 + (l - 24) + 4)
  else (if l - 28 < 4 then 16 else 17, 8 + (l - 28))

/-- Links walked from a node: each with its direction, true toward its B end. -/
def linkWays : Nat → List Nat → List (Nat × Bool)
  | _, [] => []
  | n, l :: rest => if (linkEnds l).1 = n then (l, true) :: linkWays (linkEnds l).2 rest else (l, false) :: linkWays (linkEnds l).1 rest

def State.link (s : State) (l : Nat) : Link := tget {} s.links l

/-- The link between two nodes replays toward the second (R231). -/
def State.replaysTo (s : State) (a b : Nat) : Bool :=
  (List.range 36).any (fun l => !(s.link l).failed
    && ((linkEnds l == (a, b) && (s.link l).ab.replaying) || (linkEnds l == (b, a) && (s.link l).ba.replaying)))

/-- Something that crosses a path from its source, or back, waits while a link on it replays in that direction: the receiver takes no
later flit before the replayed one (R231). -/
def State.replays (s : State) (src h p : Nat) (back : Bool) : Bool :=
  src != h && (linkWays src (pathLinks src h p)).any (fun w =>
    !(s.link w.1).failed && (if w.2 != back then (s.link w.1).ab.replaying else (s.link w.1).ba.replaying))

/-- A path that crosses a failed link is not used (R23); nor one through a silent pier, whose crossbar forwards nothing
(DEDUCED, notes/assumptions/20.md). -/
def State.pathOk (s : State) (src h p : Nat) : Bool :=
  (pathLinks src h p).all (fun l => !(s.link l).failed)
  && (pathPiers src h p).all (fun k => !(s.pier k).silent && !(s.pier k).fenced)

/-- The paths that may be used, lowest index first. -/
def State.paths (s : State) (src h : Nat) : List Nat := (List.range (pathCount src h)).filter (s.pathOk src h)

/-- A walk from a pier to a holder over the fixed route crosses no failed link and no silent pier (R16, R23). -/
def State.pierReaches (s : State) (p h : Nat) : Bool :=
  (if h < 8 then [(pierRoute p (attach h 0), [2 * h]), (pierRoute p (attach h 1), [2 * h + 1])]
    else if h < 16 then [(pierRoute p (h - 8), [])]
    else [(pierRoute p (nearestAbutPier p (h - 16)), [28 + nearestAbutPier p (h - 16)])]).any (fun w =>
      (routeLinks w.1 ++ w.2).all (fun l => !(s.link l).failed) && w.1.all (fun k => !(s.pier k).silent && !(s.pier k).fenced))

/-- The links of the fixed route between two holders' nodes (R16): a die by its pier of index 0, an abutment by its nearest linked pier. -/
def holderLinks (a b : Nat) : List Nat :=
  let pierOf := fun (h other : Nat) => if h < 8 then attach h 0 else if h < 16 then h - 8 else nearestAbutPier other (h - 16)
  let pb := pierOf b (if a < 8 then attach a 0 else a - 8)
  let pa := pierOf a pb
  let pb := pierOf b pa
  (if a < 8 then [2 * a] else if a < 16 then [] else [28 + pa]) ++ routeLinks (pierRoute pa pb)
    ++ (if b < 8 then [2 * b] else if b < 16 then [] else [28 + pb])

/-- Some path from a die, or from an abutment over one of its piers, to a holder may be used (R23, R225). -/
def State.reaches (s : State) (src h : Nat) : Bool :=
  src == h || (if src < 8 then !(s.paths src h).isEmpty
    else if src < 16 then s.pierReaches (src - 8) h
    else (abutPiers (src - 16)).any (fun p => !(s.link (28 + p)).failed && s.pierReaches p h))

/-- The path of ordered traffic: the lowest-indexed that crosses no failed link (R225); a die's own pool uses none. -/
def State.orderedPath (s : State) (src h : Nat) : Option Nat := if src = h then some 0 else (s.paths src h).head?

/-- A link on a way, walked with its direction, has stopped a class (R230). -/
def State.stopsClass (s : State) (way : List (Nat × Bool)) (cls : Nat) : Bool :=
  way.any (fun w => !(s.link w.1).failed && (if w.2 then (s.link w.1).ab.off.getLsbD cls else (s.link w.1).ba.off.getLsbD cls))

/-- The first link of a path has told the die to stop class 0 (R230). -/
def State.egressOff (s : State) (src h p : Nat) : Bool :=
  src != h && s.stopsClass ((linkWays src (pathLinks src h p)).take 1) 0

/-- A packet still waits in its path's egress queue (R343). -/
def Egress.waits (x : Egress) (now : BitVec 64) : Bool := !x.left && decide ((now - x.at_).toNat < 1 + Config.egressWait x.n)

/-- The link has acknowledged a packet (R231, R343). -/
def Egress.acked (x : Egress) (now : BitVec 64) : Bool :=
  !x.waits now && decide (2 + Config.egressWait x.n + Config.egressAck x.n ≤ (now - x.at_).toNat)

/-- What takes up the buffer of a path's first link (R343): the bytes of class 0 sent on its span and not acknowledged, and those that wait
in the path's own queue, which a span port keeps by path index. Free buffer is 64 KiB less this. -/
def State.pathUsed (s : State) (src h p : Nat) : Nat :=
  let d := s.die src
  let span := (pathLinks src h p).head?
  d.egress.foldl (fun n x =>
    if (pathLinks src x.holder x.path).head? == span && !x.acked d.dcc && (x.path == p || !x.waits d.dcc) then n + x.bytes else n) 0

/-- The first of some paths with the least of its first link's buffer in use. -/
def State.freest (s : State) (src h : Nat) : List Nat → Option Nat
  | [] => none
  | p :: rest =>
    match s.freest src h rest with
    | some q => some (if s.pathUsed src h q < s.pathUsed src h p then q else p)
    | none => some p

/-- The path of relaxed traffic: of those that may be used, the one whose first link has the most free buffer, ties to the lower index
(R225, R343). -/
def State.relaxedPath (s : State) (src h : Nat) : Option Nat := if src = h then some 0 else s.freest src h (s.paths src h)

/-! ## Choosing a holder (R206) -/

/-- An entry's prefix matches an address (R18, R202). -/
def Ann.covers (a : Ann) (pa : Nat) : Bool := pa / 2 ^ (52 - a.len) == a.base / 2 ^ (52 - a.len)

/-- R202: g1 is newer than g2. -/
def newerGen (g1 g2 : BitVec 8) : Bool := let d := (g1 - g2).toNat; decide (1 ≤ d) && decide (d ≤ 127)

/-- The key of an announcement (R202). -/
def Ann.sameKey (a b : Ann) : Bool := a.base == b.base && a.len == b.len && a.holder == b.holder && a.world == b.world

/-- Same prefix, length and world (R207). -/
def Ann.sameRange (a b : Ann) : Bool := a.base == b.base && a.len == b.len && a.world == b.world

/-- HOME entries that a newer HOME supersedes (R207). -/
def supersedes (a e : Ann) : Bool :=
  a.kind == AnnKind.home && e.kind == AnnKind.home && a.sameRange e && a.holder != e.holder && newerGen a.gen e.gen

/-- Entry a is preferred to b: longer prefix, then nearer, then lower holder (R206). -/
def Ann.better (src : Nat) (a b : Ann) : Bool :=
  if a.len ≠ b.len then decide (b.len < a.len)
  else if distance src a.holder ≠ distance src b.holder then decide (distance src a.holder < distance src b.holder)
  else decide (a.holder < b.holder)

/-- The best of some entries; the earlier of two equal ones. -/
def bestAnn (src : Nat) : List Ann → Option Ann
  | [] => none
  | a :: rest =>
    match bestAnn src rest with
    | some b => some (if b.better src a then b else a)
    | none => some a

/-- Entries of a table usable by a world (R202); with `homeOnly` the HOME entries (R206). The world's own entries come first. -/
def usable (tbl : List Ann) (world : Nat) (homeOnly : Bool) (pa : Nat) : List Ann :=
  let ok := tbl.filter (fun a => a.covers pa && (!homeOnly || a.kind == AnnKind.home))
  (if world = 0 then [] else ok.filter (fun a => a.world == world)) ++ ok.filter (fun a => a.world == 0)

/-- R206 in the table of a node, seen from a requester. -/
def State.choose (s : State) (node src world : Nat) (homeOnly : Bool) (pa : Nat) : Option Ann :=
  bestAnn src (usable (s.node node).table world homeOnly pa)

/-- The node whose table a requester uses (R359): a die its own, an abutment that of its lowest-numbered linked pier in service. -/
def State.sideNode (s : State) (src : Nat) : Nat :=
  if src < 16 then src
  else match (abutPiers (src - 16)).find? (fun p => !(s.pier p).silent) with
    | some p => 8 + p
    | none => 8

/-! ## At the holder -/

/-- Data capacity of a holder in bytes (R10, R19). -/
def capacity (h : Nat) : Nat :=
  if h < 8 then 16 * 2 ^ 20 else if h < 16 then 0xF00000000 else Config.cxlMiB * 2 ^ 20

/-- Where a holder maps a physical address: by the longest of its own announcements for the world and world 0 (R201). -/
def State.mapAt (s : State) (h world pa : Nat) : Option (Ann × Nat) :=
  match bestAnn h (usable (s.holder h).anns world false pa) with
  | some a => some (a, a.localBase + (pa - a.base))
  | none => none

/-- The owner of a local offset: the longest matching ownership entry, else world 0 (R299). -/
def State.ownerOf (s : State) (h off : Nat) : Nat :=
  match (s.holder h).owners.foldl (fun best e =>
      if off / 2 ^ (52 - e.2.2) == e.2.1 / 2 ^ (52 - e.2.2) then
        match best with
        | some b => if b.2.2 < e.2.2 then some e else some b
        | none => some e
      else best) none with
  | some e => e.1
  | none => 0

/-- Memory is keyed by holder and local offset. -/
def memKey (h off : Nat) : Nat := h * 2 ^ 44 + off

/-- Bytes of a poison granule at a holder: a word in a pool, a 64-byte chunk in DRAM and CXL (R244). -/
def granuleOf (h : Nat) : Nat := if h < 8 then 4 else 64

/-- The first byte of the granule. -/
def granuleBase (h off : Nat) : Nat := memKey h (off / granuleOf h * granuleOf h)

/-- A line's number, by the key of its first byte ÷ 128. -/
def lineKey (h off : Nat) : Nat := memKey h off / 128

/-- Does a line of DRAM or CXL verify under its owner's present key (R301, R362)? Lines not written are not checked. The key is
the owner's world and epoch; the physical address is the line's place (DEDUCED, notes/assumptions/22.md). -/
def State.lineOk (s : State) (h off : Nat) : Bool :=
  h < 8 || !(tget false s.mem.written (lineKey h off))
  || (let w := s.ownerOf h off; tget (0, 0) s.mem.keys (lineKey h off) == (w, (s.world w).epoch))

/-- A failed channel of a pier (R338, R340). -/
def State.chanFailed (s : State) (h off : Nat) : Bool :=
  8 ≤ h && h < 16 && (s.pier (h - 8)).failedChans.contains (off / 0xF0000000)

/-- The seed under which a die pool's word is written: its owner's, none for world 0 (R300). -/
def State.seedOf (s : State) (h off : Nat) : Option (BitVec 128) :=
  let w := s.ownerOf h off
  if w = 0 then none else some (s.world w).seed

/-- The mask of a word under a seed. -/
def State.maskOf (s : State) (seed : Option (BitVec 128)) (pos : Nat) : Word := Config.scramble (seed.getD (s.world 0).seed) pos

/-- What is left on a byte of a die pool when its owner reads it: the mask comes off whole if the word was written under the owner's seed; else
the two worlds' masks stay on it (R300). -/
def State.unmask (s : State) (h off : Nat) (b : Byte) : Byte :=
  let pos := memKey h off / 4
  if h < 8 ∧ tget none s.mem.seeds pos ≠ s.seedOf h off then
    b ^^^ (s.maskOf (tget none s.mem.seeds pos) pos ^^^ s.maskOf (s.seedOf h off) pos).extractLsb' (8 * (off % 4)) 8
  else b

/-- One byte as an access reads it: poison where its chunk is poisoned, its line fails to verify or its channel has failed. -/
def State.byteAt (s : State) (h off : Nat) : PByte :=
  if tget false s.mem.poison (granuleBase h off) || !s.lineOk h off || s.chanFailed h off then none
  else some (s.unmask h off (tget 0 s.mem.cells (memKey h off)))

/-- n bytes from a local offset. -/
def State.bytesAt (s : State) (h off : Nat) : Nat → List PByte
  | 0 => []
  | n + 1 => s.byteAt h off :: s.bytesAt h (off + 1) n

/-- The distinct elements of a list. -/
def distinct (xs : List Nat) : List Nat := xs.foldl (fun acc x => if acc.contains x then acc else acc ++ [x]) []

/-- The written bit and the key of one line, set as a write under the line's owner sets them (R301, R362). -/
def State.keyLine (s : State) (h off : Nat) : State :=
  let w := s.ownerOf h off
  let k := lineKey h off
  { s with mem := { s.mem with written := tset false s.mem.written k true
                               keys := if h < 8 then s.mem.keys else tset (0, 0) s.mem.keys k (w, (s.world w).epoch) } }

/-- One granule rewritten with some of its bytes (R244): a poisoned byte poisons it whole; part of a poisoned granule leaves it
poisoned; the whole of it with ordinary data clears it. -/
def Memory.putGranule (m : Memory) (h base : Nat) (ws : List (Nat × PByte)) : Memory :=
  let bad := ws.any (fun w => w.2.isNone)
  let whole := (distinct (ws.map Prod.fst)).length == granuleOf h
  let cells := ws.foldl (fun c w => match w.2 with | some b => tset 0 c (memKey h w.1) b | none => c) m.cells
  let poison := if bad then tset false m.poison base true else if whole then tset false m.poison base false else m.poison
  { m with cells := cells, poison := poison }

/-- A line that does not verify and is written in part: what is not rewritten is poison (DEDUCED, notes/assumptions/22.md). -/
def State.spoilLine (s : State) (h off : Nat) : State :=
  if s.lineOk h off then s
  else
    let base := memKey h (off / 128 * 128)
    { s with mem := { s.mem with poison := tset false (tset false s.mem.poison base true) (base + 64) true } }

/-- A die pool's word comes under its owner's seed when it is written: what of it is not rewritten is written back as it reads (R300). -/
def State.reseed (s : State) (h off : Nat) : State :=
  let pos := memKey h off / 4
  if h < 8 ∧ tget none s.mem.seeds pos ≠ s.seedOf h off then
    let cells := (List.range 4).foldl (fun c i =>
      let k := memKey h (off / 4 * 4 + i)
      tset 0 c k (s.unmask h (off / 4 * 4 + i) (tget 0 s.mem.cells k))) s.mem.cells
    { s with mem := { s.mem with cells := cells, seeds := tset none s.mem.seeds pos (s.seedOf h off) } }
  else s

/-- Bytes written at a holder by local offset, as one store (R224, R244, R300, R301). -/
def State.putBytes (s : State) (h : Nat) (ws : List (Nat × PByte)) : State :=
  let lines := distinct (ws.map (fun w => w.1 / 128 * 128))
  let s := lines.foldl (fun s o => (s.spoilLine h o).keyLine h o) s
  let s := if h < 8 then ws.foldl (fun s w => s.reseed h w.1) s else s
  let grans := distinct (ws.map (fun w => granuleBase h w.1))
  { s with mem := grans.foldl (fun m g => m.putGranule h g (ws.filter (fun w => granuleBase h w.1 == g))) s.mem }

/-! ## Range watches (R309) -/

/-- An armed entry matches an access. -/
def Watch.hits (e : Watch) (world pa : Nat) : Bool :=
  e.world == world && pa / 2 ^ (52 - e.len) == e.base / 2 ^ (52 - e.len)

/-- One entry of a pier sees an access of a kind (0 read, 1 write, 2 atomic). -/
def Pier.watchOne (x : Pier) (n world pa kind src size : Nat) : Pier :=
  match tget none x.watches n with
  | none => x
  | some e =>
    if !e.hits world pa then x
    else
      let e' := { e with reads := if kind = 1 then e.reads else e.reads + 1, writes := if kind = 0 then e.writes else e.writes + 1 }
      let x := { x with watches := tset none x.watches n (some e') }
      if !e.mode then x
      else if x.watchLog.length < 2048 then
        { x with watchSeq := x.watchSeq + 1
                 watchLog := x.watchLog ++ [{ dcc := x.dcc, pa := pa, world := world, kind := kind, src := src, size := size, entry := n, seq := x.watchSeq }] }
      else { x with watchDropped := x.watchDropped + 1 }

/-- A pier performs an access to its own DRAM: every armed entry that matches counts it. -/
def State.watched (s : State) (holder world pa kind src size : Nat) : State :=
  if 8 ≤ holder ∧ holder < 16 then
    s.modPier (holder - 8) (fun x => (List.range 64).foldl (fun x n => x.watchOne n world pa kind src size) x)
  else s

/-- A holder that answers with poison: it is silent (R240). -/
def State.holderSilent (s : State) (h : Nat) : Bool :=
  if h < 8 then (s.die h).silent else if h < 16 then (s.pier (h - 8)).silent else false

/-- A line that fails to verify is noted, for its log record and its world (R301). -/
def State.noteTag (s : State) (h off : Nat) : State :=
  if s.lineOk h off || s.holderSilent h then s else { s with tagFails := s.tagFails ++ [(h, off)] }

/-! ## Accesses of the package itself (R198, R359) -/

/-- A home transfer that has not ended and covers a local offset of its old home. -/
def State.transferAt (s : State) (h off : Nat) : Option Transfer :=
  s.transfers.find? (fun t => t.old == h && decide (t.oldBase ≤ off) && decide (off < t.oldBase + 2 ^ (52 - t.len)))

/-- Where the bytes of a place are served: at the new home once a transfer has moved them (R211 step 5). The package's own
accesses and the engines' follow the "moved" answer at once (DEDUCED, notes/assumptions/25.md). -/
def State.servedAt (s : State) (h off : Nat) : Nat × Nat :=
  match s.transferAt h off with
  | some t => if 5 ≤ t.step then (t.new, t.newBase + (off - t.oldBase)) else (h, off)
  | none => (h, off)

/-- Where an access of the package's own goes: the HOME by R206, a path to it (R225), its mapping, capacity and owner; else the trap
cause. -/
def State.homeOf (s : State) (src world pa : Nat) : Except (BitVec 8) (Nat × Nat) :=
  match s.choose (s.sideNode src) src world true pa with
  | none => .error 0x0A
  | some a =>
    match (if s.reaches src a.holder then s.mapAt a.holder world pa else none) with
    | none => .error 0x0A
    | some (_, off) =>
      if capacity a.holder ≤ off then .error 0x09
      else if s.ownerOf a.holder off ≠ world ∧ s.ownerOf a.holder off ≠ 0 then .error 0x0C
      else .ok (s.servedAt a.holder off)

/-- n aligned bytes read by the package itself. -/
def State.readOwn (s : State) (src world pa n : Nat) : Except (BitVec 8) (List PByte) :=
  match s.homeOf src world pa with
  | .error c => .error c
  | .ok (h, off) => .ok (if s.holderSilent h then List.replicate n none else s.bytesAt h off n)

/-- What such a read leaves: the watches of its pier count it, a line that fails to verify is noted (R301, R309). -/
def State.readNoted (s : State) (src world pa n : Nat) : State :=
  match s.homeOf src world pa with
  | .error _ => s
  | .ok (h, off) => (s.watched h world pa 0 src n).noteTag h off

/-- The HOME entries by which MIRRORs bind to a home: those of its node's table, and what the home itself has announced, which supersedes
them at once (R207, R211 step 5: a CXL home's piers learn of it later). -/
def State.homesAt (s : State) (home : Nat) : List Ann :=
  let own := (s.holder home).anns.filter (fun a => a.kind == AnnKind.home)
  ((s.node (s.sideNode home)).table.filter (fun a => a.kind == AnnKind.home && !own.any (fun o => supersedes o a || o.sameKey a))) ++ own

/-- The HOME entry that a MIRROR binds to, of some, seen from a home: that of its world with the longest prefix that covers it (R208). -/
def boundHome (home : Nat) (homes : List Ann) (m : Ann) : Option Ann :=
  bestAnn home (homes.filter (fun a => a.kind == AnnKind.home && a.world == m.world && decide (a.len ≤ m.len) && a.covers m.base))

/-- The MIRROR places of an address at a home (R208): holder, local offset and the entry's world. -/
def State.mirrorsAt (s : State) (home world pa : Nat) : List (Nat × Nat × Nat) :=
  ((s.node (s.sideNode home)).table.filter (fun m => m.kind == AnnKind.mirror && m.covers pa && m.holder != home
    && (m.world == 0 || m.world == world))).filterMap (fun m =>
      match boundHome home (s.homesAt home) m with
      | some a => if a.holder = home then some (m.holder, m.localBase + (pa - m.base), m.world) else none
      | none => none)

/-- A store performed while a transfer copies marks its line (R211 step 1). Stores that arrive once it is frozen are not performed;
a write of the package itself then is, and its line is among those still to be copied (notes/assumptions/25.md). -/
def State.markLines (s : State) (h : Nat) (offs : List Nat) : State :=
  { s with transfers := s.transfers.map (fun t =>
      if t.old == h && t.step ≤ 4 then
        { t with marked := distinct (t.marked ++ (offs.filter (fun o => decide (t.oldBase ≤ o) && decide (o < t.oldBase + 2 ^ (52 - t.len)))).map (· / 128)) }
      else t) }

/-- A mirrored write of the 16-byte granule of a place is under way: held at this home for its prepares, or prepared at this mirror
(R208). -/
def State.granuleHeld (s : State) (h off : Nat) : Bool :=
  s.mirrors.any (fun m => m.home == h && m.pkt.lanes.any (fun r => match s.mapAt h m.pkt.world r.pa with
    | some x => x.2 / 16 == off / 16
    | none => false))
  || s.prepared.any (fun x => x.mirror == h && x.cells.any (fun c => c.1 / 16 == off / 16))

/-- A write of the package's own has to wait: its home is frozen, whose NAK makes it come again (R211, R212), or a mirrored write of its
granule is under way at the home or at a mirror (R208). -/
def State.ownBusy (s : State) (src world pa : Nat) : Bool :=
  match s.homeOf src world pa with
  | .error _ => false
  | .ok (h, off) =>
    (match s.transferAt h off with | some t => decide (3 ≤ t.step) && decide (t.step ≤ 4) | none => false)
    || s.granuleHeld h off || (s.mirrorsAt h world pa).any (fun m => s.granuleHeld m.1 m.2.1)

/-- Bytes written by the package itself at the HOME, and at the mirrors of the place at the same moment; the piers' watches count the write
(or with `kind` 2 the atomic), and the forward to a mirror as a write (R309). -/
def State.writeOwn (s : State) (src world pa : Nat) (bs : List PByte) (kind : Nat := 1) : Except (BitVec 8) State :=
  match s.homeOf src world pa with
  | .error c => .error c
  | .ok (h, off) =>
    if s.holderSilent h then .ok s
    else
      let cells := fun base => (List.range bs.length).zip bs |>.map (fun w => (base + w.1, w.2))
      let s1 := (((s.noteTag h off).putBytes h (cells off)).markLines h [off]).watched h world pa kind src bs.length
      .ok ((s.mirrorsAt h world pa).foldl (fun s m => (s.putBytes m.1 (cells m.2.1)).watched m.1 m.2.2 pa 1 h bs.length) s1)

/-- The number that little-endian bytes make; none when a byte is poisoned. -/
def leNat : List PByte → Option Nat
  | [] => some 0
  | none :: _ => none
  | some b :: rest => (leNat rest).map (fun n => b.toNat + 256 * n)

/-- The n little-endian bytes of a number. -/
def leBytes (n v : Nat) : List PByte := (List.range n).map (fun i => some (BitVec.ofNat 8 (v / 256 ^ i)))

/-! ## Translation (R196 to R199) -/

/-- What a walk found: the page's physical address, log2 of its size, and the leaf. -/
structure Leaf where
  pa : Nat
  log2 : Nat
  glob : Bool
  rd : Bool
  wr : Bool
  ex : Bool
  deriving DecidableEq, Repr

/-- The index position, index width and the log2 size of the next table (or page) of each level (R196). -/
def walkLevels : List (Nat × Nat × Nat × Nat) := [(39, 9, 12, 0), (30, 9, 12, 30), (21, 9, 8, 21), (16, 5, 0, 16)]

/-- The address of the entry that a level of the walk reads. -/
def entryPA (pos wid table va : Nat) : Nat := table + 8 * (va / 2 ^ pos % 2 ^ wid)

/-- What a table entry says at its level (R197, R199): the leaf, or the next table; the checks in the order of the rule. -/
def entryStep (last : Bool) (nextSz leafSz e : Nat) : Except (BitVec 8) (Leaf ⊕ Nat) :=
  let addr := e / 256 % 2 ^ 44 * 256
  let bit := fun i => e / 2 ^ i % 2 == 1
  if !bit 0 then .error 0x08
  else if e / 2 ^ 52 ≠ 0 ∨ e / 32 % 8 ≠ 0 then .error 0x08
  else if last || bit 1 || bit 2 || bit 3 then
    if leafSz = 0 ∨ addr % 2 ^ leafSz ≠ 0 then .error 0x08
    else .ok (.inl { pa := addr, log2 := leafSz, glob := bit 4, rd := bit 1, wr := bit 2, ex := bit 3 })
  else if bit 4 ∨ addr % 2 ^ nextSz ≠ 0 then .error 0x08
  else .ok (.inr addr)

/-- One level: the entry is read, an acquire load at its HOME (R198), and looked at. -/
def State.walkLevel (s : State) (die world va table : Nat) (l : Nat × Nat × Nat × Nat) (last : Bool) : Except (BitVec 8) (Leaf ⊕ Nat) :=
  match s.readOwn die world (entryPA l.1 l.2.1 table va) 8 with
  | .error c => .error c
  | .ok bs => match leNat bs with
    | none => .error 0x10
    | some e => entryStep last l.2.2.1 l.2.2.2 e

/-- The walk below a table (R196, R199). -/
def State.walk (s : State) (die world va : Nat) : List (Nat × Nat × Nat × Nat) → Nat → Except (BitVec 8) Leaf
  | [], _ => .error 0x08
  | l :: rest, table =>
    match s.walkLevel die world va table l rest.isEmpty with
    | .error c => .error c
    | .ok (.inl leaf) => .ok leaf
    | .ok (.inr next) => s.walk die world va rest next

/-- The entries that the walk reads. -/
def State.walkPAs (s : State) (die world va : Nat) : List (Nat × Nat × Nat × Nat) → Nat → List Nat
  | [], _ => []
  | l :: rest, table =>
    entryPA l.1 l.2.1 table va :: (match s.walkLevel die world va table l rest.isEmpty with
      | .ok (.inr next) => s.walkPAs die world va rest next
      | _ => [])

/-- The rights an access needs (R199). -/
structure Rights where
  rd : Bool := false
  wr : Bool := false
  ex : Bool := false
  deriving DecidableEq, Repr

/-- An entry of a core's TLB serves a context and address (R197 G, R198). -/
def TlbEnt.hits (e : TlbEnt) (world : Nat) (asn : BitVec 16) (va : Nat) : Bool :=
  e.world == world && (e.glob || e.asn == asn) && va / 2 ^ e.log2 == e.va / 2 ^ e.log2

/-- The root table of a context (R196). -/
def State.rootOf (s : State) (world : Nat) (asn : BitVec 16) : Option Nat :=
  ((s.world world).ctxs.find? (fun c => c.1 == asn)).map (fun c => c.2.toNat)

/-- The walk of a VA in a context, from its root. -/
def State.walkVA (s : State) (die world : Nat) (asn : BitVec 16) (va : Nat) : Except (BitVec 8) Leaf :=
  if 2 ^ 48 ≤ va then .error 0x08
  else match s.rootOf world asn with
    | none => .error 0x08
    | some root => s.walk die world va walkLevels root

/-- What the reads of a walk leave (R301, R309). -/
def State.walkNoted (s : State) (die world : Nat) (asn : BitVec 16) (va : Nat) : State :=
  match (if 2 ^ 48 ≤ va then none else s.rootOf world asn) with
  | none => s
  | some root => (s.walkPAs die world va walkLevels root).foldl (fun s pa => s.readNoted die world pa 8) s

/-- The leaf that translates a VA for a core, with the state after a TLB miss. Between a change of the tables and an
invalidation the old or the new translation is used: which is a free value (R198). -/
def State.leafFor (s : State) (core die world : Nat) (asn : BitVec 16) (va : Nat) : State × Except (BitVec 8) Leaf :=
  match (s.core core).tlb.find? (fun e => e.hits world asn va) with
  | some e =>
    let old : Leaf := { pa := e.pa, log2 := e.log2, glob := e.glob, rd := e.rd, wr := e.wr, ex := e.ex }
    let new := s.walkVA die world asn va
    if new.toOption = some old then (s, .ok old)
    else ({ s with free := s.free + 1 }, if Config.tlbOld s.free && decide (va < 2 ^ 48) then .ok old else new)
  | none =>
    match s.walkVA die world asn va with
    | .error c => (s.walkNoted die world asn va, .error c)
    | .ok l =>
      let s := s.walkNoted die world asn va
      let e : TlbEnt := { world := world, asn := asn, glob := l.glob, va := va, log2 := l.log2, pa := l.pa, rd := l.rd, wr := l.wr, ex := l.ex }
      (s.modCore core (fun c => { c with tlb := (e :: c.tlb).take 512 }), .ok l)

/-- The physical address of a VA under a leaf. -/
def Leaf.addr (l : Leaf) (va : Nat) : Nat := l.pa + va % 2 ^ l.log2

/-- A leaf grants the rights. -/
def Leaf.grants (l : Leaf) (r : Rights) : Bool := (!r.rd || l.rd) && (!r.wr || l.wr) && (!r.ex || l.ex)

/-- Translate for a core: R199's checks in order, the rights last. -/
def State.translate (s : State) (core die world : Nat) (asn : BitVec 16) (r : Rights) (va : Nat) :
    State × Except (BitVec 8) Nat :=
  match s.leafFor core die world asn va with
  | (s, .error c) => (s, .error c)
  | (s, .ok l) => (s, if l.grants r then .ok (l.addr va) else .error 0x09)

/-- Translate for a task unit or an abutment, which keep no TLB. -/
def State.translateOwn (s : State) (die world : Nat) (asn : BitVec 16) (r : Rights) (va : Nat) : Except (BitVec 8) Nat :=
  match s.walkVA die world asn va with
  | .error c => .error c
  | .ok l => if l.grants r then .ok (l.addr va) else .error 0x09

/-! ## Clause fetch (R28, R29) -/

/-- One word of a clause at a VA: fetched with the X right from the holder R206 chooses, over a path that may be used (R225); a trap names
the word, and the holder that supplied a poisoned one (R29). The bytes are those that memory holds now: fetch is not coherent with stores, and
what is fetched of code stored since the card's dispatch the spec leaves open (DESIGN CHOICE, R28, notes/assumptions/59.md). -/
def State.fetchWord (s : State) (k : Crew) (va : VA) : State × Except Trap Word :=
  let fail := fun (c : BitVec 8) => ({ cause := c, va := some va } : Trap)
  match s.translate k.coreKey k.die k.world k.asn { ex := true } va.toNat with
  | (s, .error c) => (s, .error (fail c))
  | (s, .ok pa) =>
    match s.choose k.die k.die k.world false pa with
    | none => (s, .error (fail 0x0A))
    | some a =>
      match (if s.reaches k.die a.holder then s.mapAt a.holder k.world pa else none) with
      | none => (s, .error (fail 0x0A))
      | some (_, off) =>
        if capacity a.holder ≤ off then (s, .error (fail 0x09))
        else if s.ownerOf a.holder off ≠ k.world ∧ s.ownerOf a.holder off ≠ 0 then (s, .error (fail 0x0C))
        else
          let (h, off) := s.servedAt a.holder off
          let s1 := (s.watched h k.world pa 0 k.die 4).noteTag h off
          match leNat (if s.holderSilent h then [none] else s.bytesAt h off 4) with
          | some n => (s1, .ok (BitVec.ofNat 32 n))
          | none => (s1, .error { fail 0x10 with holder := some (BitVec.ofNat 8 h) })

/-- n words from a VA. -/
def State.fetchWords (s : State) (k : Crew) (va : VA) : Nat → State × Except Trap (List Word)
  | 0 => (s, .ok [])
  | n + 1 =>
    match s.fetchWord k va with
    | (s, .error t) => (s, .error t)
    | (s, .ok w) =>
      match s.fetchWords k (va + 4) n with
      | (s, .error t) => (s, .error t)
      | (s, .ok ws) => (s, .ok (w :: ws))

/-- MAGIC, bits [31:24] (R24). -/
def hasMagic (h : Word) : Bool := (fld h 24 8).toNat == 0xB7

/-- COUNT, bits [3:0]. -/
def countOf (h : Word) : Nat := (fld h 0 4).toNat

/-- R29 step 4: REV, bit 15, ENG, COUNT, GN with GP = 0. -/
def headerBad (h : Word) : Bool :=
  (fld h 16 4).toNat != 1 || (fld h 15 1).toNat == 1 || decide (6 ≤ (fld h 4 3).toNat) || countOf h == 0
  || ((fld h 23 1).toNat == 1 && (fld h 20 3).toNat == 0)

/-- The clause class of an assigned opcode (R27); none for an unassigned one: 0x25, 0x2F and those outside the classes (R34, R35). -/
def classOf (op : Nat) : Option Nat :=
  if op = 0x25 ∨ op = 0x2F then none
  else if 0x01 ≤ op ∧ op ≤ 0x17 then some 0
  else if (0x18 ≤ op ∧ op ≤ 0x23) ∨ op = 0x37 then some 1
  else if (0x24 ≤ op ∧ op ≤ 0x28) ∨ op = 0x3B then some 2
  else if 0x29 ≤ op ∧ op ≤ 0x2B then some 3
  else if 0x2C ≤ op ∧ op ≤ 0x36 then some 4
  else if 0x38 ≤ op ∧ op ≤ 0x3A then some 5
  else none

def isBranchOp (op : Nat) : Bool := op == 0x30 || op == 0x31 || op == 0x32

/-- R29 step 5 over the words of a clause of class eng: a class mismatch, a branch word not last, a literal outside COUNT. -/
def wordsBad (eng : Nat) : List Word → Bool
  | [] => false
  | w :: rest =>
    let op := opcodeOf w
    if isBranchOp op then !rest.isEmpty
    else if op == 0x13 then
      match rest with
      | [] => true
      | _ :: rest => eng != 0 || wordsBad eng rest
    else (match classOf op with | some c => c != eng | none => false) || wordsBad eng rest

/-- The ENG field. -/
def engOf (h : Word) : Nat := (fld h 4 3).toNat

/-- Steps 4 and 5. -/
def clauseBad (h : Word) (ws : List Word) : Bool := headerBad h || wordsBad (engOf h) ws

/-- Fetch and check the clause at a VA as R29 orders it: a trap of step 1, or the header, the words, and whether a check of
steps 2 to 5 fails. -/
def State.fetchClause (s : State) (k : Crew) (va : VA) : State × Except Trap (Word × List Word × Bool) :=
  match s.fetchWord k va with
  | (s, .error t) => (s, .error t)
  | (s, .ok h) =>
    if !hasMagic h then (s, .ok (h, [], true))
    else match s.fetchWords k (va + 4) (countOf h) with
      | (s, .error t) => (s, .error t)
      | (s, .ok ws) => (s, .ok (h, ws, clauseBad h ws))

end Sys2Proof.Machine
end

