-- ==== Sys2Proof/Machine/Control.lean ====
section
/-! DEFINITION. Clause headers (spec/02 R24, R25, R29; spec/03 R52, R55), the branch class (R51, R57 to R61, spec/07 R144) and
frontier control (R62 to R66). The end of teams and crews that `exit` and `done` share stands here too (R46, R284). -/

namespace Sys2Proof.Machine

/-! ## The end of a team and of a crew (R46, R284) -/

/-- A barrier's key: level (1 core, 2 quad, 3 die, 4 package), instance, number (R268). -/
def barKey (level inst n : Nat) : Nat := level * 2 ^ 40 + inst * 64 + n

/-- Drop the barriers of keys lo to hi. -/
def State.dropBars (s : State) (lo hi : Nat) : State := { s with bars := tclear s.bars lo hi }

/-- A team stops issuing for good; its unrun entries are discarded (R284 step 4). -/
def Team.stopForGood (t : Team) : Team := { t.discard with status := .ended, hold := .none, clause := none, late := none, trap := none, stall := 0 }

/-- Accesses that only bring values into registers: dropped when their crew retires (R284 step 5). -/
def OpRec.dropped (o : OpRec) : Bool :=
  match o.kind with
  | .load => true
  | .scratch => true
  | .plane => true
  | .matrix => true
  | .pop _ => true
  | .window => !o.owed.isEmpty
  | _ => false

/-- Loads of some teams still in flight are dropped. -/
def State.dropLoads (s : State) (uids : List Nat) : State :=
  { s with ops := s.ops.filter (fun o => !(uids.contains o.team && o.dropped))
           lands := s.lands.filter (fun l => !uids.contains l.team)
           wins := s.wins.filter (fun w => !(uids.contains w.team && !w.write)) }

/-- Every team of a crew stops, its core barriers go, and the crew waits for its writes and commands (R284 steps 4 and 5). -/
def State.retireCrew (s : State) (cid : Nat) : State :=
  match s.crew? cid with
  | none => s
  | some k =>
    let s := (k.teams.foldl (fun s u => s.modTeam u Team.stopForGood) s).dropLoads k.teams
    (s.dropBars (barKey 1 cid 0) (barKey 1 cid 64)).modCrew cid (fun k => { k with status := .retiring, drainTill := none })

/-- All teams of a crew but one have ended. -/
def State.lastTeam (s : State) (cid uid : Nat) : Bool :=
  match s.crew? cid with
  | none => false
  | some k => k.teams.all (fun u => u == uid || (match s.team? u with | some t => t.status == TeamSt.ended | none => true))

/-- A team whose last lane has exited ends; with the last team its crew retires (R46, R284). -/
def State.endTeam (s : State) (uid : Nat) : State :=
  match s.team? uid with
  | none => s
  | some t =>
    if s.lastTeam t.crew uid then s.retireCrew t.crew
    else s.modTeam uid (fun t => { t with status := .ended, clause := none, stall := 0 })

/-! ## Clause headers -/

/-- The words of a guard (R25): p(GP) with GN applied, read for every mask word. -/
def Team.guardOf (t : Team) (h : Word) : Mask :=
  let gp := (fld h 20 3).toNat
  let gn := (fld h 23 1) == 1
  (List.range t.width).map (fun k => let w := (t.unit (.pred gp k)).preds.1; if gn then ~~~w else w)

/-- Words of the mask that hold an active lane. -/
def Team.activeWords (t : Team) : List Nat := Mask.words t.active

/-- WAIT (R25): every counter named reads zero. -/
def Team.waitMet (t : Team) (h : Word) : Bool :=
  (List.range 6).all (fun k => !h.getLsbD (7 + k) || tget 0 t.waits k == 0)

/-- The E record of R25 and R55. The header that a stop's re-execution issues again is the same region entry, so it counts nothing
(R336; DEDUCED, notes/assumptions/38.md). A stop whose count is behind is missed (R335). -/
def Team.enterRegion (t : Team) (c : Clause) : Team :=
  let n := if t.stop.redo then t.regionCount else t.regionCount + 1
  let past := t.stop.arm && t.stop.e.ult n
  { t with regionVA := c.hdrVA, region := t.fr, regionCount := n, passes := 0
           stop := { t.stop with redo := false, arm := t.stop.arm && !past, missed := t.stop.missed || past, mode := t.stop.mode && !past } }

/-- The issue of an open clause: E drains the FIFO in deferring mode (R132), WAIT (R25, normal mode), the guard, then its words
may issue. -/
def State.issueClause (s : State) (t : Team) (c : Clause) : State :=
  let uid := s.cur
  let deferring := c.deferring && !t.stop.mode
  let gp := (fld c.hdr 20 3).toNat
  if c.hdr.getLsbD 14 && deferring && !t.fifo.isEmpty then s.stallTeam uid 11
  else if !deferring && !t.waitMet c.hdr then s.stallTeam uid 1
  else if t.activeWords.any (fun k => t.pend (.pred gp k)) then s.stallTeam uid 2
  else match t.activeLanes.find? (fun l => (t.unit (.pred gp (l / 32))).preds.2.getLsbD (l % 32)) with
    | some l => s.takeTrap uid c.hdrVA (.poisonConsumed l)
    | none =>
      let t := if c.hdr.getLsbD 14 then t.enterRegion c else t
      s.setTeam uid { t with clause := some { c with guard := t.guardOf c.hdr, issued := true }, stall := 0, fryldTurn := false }

/-- A header at the team's PC (R29 steps 1, 3 to 5): the words are fetched with it and the clause opens; then it issues. -/
def State.runHeader (s : State) (h : Word) : State :=
  let uid := s.cur
  match s.current with
  | none => s
  | some (t, k) =>
    if t.status ≠ .running ∨ t.hold ≠ .none then s
    else match t.late with
      | some info => s.suspend uid info
      | none =>
        if t.stopRoom = some 0 then s.stallTeam uid 11
        else match t.clause with
          | some c => if c.issued then s else s.issueClause t c
          | none =>
            match s.fetchWords k (t.pc + 4) (countOf h) with
            | (s, .error tr) => (s.violated uid tr).takeTrap uid t.pc tr
            | (s, .ok ws) =>
              if !hasMagic h || clauseBad h ws then s.takeTrap uid t.pc .illegalClause
              else
                let c : Clause := { hdrVA := t.pc, hdr := h, words := ws, deferring := t.defOn }
                let q := if t.fr.quantum < 64 then t.fr.quantum + 1 else 64
                let t := { t with clause := some c, fr := { t.fr with quantum := q } }
                (s.setTeam uid t).issueClause t c

/-- `CLAUSE_HEADER` (R24): the header word of these fields at the team's PC. -/
def execClauseHeader (n : BitVec 1) (g : BitVec 3) (v : BitVec 4) (e y : BitVec 1) (w : BitVec 6) (c : BitVec 3) (k : BitVec 4)
    (s : State) : Answered :=
  .next (s.runHeader (0xB7#8 ++ n ++ g ++ v ++ 0#1 ++ e ++ y ++ w ++ c ++ k))

/-! ## Transfers -/

/-- A VA n words on from a header (R31). -/
def wordsOn (hdr : VA) (off : BitVec w) : VA := hdr + (off.signExtend 64) * 4

/-- The checks of a transfer's target (R29 steps 1 and 2): a fetch trap, or 0x03 where a header check fails. -/
def State.checkTarget (s : State) (k : Crew) (va : VA) : State × Option Trap :=
  match s.fetchClause k va with
  | (s, .error t) => (s, some t)
  | (s, .ok (_, _, bad)) => (s, if bad then some .misframed else none)

/-- R51: taken lanes and the others part. -/
def Team.split (t : Team) (c : Clause) (taken : Nat → Bool) (target : VA) : Team :=
  let tk := t.activeLanes.filter taken
  let nt := t.activeLanes.filter (fun l => !taken l)
  if nt.isEmpty then t.goTo target
  else if target.ule c.hdrVA then
    { t with fr := t.fr.setLanes nt (.waiting c.fallThrough) }.goTo target
  else { t with fr := t.fr.setLanes tk (.waiting target) }.goTo c.fallThrough

/-- The team, crew and open clause that a control word acts on. -/
def State.flow (s : State) (uid : Nat) (k : Team → Crew → Clause → Done) : Done :=
  match s.team? uid with
  | none => .ok { s := s }
  | some t =>
    match s.crew? t.crew, t.clause with
    | some cr, some c => k t cr c
    | _, _ => .ok { s := s }

/-- Send the lanes that `taken` names to a target, after its checks; with no lane taken the word is passed (R51, R56). -/
def State.branch (s : State) (uid : Nat) (taken : Nat → Bool) (target : VA) (writes : List (UnitRef × UnitVal) := []) : Done :=
  s.flow uid (fun t k c =>
    if t.activeLanes.any taken then
      match s.checkTarget k target with
      | (_, some tr) => .trap tr
      | (s, none) => .ok { s := s.modTeam uid (fun t => t.split c taken target), writes := writes, moved := true }
    else .ok { s := s, writes := writes })

/-- The link pair of some lanes: the fall-through VA into v2:v3 (R58, R60). -/
def linkWrites (ls : List Nat) (va : VA) : List (UnitRef × UnitVal) :=
  ls.flatMap (fun l => [(.vec 2 l, .w (.word (va.extractLsb' 0 32))), (.vec 3 l, .w (.word (va.extractLsb' 32 32)))])

/-- The lanes a per-lane condition takes (R58), or the trap of a poisoned one. -/
def Env.condition (e : Env) (p : BitVec 3) (n : BitVec 1) : Except Trap (List Nat) :=
  let ls := Mask.lanes e.mask
  match ls.find? (fun l => (e.p p.toNat l).2) with
  | some l => .error (.poisonConsumed l)
  | none => .ok (ls.filter (fun l => (e.p p.toNat l).1 != (n == 1)))

/-- `br` (R58). -/
def brPlan (p : BitVec 3) (n : BitVec 1) (o : BitVec 18) : Plan where
  srcs := fun _ m => [pSrc p.toNat m]
  how := .park
  reason := 2
  act := fun e s => match e.condition p n with
    | .error tr => .trap tr
    | .ok ls => s.branch e.uid ls.contains (wordsOn e.hdrVA o)

/-- `call` (R58): the taken lanes' link pair is written; v3 beyond the allotment traps 0x04. -/
def callPlan (p : BitVec 3) (n : BitVec 1) (o : BitVec 18) : Plan where
  regs := checkV [3]
  srcs := fun _ m => [pSrc p.toNat m]
  dsts := fun _ m => vDst 2 m ++ vDst 3 m
  how := .park
  reason := 2
  act := fun e s => match e.condition p n with
    | .error tr => .trap tr
    | .ok ls => s.flow e.uid (fun _ _ c => s.branch e.uid ls.contains (wordsOn e.hdrVA o) (linkWrites ls c.fallThrough))

/-- `bra` (R58): a jump of every active lane. -/
def braPlan (o : BitVec 18) : Plan where
  whole := true
  noGuard := true
  how := .free
  act := fun e s => s.branch e.uid (fun _ => true) (wordsOn e.hdrVA o)

/-- `exit` (R58, R53, R46): the lanes whose condition holds exit. Held lanes whose join that completes go on; with no lane left
the team ends, and the last exit of the crew checks the store-poison flag first (R246). -/
def exitPlan (p : BitVec 3) (n : BitVec 1) : Plan where
  srcs := fun _ m => [pSrc p.toNat m]
  how := .drain
  reason := 2
  act := fun e s => match e.condition p n with
    | .error tr => .trap tr
    | .ok ls => s.flow e.uid (fun t k _ =>
      let t1 := { t with fr := t.fr.setLanes ls .exited }
      if t1.allExited then
        if s.lastTeam t.crew e.uid && k.storePoison then .trap { cause := 0x11 }
        else .ok { s := (s.setTeam e.uid t1.close).endTeam e.uid, moved := true }
      else if t1.activeLanes.isEmpty then .ok { s := s.setTeam e.uid t1.close.joinComplete, moved := true }
      else .ok { s := s.setTeam e.uid t1 })

/-- `bz` and `bnz` (R59): per lane on a vector word or predicate, or of the whole team on a uniform. -/
def bzPlan (c : BitVec 3) (r : BitVec 7) (o : BitVec 12) (zero : Bool) : Plan where
  whole := c = 1
  noGuard := true
  ill := illClass c 3
  regs := fun t m =>
    if c = 0 then checkV [r.toNat] t m else if c = 2 ∧ 7 < r.toNat then some .illegalOperand else none
  srcs := fun _ m => if c = 0 then [vSrc r.toNat m] else if c = 1 then [uSrc r.toNat] else [pSrc r.toNat m]
  how := .park
  reason := 2
  act := fun e s =>
    let ls := Mask.lanes e.mask
    let test := fun (v : Word) => (v == 0) == zero
    if c = 1 then
      match e.u r.toNat with
      | .poison => .trap .poisonUniform
      | .word v => s.branch e.uid (fun _ => test v) (wordsOn e.hdrVA o)
    else
      let bad := fun l => if c = 0 then (e.v r.toNat l).isPoison else (e.p r.toNat l).2
      let go := fun l => if c = 0 then test (e.v r.toNat l).bits else (!(e.p r.toNat l).1) == zero
      match ls.find? bad with
      | some l => .trap (.poisonConsumed l)
      | none => s.branch e.uid (fun l => ls.contains l && go l) (wordsOn e.hdrVA o)

/-- `bpend` and `bpend.n` (R144): whether a register is pending, or a queue holds no result. -/
def bpendPlan (c : BitVec 3) (r : BitVec 7) (o : BitVec 12) (want : Bool) : Plan where
  whole := true
  noGuard := true
  ill := illClass c 5
  absent := fun s => c == 4 && !s.capNet && decide (10 ≤ r.toNat) && decide (r.toNat ≤ 13)
  regs := fun t m =>
    match c.toNat with
    | 0 => checkV [r.toNat] t m
    | 1 => none
    | 2 => if 7 < r.toNat then some .illegalOperand else none
    | 3 => if t.aN ≤ r.toNat then some .illegalOperand else none
    | _ => if 15 < r.toNat then some .illegalOperand else if 14 ≤ r.toNat then some .queueMisuse else none
  how := .free
  act := fun e s => s.flow e.uid (fun t _ _ =>
    let pend := match c.toNat with
      | 0 => t.activeLanes.any (fun l => t.pend (.vec r.toNat l))
      | 1 => t.pend (.uni r.toNat)
      | 2 => t.activeWords.any (fun k => t.pend (.pred r.toNat k))
      | 3 => t.pend (.acc r.toNat)
      | _ => (tget [] t.results r.toNat).isEmpty
    s.branch e.uid (fun _ => pend == want) (wordsOn e.hdrVA o))

/-! ## Indirect transfers (R60) -/

/-- A VA from a register pair. -/
def pairVA (lo hi : Word) : VA := hi ++ lo

/-- The distinct VAs of a list. -/
def distinctVA (xs : List VA) : List VA := xs.eraseDups

/-- The checks over every distinct target, each kind over all before the next: alignment, translation, header. The first target that
fails comes with its trap. -/
def State.checkTargets (s : State) (k : Crew) (ts : List VA) : State × Option (VA × Trap) :=
  match ts.find? (fun t => t.toNat % 4 != 0) with
  | some t => (s, some (t, .misframed))
  | none =>
    let r := ts.foldl (fun (acc : State × Option (VA × Trap) × Option VA) t =>
      match acc.2.1 with
      | some _ => acc
      | none => match acc.1.fetchClause k t with
        | (s, .error tr) => (s, some (t, tr), acc.2.2)
        | (s, .ok (_, _, bad)) => (s, none, if bad then some (acc.2.2.getD t) else acc.2.2)) (s, none, none)
    (r.1, match r.2.1 with | some x => some x | none => r.2.2.map (fun t => (t, .misframed)))

/-- A target whose clause cannot be fetched for want of a translation (R199). -/
def State.targetUnmapped (s : State) (k : Crew) (va : VA) : Bool :=
  match s.fetchClause k va with
  | (s, .error tr) => match (s.translate k.coreKey k.die k.world k.asn { ex := true } (tr.va.getD va).toNat).2 with
    | .error _ => true
    | .ok _ => false
  | _ => false

/-- A failing target of some lanes, each with its own: reported for the lowest lane that has it (R7); where its translation failed, the
lane mask holds every lane of that mask word whose target's translation failed (R199). -/
def State.targetTrap (s : State) (k : Crew) (ls : List Nat) (dst : Nat → VA) (x : VA × Trap) : Trap :=
  match ls.find? (fun l => dst l == x.1) with
  | none => x.2
  | some l =>
    { x.2 with
      lane := some l
      mask := if s.targetUnmapped k x.1 then
          some (maskWord (fun j => ls.contains (l / 32 * 32 + j) && s.targetUnmapped k (dst (l / 32 * 32 + j))))
        else none }

/-- Each lane to its own target: the lanes of the lowest go on, the others wait at theirs (R51). -/
def Team.scatter (t : Team) (dst : Nat → VA) : Team :=
  match leastVA (t.activeLanes.map dst) with
  | none => t
  | some m =>
    { t with fr := (t.activeLanes.filter (fun l => dst l != m)).foldl (fun f l => f.setLanes [l] (.waiting (dst l))) t.fr }.goTo m

/-- An indirect transfer of the active lanes: each to its own VA, or with `whole` all to one. -/
def State.jump (s : State) (uid : Nat) (dst : Nat → VA) (link whole : Bool) : Done :=
  s.flow uid (fun t k c =>
    match s.checkTargets k (distinctVA (t.activeLanes.map dst)) with
    | (s, some x) => .trap (if whole then x.2 else s.targetTrap k t.activeLanes dst x)
    | (s, none) => .ok { s := s.modTeam uid (fun t => t.scatter dst), moved := true
                         writes := if link then linkWrites t.activeLanes c.fallThrough else [] })

/-- `jmps`, `calls` and `ret` through a uniform pair. -/
def jmpsPlan (r : BitVec 7) (o : BitVec 12) (link : Bool) : Plan where
  whole := true
  noGuard := true
  regs := fun t m => match evenU r with
    | some tr => some tr
    | none => if link then checkV [3] t m else none
  srcs := fun _ _ => [uSrc r.toNat, uSrc (r.toNat + 1)]
  dsts := fun t _ => if link then vDst 2 t.active ++ vDst 3 t.active else []
  how := .park
  reason := 2
  act := fun e s => match e.u r.toNat, e.u (r.toNat + 1) with
    | .word lo, .word hi => s.jump e.uid (fun _ => wordsOn (pairVA lo hi) o) link true
    | _, _ => .trap .poisonUniform

/-- `ret` through a vector pair. -/
def retvPlan (r : BitVec 7) (o : BitVec 12) : Plan where
  noGuard := true
  regs := fun t m => match evenU r with
    | some tr => some tr
    | none => checkV [r.toNat, r.toNat + 1] t m
  srcs := fun _ m => [vSrc r.toNat m, vSrc (r.toNat + 1) m]
  how := .park
  reason := 2
  act := fun e s =>
    match (Mask.lanes e.mask).find? (fun l => (e.v r.toNat l).isPoison || (e.v (r.toNat + 1) l).isPoison) with
    | some l => .trap (.poisonConsumed l)
    | none => s.jump e.uid (fun l => wordsOn (pairVA (e.v r.toNat l).bits (e.v (r.toNat + 1) l).bits) o) false false

/-! ## Hardware loops (R61) -/

/-- The VA of the word after the word at `i` words into some words, where it begins an instruction; a literal is no word start. -/
def wordAfter : List Word → Nat → Nat → Option Nat
  | [], _, _ => none
  | w :: rest, at0, want =>
    if opcodeOf w == 0x13 then
      if want = at0 ∨ want = at0 + 1 then some (at0 + 2)
      else match rest with
        | [] => none
        | _ :: rest => wordAfter rest (at0 + 2) want
    else if want = at0 then some (at0 + 1) else wordAfter rest (at0 + 1) want

/-- The VA of the word after a loop's end word (R56), found by walking the clauses of the body from its start; an end word that
is not met so is taken alone. -/
def State.afterEnd (s : State) (k : Crew) : Nat → VA → VA → VA
  | 0, _, stop => stop + 4
  | n + 1, hdr, stop =>
    let alone := match s.fetchWord k stop with
      | (_, .ok w) => if opcodeOf w == 0x13 then stop + 8 else stop + 4
      | _ => stop + 4
    if stop.ult hdr then alone
    else match s.fetchClause k hdr with
      | (_, .ok (h, ws, false)) =>
        let off := (stop - hdr).toNat
        if off < 4 * (1 + countOf h) then
          (if off % 4 = 0 ∧ 4 ≤ off then
            match wordAfter ws 1 (off / 4) with
            | some i => hdr + BitVec.ofNat 64 (4 * i)
            | none => alone
          else alone)
        else s.afterEnd k n (hdr + BitVec.ofNat 64 (4 * (1 + countOf h))) stop
      | _ => alone

/-- Start a loop counter as the most recently started one. -/
def Frontier.startLoop (f : Frontier) (l : BitVec 1) (x : LoopC) : Frontier :=
  if l = 0 then { f with l0 := x, inner1 := false } else { f with l1 := x, inner1 := true }

/-- `loop` (R61). -/
def loopPlan (l : BitVec 1) (a : BitVec 7) (o : BitVec 18) : Plan where
  whole := true
  noGuard := true
  srcs := fun _ _ => [uSrc a.toNat]
  how := .park
  reason := 2
  act := fun e s => match e.u a.toNat with
    | .poison => .trap .poisonUniform
    | .word n => s.flow e.uid (fun _ k c =>
      let stop := wordsOn e.hdrVA o
      if n = 0 then
        let va := s.afterEnd k 65536 c.fallThrough stop
        match s.checkTarget k va with
        | (_, some tr) => .trap tr
        | (s, none) => .ok { s := s.modTeam e.uid (fun t => t.goTo va), moved := true }
      else .ok { s := s.modTeam e.uid (fun t =>
        { t with fr := t.fr.startLoop l { count := n, start := c.fallThrough, stop := stop, active := true } }) })

/-! ## Frontier control (R62 to R66) -/

/-- `frmode` (R63). -/
def frmodePlan (m : BitVec 8) : Plan where
  whole := true
  ill := illMax m 1
  how := .free
  act := fun e s => .ok { s := s.modTeam e.uid (fun t => { t with fr := { t.fr with rotate := m == 1, quantum := 0 } }) }

/-- `fryld` (R64): the group with the lowest wait-PC above, else the lowest, takes the turn, for one clause in PRIORITY mode. Where the word
ends a loop, the test is made as for any word, and the lanes of a loop that goes on wait at its start (R56; DEDUCED,
notes/assumptions/16.md). -/
def fryldPlan : Plan where
  whole := true
  how := .free
  act := fun e s => s.flow e.uid (fun t _ c =>
    match rotateTarget c.hdrVA t.waitPCs with
    | none => .ok { s := s }
    | some m => .ok { s := s.modTeam e.uid (fun t =>
        let r := t.endTest 1
        { ((r.1.parkActive (r.2.getD c.fallThrough)).close.switchTo m) with fryldTurn := true }), moved := true })

/-- The word is the last of its clause. -/
def lastWord (t : Team) : Bool := match t.clause with | some c => c.idx + 1 == c.words.length | none => false

/-- The VA of the word at which the team stands. -/
def Team.wordVA (t : Team) : VA := match t.clause with | some c => c.wordVA c.idx | none => t.pc

/-- Lanes arrive at a join: held at the fall-through; the last one completes it. Where the word ends a loop, each execution is tested, and
the lanes of a completed join go on at the start of a loop that goes on (R56; DEDUCED, notes/assumptions/16.md). -/
def Team.arriveJoin (t : Team) (fall : VA) (deadline : Option (BitVec 64)) : Team :=
  let r := t.endTest 1
  let t1 := { r.1 with joinDeadline := deadline
                       fr := { r.1.fr.setLanes t.activeLanes (.held fall) with joinVA := some t.wordVA } }
  let t2 := t1.close.joinComplete
  if t2.fr.joinVA.isNone then { t2 with pc := r.2.getD t2.pc } else t2

/-- `join` (R65): the first arrival reads the timeout. -/
def joinPlan (a : BitVec 7) : Plan where
  whole := true
  place := fun t => if lastWord t then none else some .illegalInstruction
  regs := fun t _ => match t.fr.joinVA with
    | some va => if va = t.wordVA then none else some .illegalOperand
    | none => none
  srcs := fun t _ => if t.fr.joinVA.isSome then [] else [uSrc a.toNat]
  how := .drain
  reason := 2
  act := fun e s => s.flow e.uid (fun t k c =>
    let arrive := fun (dl : Option (BitVec 64)) =>
      Done.ok { s := s.setTeam e.uid (t.arriveJoin c.fallThrough dl), moved := true }
    if t.fr.joinVA.isSome then arrive t.joinDeadline
    else match e.u a.toNat with
      | .poison => .trap .poisonUniform
      | .word n => arrive (if n = 0 then none else some (s.dccOf k + n.setWidth 64)))

/-- `mact` (R66). -/
def mactPlan (d : BitVec 7) (k : BitVec 8) : Plan where
  whole := true
  ill := illMax k 32
  dsts := fun _ _ => [.uni d.toNat]
  how := .park
  act := fun e s =>
    let v := if k.toNat = 32 then maskWord (fun j => e.mask.getD j 0 != 0) else e.mask.getD k.toNat 0
    .ok { s := s, writes := [(.uni d.toNat, .w (.word v))] }

/-! ## The instructions -/

/-- `BR` (R58). Branches per lane on a predicate, splitting lanes as needed. -/
def planBr (p : BitVec 3) (n : BitVec 1) (o : BitVec 18) : Plan :=
  brPlan p n o

def execBr (p : BitVec 3) (n : BitVec 1) (o : BitVec 18) (s : State) : Answered := issuePlain (planBr p n o) s

/-- `BRA` (R58). Jumps all active lanes to a target. -/
def planBra (o : BitVec 18) : Plan :=
  braPlan o

def execBra (o : BitVec 18) (s : State) : Answered := issuePlain (planBra o) s

/-- `CALL` (R58). Calls per lane, writing the return VA into v2:v3. -/
def planCall (p : BitVec 3) (n : BitVec 1) (o : BitVec 18) : Plan :=
  callPlan p n o

def execCall (p : BitVec 3) (n : BitVec 1) (o : BitVec 18) (s : State) : Answered := issuePlain (planCall p n o) s

/-- `EXIT` (R58). Exits the lanes whose condition holds; the team ends when none remain. -/
def planExit (p : BitVec 3) (n : BitVec 1) : Plan :=
  exitPlan p n

def execExit (p : BitVec 3) (n : BitVec 1) (s : State) : Answered := issuePlain (planExit p n) s

/-- `BZ` (R59). Branches where the tested register is zero. -/
def planBz (c : BitVec 3) (r : BitVec 7) (o : BitVec 12) : Plan :=
  bzPlan c r o true

def execBz (c : BitVec 3) (r : BitVec 7) (o : BitVec 12) (s : State) : Answered := issuePlain (planBz c r o) s

/-- `BNZ` (R59). Branches where the tested register is nonzero. -/
def planBnz (c : BitVec 3) (r : BitVec 7) (o : BitVec 12) : Plan :=
  bzPlan c r o false

def execBnz (c : BitVec 3) (r : BitVec 7) (o : BitVec 12) (s : State) : Answered := issuePlain (planBnz c r o) s

/-- `BPEND` (R144). Moves every active lane to the target when the register is pending. -/
def planBpend (c : BitVec 3) (r : BitVec 7) (o : BitVec 12) : Plan :=
  bpendPlan c r o true

def execBpend (c : BitVec 3) (r : BitVec 7) (o : BitVec 12) (s : State) : Answered := issuePlain (planBpend c r o) s

/-- `BPEND_N` (R144). Moves every active lane to the target when the register is not pending. -/
def planBpendN (c : BitVec 3) (r : BitVec 7) (o : BitVec 12) : Plan :=
  bpendPlan c r o false

def execBpendN (c : BitVec 3) (r : BitVec 7) (o : BitVec 12) (s : State) : Answered := issuePlain (planBpendN c r o) s

/-- `JMPS` (R60). Jumps to a VA held in a uniform pair. -/
def planJmps (r : BitVec 7) (o : BitVec 12) : Plan :=
  jmpsPlan r o false

def execJmps (r : BitVec 7) (o : BitVec 12) (s : State) : Answered := issuePlain (planJmps r o) s

/-- `CALLS` (R60). Calls a VA held in a uniform pair. -/
def planCalls (r : BitVec 7) (o : BitVec 12) : Plan :=
  jmpsPlan r o true

def execCalls (r : BitVec 7) (o : BitVec 12) (s : State) : Answered := issuePlain (planCalls r o) s

/-- `RET` (R60). Returns through a vector or uniform pair. -/
def planRet (c : BitVec 1) (r : BitVec 7) (o : BitVec 12) : Plan :=
  if c = 1 then jmpsPlan r o false else retvPlan r o

def execRet (c : BitVec 1) (r : BitVec 7) (o : BitVec 12) (s : State) : Answered := issuePlain (planRet c r o) s

/-- `LOOP` (R61). Starts a hardware loop counter or skips the body when the count is 0. -/
def planLoop (l : BitVec 1) (a : BitVec 7) (o : BitVec 18) : Plan :=
  loopPlan l a o

def execLoop (l : BitVec 1) (a : BitVec 7) (o : BitVec 18) (s : State) : Answered := issuePlain (planLoop l a o) s

/-- `FRMODE` (R63). Sets the frontier mode and resets the quantum count. -/
def planFrmode (m : BitVec 8) : Plan :=
  frmodePlan m

def execFrmode (m : BitVec 8) (s : State) : Answered := issuePlain (planFrmode m) s

/-- `FRYLD` (R64). Ends the active group's turn and switches to the next group. -/
def planFryld : Plan :=
  fryldPlan

def execFryld (s : State) : Answered := issuePlain (planFryld ) s

/-- `JOIN` (R65). Holds the active lanes at a join until every lane arrives. -/
def planJoin (a : BitVec 7) : Plan :=
  joinPlan a

def execJoin (a : BitVec 7) (s : State) : Answered := issuePlain (planJoin a) s

/-- `MACT` (R66). Writes a guard-restricted mask word or the summary into a uniform. -/
def planMact (d : BitVec 7) (k : BitVec 8) : Plan :=
  mactPlan d k

def execMact (d : BitVec 7) (k : BitVec 8) (s : State) : Answered := issuePlain (planMact d k) s

end Sys2Proof.Machine
end

