-- ==== Sys2Proof/Machine/Global.lean ====
section
/-! DEFINITION. Global loads, stores and atomics as the core and its die issue them: addresses (spec/12 R222), the checks of
R223, packets and paths (R224, R225), the waits of R226 to R230, and the entries of R233 to R238. What holders do with the
packets stands in Fabric.lean. -/

namespace Sys2Proof.Machine

/-! ## Lanes' accesses -/

/-- One access of an instruction: its lane, its address (none when it comes from a poisoned word), whether it stores poison, and
the requests it makes of its holder at a physical address. -/
structure Acc where
  lane : Nat
  va : Option VA
  bad : Bool
  reqs : Nat → List LaneReq

/-- An access with its physical address and the entry R206 chose. -/
structure Placed where
  acc : Acc
  pa : Nat
  ann : Ann

/-- What an instruction asks of memory: rights, access size, HOME entries only, a touch of v0 (R70), a uniform form. -/
structure Ask where
  rights : Rights
  size : Nat
  homeOnly : Bool
  touch : Bool := false
  uniform : Bool := false

/-- The lane a trap reports: none for a whole-team form. -/
def Ask.lane (q : Ask) (a : Acc) : Option Nat := if q.uniform then none else some a.lane

/-- Step 3 of R223 over every access: each is translated, in lane order, and every failure is kept. -/
def State.translateAll (s : State) (k : Crew) (q : Ask) : List Acc → State × List (Acc × Except (BitVec 8) Nat)
  | [] => (s, [])
  | a :: rest =>
    let (s, r) := s.translate k.coreKey k.die k.world k.asn q.rights (a.va.getD 0).toNat
    let (s, rs) := s.translateAll k q rest
    (s, (a, r) :: rs)

/-- A failure of a translation that traps: a touch of v0 drops 0x08 (R70, R292). -/
def Ask.fails (q : Ask) (r : Except (BitVec 8) Nat) : Bool :=
  match r with
  | .error c => !(q.touch && c == 0x08)
  | .ok _ => false

/-- The trap of step 3: the lowest failing lane's, with every failing lane of its mask word (R199). -/
def Ask.walkTrap (q : Ask) (rs : List (Acc × Except (BitVec 8) Nat)) : Option Trap :=
  match rs.find? (fun r => q.fails r.2) with
  | some (a, .error c) =>
    let m := maskWord (fun j => rs.any (fun r => q.fails r.2 && r.1.lane == a.lane / 32 * 32 + j))
    some { cause := c, lane := q.lane a, mask := if q.uniform then none else some m, va := some (a.va.getD 0) }
  | _ => none

/-- The checks of R223, in order, over every access before the next check; then every access with its holder. -/
def State.resolve (s : State) (k : Crew) (q : Ask) (xs : List Acc) : State × Except Trap (List Placed) :=
  match xs.find? (fun a => a.va.isNone) with
  | some a => (s, .error { cause := 0x10, lane := q.lane a })
  | none =>
    match xs.find? (fun a => (a.va.getD 0).toNat % q.size != 0) with
    | some a => (s, .error (.permission (q.lane a) (a.va.getD 0)))
    | none =>
      let (s, rs) := s.translateAll k q xs
      match q.walkTrap rs with
      | some tr => (s, .error tr)
      | none =>
        let ps := rs.filterMap (fun r => match r.2 with | .ok pa => some (r.1, pa) | .error _ => none)
        let cs := ps.map (fun p => (p.1, p.2, s.choose k.die k.die k.world q.homeOnly p.2))
        match cs.find? (fun c => match c.2.2 with | some a => (s.orderedPath k.die a.holder).isNone | none => true) with
        | some c => (s, .error { cause := 0x0A, lane := q.lane c.1, va := c.1.va })
        | none =>
          let out := cs.filterMap (fun c => c.2.2.map (fun a => ({ acc := c.1, pa := c.2.1, ann := a } : Placed)))
          match out.find? (fun p => p.acc.bad && p.ann.noPoison) with
          | some p => (s, .error { cause := 0x10, lane := q.lane p.acc })
          | none => (s, .ok out)

/-! ## Waits (R227 to R230) -/

/-- An acquire of the team has not landed: it holds back every later access, command and MMA (R228). -/
def State.acquiring (s : State) (uid : Nat) : Bool := (s.opsOf uid).any (fun o => o.acquire)

/-- R227: an unacknowledged write of the team to a granule holds back an access to it, unless both travel the ordered path to
one holder. -/
def State.granuleBusy (s : State) (uid : Nat) (holder : Nat) (ordered : Bool) (gran : Nat) : Bool :=
  (s.opsOf uid).any (fun o => o.outs.any (fun x =>
    x.write && x.grans.contains gran && !(x.ordered && ordered && x.holder == holder)))

def ReqKind.writes : ReqKind → Bool
  | .load => false
  | .acquire => false
  | _ => true

/-- The packets without their final answer: on their way or held back, answered and not yet back, held at a home for its mirrors. -/
def State.outPkts (s : State) : List Packet := s.pkts ++ s.replies.map Reply.pkt ++ s.mirrors.map MirrorWrite.pkt

/-- Write packets of a die to a holder on a path that have been sent and are not acknowledged (R229). -/
def State.unacked (s : State) (src holder path : Nat) : Nat :=
  (s.outPkts.filter (fun p => p.src == src && p.holder == holder && p.path == path && p.kind.writes && !p.unsent)).length

/-- The die holds a packet back: its path's class 0 is off (R230), or one write packet more would be 32,768 unacknowledged ones on it
(R229). -/
def State.egressFull (s : State) (src holder path : Nat) (write : Bool) : Bool :=
  s.egressOff src holder path || (write && decide (32767 ≤ s.unacked src holder path))

/-- The path that a packet takes now (R225). -/
def State.pickPath (s : State) (src holder : Nat) (ordered : Bool) : Option Nat :=
  if ordered then s.orderedPath src holder else s.relaxedPath src holder

/-- The instructions before a release that it waits for: loads, writes and copies (R228), scratchpad accesses, among them the plane fetches
of MMA passes (R261). -/
def State.earlier (s : State) (uid : Nat) : List Nat :=
  ((s.opsOf uid).filter (fun o => match o.kind with
    | .load => true
    | .store => true
    | .atomic => true
    | .copy => true
    | .scratch => true
    | .window => true
    | .plane => true
    | .matrix => true
    | _ => false)).map OpRec.id

/-- Whether an earlier instruction no longer holds a release back: its loads have landed, its writes are acknowledged but, with
the ordered flag, those to the release's own holder (R228, R229 step 1). -/
def OpRec.released (o : OpRec) (exempt : Option Nat) : Bool :=
  match o.kind with
  | .store => o.outs.all (fun x => exempt == some x.holder)
  | .atomic => o.outs.all (fun x => exempt == some x.holder)
  | _ => o.done

/-- The 16-byte granules of a packet; no lane's access crosses one (R223). -/
def Packet.grans (p : Packet) : List Nat := distinct (p.lanes.map (fun r => r.pa / 16))

/-- An earlier pass of a packet's own instruction writes a granule of it and is not acknowledged, and the two do not both travel the
ordered path to one holder: the later access of the team is held back (R227). -/
def State.passAhead (s : State) (p : Packet) : Bool :=
  s.outPkts.any (fun q => q.op == p.op && decide (q.pass < p.pass) && q.kind.writes && q.grans.any p.grans.contains
    && !(q.ordered && p.ordered && q.holder == p.holder))

/-- The condition under which a held-back packet may be sent (R227 to R230). -/
def State.maySend (s : State) (p : Packet) : Bool :=
  p.after.all (fun id => match s.op? id with
    | some o => o.released (if p.ofFlag then some p.holder else none)
    | none => true)
  && !s.passAhead p
  && !s.egressFull p.src p.holder ((s.pickPath p.src p.holder p.ordered).getD p.path) p.kind.writes

/-- Key of SENT(h, p) in a die's table (R228). -/
def sentKey (holder path : Nat) : Nat := holder * 4 + path

/-- A packet on a path from its die, for the measure of R343; a packet to the die's own pool uses none. -/
def State.enqueue (s : State) (p : Packet) : State :=
  if p.src = p.holder then s
  else
    let x : Egress := { pkt := p.id, holder := p.holder, path := p.path, bytes := 1 + Config.egressBytes s.free, at_ := (s.die p.src).dcc, n := s.free }
    ({ s with free := s.free + 1 }).modDie p.src (fun d => { d with egress := d.egress.filter (fun (y : Egress) => !y.acked d.dcc) ++ [x] })

/-- Send a packet on the path it takes now: a release with the ordered flag takes the counts first; a write packet then counts (R225, R228,
R229). -/
def State.sendPacket (s : State) (p : Packet) : State × Packet :=
  let p := { p with path := (s.pickPath p.src p.holder p.ordered).getD p.path }
  let d := s.die p.src
  let counts := (List.range 4).map (fun i => tget 0 d.sent (sentKey p.holder i))
  let p := { p with unsent := false, carried := if p.ofFlag then some counts else none }
  if p.kind.writes then
    let pos := tget 0 d.sent (sentKey p.holder p.path) + 1
    (((s.modDie p.src (fun d => { d with sent := tset 0 d.sent (sentKey p.holder p.path) pos })).enqueue p), { p with pos := pos })
  else (s.enqueue p, p)

/-! ## Issue -/

/-- What the packets of an instruction have in common. -/
structure Launch where
  kind : ReqKind
  ordered : Bool
  release : Bool := false
  ofFlag : Bool := false
  acquire : Bool := false

/-- Group accesses by mask word, holder and line: one packet each (R224). -/
def groupKeys (ps : List Placed) : List (Nat × Nat × Nat) :=
  ps.foldl (fun acc p =>
    let k := (p.acc.lane / 32, p.ann.holder, p.pa / 128)
    if acc.contains k then acc else acc ++ [k]) []

/-- The packet of one group, and the running number it used. -/
def State.makePacket (s : State) (e : Env) (cid : Nat) (k : Crew) (op : Nat) (l : Launch) (size : Nat) (after : List Nat)
    (ps : List Placed) (key : Nat × Nat × Nat) : State :=
  let mine := ps.filter (fun p => (p.acc.lane / 32, p.ann.holder, p.pa / 128) == key)
  let ann := match mine with | p :: _ => p.ann | [] => { base := 0, len := 0, holder := 0, localBase := 0 }
  let path := (s.pickPath k.die ann.holder l.ordered).getD 0
  let (id, s) := s.fresh
  let p : Packet :=
    { id := id, op := op, team := e.uid, crew := cid, hdrVA := e.hdrVA, src := k.die, world := k.world, holder := ann.holder,
      path := path, ordered := l.ordered, pass := key.1, kind := l.kind, size := size
      lanes := mine.flatMap (fun p => p.acc.reqs p.pa), ofFlag := l.ofFlag
      after := if l.release then after else [], unsent := true
      stamp := { base := ann.base, len := ann.len, holder := ann.holder, world := ann.world, gen := ann.gen } }
  let (s, p) := if s.maySend p then s.sendPacket p else (s, p)
  { s with pkts := s.pkts ++ [p] }

/-- The outstanding entry of a packet. -/
def Packet.out (p : Packet) : Out :=
  { pkt := p.id, holder := p.holder, ordered := p.ordered, write := p.kind.writes, grans := p.grans }

/-- Issue the packets of an instruction: they and the record of the instruction (R26, R224). `dest` gives the units a lane's
value goes to. -/
def State.launch (s : State) (e : Env) (cid : Nat) (k : Crew) (l : Launch) (kind : OpKind) (size : Nat) (sgn : Bool) (ps : List Placed)
    (dest : Nat → List UnitRef) : State :=
  let after := s.earlier e.uid
  let (op, s) := s.fresh
  let n := s.pkts.length
  let s := (groupKeys ps).foldl (fun s key => s.makePacket e cid k op l size after ps key) s
  let mine := s.pkts.drop n
  let words := distinct (ps.map (fun p => p.acc.lane / 32))
  let owed := fun lane => (dest lane).map (fun r => ({ unit := r, gen := e.gen r } : Owed))
  let gathers := if l.kind.writes && (ps.all (fun p => (dest p.acc.lane).isEmpty)) then [] else words.map (fun w =>
    ({ pkts := (mine.filter (fun p => p.lanes.any (fun r => r.lane / 32 == w))).map Packet.id, got := [], size := size, signed := sgn
       dest := (ps.filter (fun p => p.acc.lane / 32 == w)).flatMap (fun p => (owed p.acc.lane).map (fun o => (p.acc.lane, o))) } : Gather))
  s.addOp { id := op, team := e.uid, kind := kind, w := e.w, hdrVA := e.hdrVA, acquire := l.acquire
            outs := mine.map Packet.out, gathers := gathers
            owed := ps.flatMap (fun p => owed p.acc.lane) }

/-- A packet of the team is held back at egress, and with it the team (R229, R230). -/
def State.heldBack (s : State) (uid : Nat) : Bool :=
  s.pkts.any (fun p => p.team == uid && p.unsent && s.egressFull p.src p.holder ((s.pickPath p.src p.holder p.ordered).getD p.path) p.kind.writes)

/-- A global access from its checks to its packets: R223; the store-poison check of a release (R246); the waits of R227 to R230. -/
def State.access (s : State) (e : Env) (q : Ask) (l : Launch) (kind : OpKind) (sgn : Bool) (xs : List Acc)
    (dest : Nat → List UnitRef) : Done :=
  match s.team? e.uid with
  | none => .ok { s := s }
  | some t =>
    match s.crew? t.crew with
    | none => .ok { s := s }
    | some k =>
      if s.acquiring e.uid then .wait 21 s
      else
        match s.resolve k q xs with
        | (_, .error tr) => .trap tr
        | (s, .ok ps) =>
          if l.release && k.storePoison then .trap { cause := 0x11 }
          else if ps.any (fun p => (p.acc.reqs p.pa).any (fun r =>
              s.granuleBusy e.uid p.ann.holder l.ordered (r.pa / 16))) then .wait 21 s
          else if ps.any (fun p => s.egressFull k.die p.ann.holder ((s.pickPath k.die p.ann.holder l.ordered).getD 0) l.kind.writes)
              || s.heldBack e.uid then .wait 13 s
          else .ok { s := s.launch e t.crew k l kind q.size sgn ps dest, owes := ps.flatMap (fun p => dest p.acc.lane) }

/-! ## Addresses (R222) -/

/-- The global base as an operand of its own (R130, R222). -/
def baseSrc : Src := { units := [.uni 126, .uni 127], words := 0, isBase := true }

/-- {s127, s126} + Wrap32(offset word + byte offset); none when a word is poisoned. -/
def Env.addr (e : Env) (x : Val) (off : Word) : Option VA :=
  match e.u 127, e.u 126, x with
  | .word hi, .word lo, .word o => some (pairOf lo hi + (o + off).setWidth 64)
  | _, _, _ => none
where
  pairOf (lo hi : Word) : VA := hi ++ lo

/-- The scaled byte offset of format M (R33). -/
def offBytes (f : BitVec 6) (size : Nat) : Word := f.signExtend 32 * BitVec.ofNat 32 size

/-- A register group of n: aligned to n and within the allotment (R74). -/
def groupBad (r n top : Nat) : Bool := r % n != 0 || decide (top < r + n)

/-- Checks of a vector group and further vector registers. -/
def checkGroup (d n : Nat) (rs : List Nat) (t : Team) (m : Mask) : Option Trap :=
  if groupBad d n t.vN then some .illegalOperand else checkV rs t m

/-- The registers of a group. -/
def groupRegs (d n : Nat) : List Nat := (List.range n).map (d + ·)

/-- A vector group as one operand (R131: a pair takes 64 lane-words, a group of four 128). -/
def gSrc (d n : Nat) (m : Mask) : Src :=
  { units := (groupRegs d n).flatMap (fun r => (Mask.lanes m).map (UnitRef.vec r)), words := 32 * n * (Mask.words m).length }

def gDst (d n : Nat) (m : Mask) : List UnitRef := (groupRegs d n).flatMap (fun r => vDst r m)

/-! ## Loads and stores (R233 to R235) -/

/-- `ld.g` and `ld.a`. -/
def loadPlan (sz : BitVec 3) (d a : BitVec 7) (off : Word) (w : BitVec 3) (acq : Bool) (ill : Option IllFormed) : Plan where
  ill := ill
  regs := checkGroup d.toNat (szRegs sz) [a.toNat]
  srcs := fun _ m => [vSrc a.toNat m, baseSrc]
  dsts := fun _ m => gDst d.toNat (szRegs sz) m
  w := w
  act := fun e s =>
    let size := szBytes sz
    let xs := (Mask.lanes e.mask).map (fun l =>
      ({ lane := l, va := e.addr (e.v a.toNat l) off, bad := false, reqs := fun pa => [{ lane := l, pa := pa, data := [] }] } : Acc))
    s.access e { rights := { rd := true }, size := size, homeOnly := acq, touch := d == 0 }
      { kind := if acq then .acquire else .load, ordered := true, acquire := acq } .load (szSigned sz) xs
      (fun l => (groupRegs d.toNat (szRegs sz)).map (fun r => UnitRef.vec r l))

/-- `st.g`, `st.gx` and `st.l`. -/
def storePlan (sz : BitVec 3) (d a : BitVec 7) (off : Word) (w : BitVec 3) (l : Launch) (ill : Option IllFormed) : Plan where
  ill := ill
  regs := checkGroup d.toNat (szRegs sz) [a.toNat]
  srcs := fun _ m => [gSrc d.toNat (szRegs sz) m, vSrc a.toNat m, baseSrc]
  w := w
  act := fun e s =>
    let size := szBytes sz
    let xs := (Mask.lanes e.mask).map (fun l =>
      let ws := (groupRegs d.toNat (szRegs sz)).map (fun r => e.v r l)
      ({ lane := l, va := e.addr (e.v a.toNat l) off, bad := ws.any Val.isPoison
         reqs := fun pa => [{ lane := l, pa := pa, data := bytesOf size ws }] } : Acc))
    s.access e { rights := { wr := true }, size := size, homeOnly := true } l .store false xs (fun _ => [])

/-- Registers of a uniform access: `.w` one, `.d` two. -/
def uRegs (s : BitVec 1) : Nat := if s = 1 then 2 else 1

/-- A uniform group: aligned and within s0 to s127. -/
def uGroup (d : BitVec 7) (n : Nat) : Option Trap := if groupBad d.toNat n 128 then some .illegalOperand else none

def uGroupSrc (d n : Nat) : Src := { units := (groupRegs d n).map UnitRef.uni, words := n }

/-- `ld.u` (R234). -/
def loadUPlan (s : BitVec 1) (d a : BitVec 7) (f : BitVec 6) (w : BitVec 3) : Plan where
  whole := true
  ill := illWait w
  regs := fun _ _ => uGroup d (uRegs s)
  srcs := fun _ _ => [uSrc a.toNat, baseSrc]
  dsts := fun _ _ => (groupRegs d.toNat (uRegs s)).map UnitRef.uni
  w := w
  act := fun e st =>
    let size := 4 * uRegs s
    let xs : List Acc := [{ lane := 0, va := e.addr (e.u a.toNat) (offBytes f size), bad := false
                            reqs := fun pa => [{ lane := 0, pa := pa, data := [] }] }]
    st.access e { rights := { rd := true }, size := size, homeOnly := false, uniform := true } { kind := .load, ordered := true } .load
      false xs (fun _ => (groupRegs d.toNat (uRegs s)).map UnitRef.uni)

/-- `st.u` (R234). -/
def storeUPlan (s : BitVec 1) (d a : BitVec 7) (f : BitVec 6) (w : BitVec 3) : Plan where
  whole := true
  ill := illWait w
  regs := fun _ _ => uGroup d (uRegs s)
  srcs := fun _ _ => [uGroupSrc d.toNat (uRegs s), uSrc a.toNat, baseSrc]
  w := w
  act := fun e st =>
    let size := 4 * uRegs s
    let ws := (groupRegs d.toNat (uRegs s)).map e.u
    let xs : List Acc := [{ lane := 0, va := e.addr (e.u a.toNat) (offBytes f size), bad := ws.any Val.isPoison
                            reqs := fun pa => [{ lane := 0, pa := pa, data := bytesOf size ws }] }]
    st.access e { rights := { wr := true }, size := size, homeOnly := true, uniform := true } { kind := .store, ordered := true } .store
      false xs (fun _ => [])

/-! ## Atomics (R236 to R238) -/

/-- The first check that fails of some. -/
def firstIll (xs : List (Option IllFormed)) : Option IllFormed := (xs.filterMap id).head?

/-- `at.*`: the operand word, and for `cas` the new word after it. -/
def atomPlan (fn : Nat) (d a : BitVec 7) (c w : BitVec 3) (o : BitVec 2) : Plan where
  ill := firstIll [illScope c, illWait w, illRelaxedScope c o]
  regs := checkGroup d.toNat (if fn = 9 then 2 else 1) [a.toNat]
  srcs := fun _ m => [gSrc d.toNat (if fn = 9 then 2 else 1) m, vSrc a.toNat m, baseSrc]
  dsts := fun _ m => vDst d.toNat m
  w := w
  act := fun e s =>
    let xs := (Mask.lanes e.mask).map (fun l =>
      let ws := (groupRegs d.toNat (if fn = 9 then 2 else 1)).map (fun r => e.v r l)
      ({ lane := l, va := e.addr (e.v a.toNat l) 0, bad := ws.any Val.isPoison
         reqs := fun pa => [{ lane := l, pa := pa, data := bytesOf (4 * ws.length) ws }] } : Acc))
    s.access e { rights := { rd := true, wr := true }, size := 4, homeOnly := true }
      { kind := .atomic fn, ordered := true, release := o == 2 || o == 3, acquire := o == 1 || o == 3 } .atomic false xs
      (fun l => [.vec d.toNat l])

/-- `vat.*`: one packet per pass to the line at the address of the pass's lowest acting lane. -/
def vatPlan (bf : Bool) (d a : BitVec 7) (c w : BitVec 3) (o : BitVec 2) : Plan where
  ill := firstIll [illVatOrder o, illScope c, illWait w, illRelaxedScope c o]
  regs := checkV [d.toNat, a.toNat]
  srcs := fun _ m =>
    [vSrc d.toNat m,
     { units := (Mask.words m).filterMap (fun k => ((Mask.lanes m).find? (fun l => l / 32 == k)).map (UnitRef.vec a.toNat))
       words := 32 * (Mask.words m).length }, baseSrc]
  w := w
  act := fun e s =>
    let xs := (Mask.words e.mask).filterMap (fun k =>
      let ls := (Mask.lanes e.mask).filter (fun l => l / 32 == k)
      match ls with
      | [] => none
      | l0 :: _ => some ({ lane := l0, va := e.addr (e.v a.toNat l0) 0, bad := ls.any (fun l => (e.v d.toNat l).isPoison)
                           reqs := fun pa => ls.map (fun l => { lane := l, pa := pa + 4 * (l % 32), data := bytesOf 4 [e.v d.toNat l] }) } : Acc))
    s.access e { rights := { rd := true, wr := true }, size := 128, homeOnly := true }
      { kind := .vatomic bf, ordered := o == 2, release := o == 2 } .store false xs (fun _ => [])

/-! ## The instructions -/

/-- `LD_G` (R233). Loads from global memory per lane through the chosen holder. -/
def planLdG (s : BitVec 3) (d : BitVec 7) (a : BitVec 7) (f : BitVec 6) (w : BitVec 3) : Plan :=
  loadPlan s d a (offBytes f (szBytes s)) w false (firstIll [illSize s, illWait w])

def execLdG (s : BitVec 3) (d : BitVec 7) (a : BitVec 7) (f : BitVec 6) (w : BitVec 3) (st : State) : Answered := issue (.ldG s d a f w) (planLdG s d a f w) st

/-- `ST_G` (R233). Stores per lane to the HOME on the ordered path. -/
def planStG (s : BitVec 3) (d : BitVec 7) (a : BitVec 7) (f : BitVec 6) (w : BitVec 3) : Plan :=
  storePlan s d a (offBytes f (szBytes s)) w { kind := .store, ordered := true } (firstIll [illSize s, illWait w])

def execStG (s : BitVec 3) (d : BitVec 7) (a : BitVec 7) (f : BitVec 6) (w : BitVec 3) (st : State) : Answered := issue (.stG s d a f w) (planStG s d a f w) st

/-- `ST_GX` (R233). Stores per lane to the HOME as relaxed traffic. -/
def planStGx (s : BitVec 3) (d : BitVec 7) (a : BitVec 7) (f : BitVec 6) (w : BitVec 3) : Plan :=
  storePlan s d a (offBytes f (szBytes s)) w { kind := .relaxed, ordered := false } (firstIll [illSize s, illWait w])

def execStGx (s : BitVec 3) (d : BitVec 7) (a : BitVec 7) (f : BitVec 6) (w : BitVec 3) (st : State) : Answered := issue (.stGx s d a f w) (planStGx s d a f w) st

/-- `LD_A` (R235). Acquire load from the HOME at a scope. -/
def planLdA (s : BitVec 3) (d : BitVec 7) (a : BitVec 7) (c : BitVec 3) (w : BitVec 3) : Plan :=
  loadPlan s d a 0 w true (firstIll [illSize s, illScope c, illWait w])

def execLdA (s : BitVec 3) (d : BitVec 7) (a : BitVec 7) (c : BitVec 3) (w : BitVec 3) (st : State) : Answered := issue (.ldA s d a c w) (planLdA s d a c w) st

/-- `ST_L` (R235). Release store at a scope, with the optional ordered flag. -/
def planStL (s : BitVec 3) (d : BitVec 7) (a : BitVec 7) (c : BitVec 3) (w : BitVec 3) (o : BitVec 1) : Plan :=
  storePlan s d a 0 w { kind := .release, ordered := true, release := true, ofFlag := o == 1 } (firstIll [illSize s, illScope c, illWait w])

def execStL (s : BitVec 3) (d : BitVec 7) (a : BitVec 7) (c : BitVec 3) (w : BitVec 3) (o : BitVec 1) (st : State) : Answered := issue (.stL s d a c w o) (planStL s d a c w o) st

/-- `AT_ADD` (R236). Atomic add at the HOME returning the old value. -/
def planAtAdd (d : BitVec 7) (a : BitVec 7) (c : BitVec 3) (w : BitVec 3) (o : BitVec 2) : Plan :=
  atomPlan 0 d a c w o

def execAtAdd (d : BitVec 7) (a : BitVec 7) (c : BitVec 3) (w : BitVec 3) (o : BitVec 2) (s : State) : Answered := issue (.atAdd d a c w o) (planAtAdd d a c w o) s

/-- `AT_AND` (R236). Atomic AND at the HOME. -/
def planAtAnd (d : BitVec 7) (a : BitVec 7) (c : BitVec 3) (w : BitVec 3) (o : BitVec 2) : Plan :=
  atomPlan 1 d a c w o

def execAtAnd (d : BitVec 7) (a : BitVec 7) (c : BitVec 3) (w : BitVec 3) (o : BitVec 2) (s : State) : Answered := issue (.atAnd d a c w o) (planAtAnd d a c w o) s

/-- `AT_OR` (R236). Atomic OR at the HOME. -/
def planAtOr (d : BitVec 7) (a : BitVec 7) (c : BitVec 3) (w : BitVec 3) (o : BitVec 2) : Plan :=
  atomPlan 2 d a c w o

def execAtOr (d : BitVec 7) (a : BitVec 7) (c : BitVec 3) (w : BitVec 3) (o : BitVec 2) (s : State) : Answered := issue (.atOr d a c w o) (planAtOr d a c w o) s

/-- `AT_XOR` (R236). Atomic XOR at the HOME. -/
def planAtXor (d : BitVec 7) (a : BitVec 7) (c : BitVec 3) (w : BitVec 3) (o : BitVec 2) : Plan :=
  atomPlan 3 d a c w o

def execAtXor (d : BitVec 7) (a : BitVec 7) (c : BitVec 3) (w : BitVec 3) (o : BitVec 2) (s : State) : Answered := issue (.atXor d a c w o) (planAtXor d a c w o) s

/-- `AT_MIN` (R236). Atomic signed minimum at the HOME. -/
def planAtMin (d : BitVec 7) (a : BitVec 7) (c : BitVec 3) (w : BitVec 3) (o : BitVec 2) : Plan :=
  atomPlan 4 d a c w o

def execAtMin (d : BitVec 7) (a : BitVec 7) (c : BitVec 3) (w : BitVec 3) (o : BitVec 2) (s : State) : Answered := issue (.atMin d a c w o) (planAtMin d a c w o) s

/-- `AT_MAX` (R236). Atomic signed maximum at the HOME. -/
def planAtMax (d : BitVec 7) (a : BitVec 7) (c : BitVec 3) (w : BitVec 3) (o : BitVec 2) : Plan :=
  atomPlan 5 d a c w o

def execAtMax (d : BitVec 7) (a : BitVec 7) (c : BitVec 3) (w : BitVec 3) (o : BitVec 2) (s : State) : Answered := issue (.atMax d a c w o) (planAtMax d a c w o) s

/-- `AT_MINU` (R236). Atomic unsigned minimum at the HOME. -/
def planAtMinu (d : BitVec 7) (a : BitVec 7) (c : BitVec 3) (w : BitVec 3) (o : BitVec 2) : Plan :=
  atomPlan 6 d a c w o

def execAtMinu (d : BitVec 7) (a : BitVec 7) (c : BitVec 3) (w : BitVec 3) (o : BitVec 2) (s : State) : Answered := issue (.atMinu d a c w o) (planAtMinu d a c w o) s

/-- `AT_MAXU` (R236). Atomic unsigned maximum at the HOME. -/
def planAtMaxu (d : BitVec 7) (a : BitVec 7) (c : BitVec 3) (w : BitVec 3) (o : BitVec 2) : Plan :=
  atomPlan 7 d a c w o

def execAtMaxu (d : BitVec 7) (a : BitVec 7) (c : BitVec 3) (w : BitVec 3) (o : BitVec 2) (s : State) : Answered := issue (.atMaxu d a c w o) (planAtMaxu d a c w o) s

/-- `AT_XCHG` (R236). Atomic exchange at the HOME. -/
def planAtXchg (d : BitVec 7) (a : BitVec 7) (c : BitVec 3) (w : BitVec 3) (o : BitVec 2) : Plan :=
  atomPlan 8 d a c w o

def execAtXchg (d : BitVec 7) (a : BitVec 7) (c : BitVec 3) (w : BitVec 3) (o : BitVec 2) (s : State) : Answered := issue (.atXchg d a c w o) (planAtXchg d a c w o) s

/-- `AT_CAS` (R236). Atomic compare-and-swap at the HOME. -/
def planAtCas (d : BitVec 7) (a : BitVec 7) (c : BitVec 3) (w : BitVec 3) (o : BitVec 2) : Plan :=
  atomPlan 9 d a c w o

def execAtCas (d : BitVec 7) (a : BitVec 7) (c : BitVec 3) (w : BitVec 3) (o : BitVec 2) (s : State) : Answered := issue (.atCas d a c w o) (planAtCas d a c w o) s

/-- `AT_FADD` (R236). Atomic FP32 add at the HOME. -/
def planAtFadd (d : BitVec 7) (a : BitVec 7) (c : BitVec 3) (w : BitVec 3) (o : BitVec 2) : Plan :=
  atomPlan 10 d a c w o

def execAtFadd (d : BitVec 7) (a : BitVec 7) (c : BitVec 3) (w : BitVec 3) (o : BitVec 2) (s : State) : Answered := issue (.atFadd d a c w o) (planAtFadd d a c w o) s

/-- `VAT_F32` (R238). Adds FP32 lane values atomically into the words of one line. -/
def planVatF32 (d : BitVec 7) (a : BitVec 7) (c : BitVec 3) (w : BitVec 3) (o : BitVec 2) : Plan :=
  vatPlan false d a c w o

def execVatF32 (d : BitVec 7) (a : BitVec 7) (c : BitVec 3) (w : BitVec 3) (o : BitVec 2) (s : State) : Answered := issue (.vatF32 d a c w o) (planVatF32 d a c w o) s

/-- `VAT_BF16` (R238). Adds BF16 pairs atomically into the words of one line. -/
def planVatBf16 (d : BitVec 7) (a : BitVec 7) (c : BitVec 3) (w : BitVec 3) (o : BitVec 2) : Plan :=
  vatPlan true d a c w o

def execVatBf16 (d : BitVec 7) (a : BitVec 7) (c : BitVec 3) (w : BitVec 3) (o : BitVec 2) (s : State) : Answered := issue (.vatBf16 d a c w o) (planVatBf16 d a c w o) s

/-- `LD_U` (R234). Loads one word or pair from global memory into uniform registers. -/
def planLdU (s : BitVec 1) (d : BitVec 7) (a : BitVec 7) (f : BitVec 6) (w : BitVec 3) : Plan :=
  loadUPlan s d a f w

def execLdU (s : BitVec 1) (d : BitVec 7) (a : BitVec 7) (f : BitVec 6) (w : BitVec 3) (st : State) : Answered := issue (.ldU s d a f w) (planLdU s d a f w) st

/-- `ST_U` (R234). Stores a uniform word or pair as an ordered store. -/
def planStU (s : BitVec 1) (d : BitVec 7) (a : BitVec 7) (f : BitVec 6) (w : BitVec 3) : Plan :=
  storeUPlan s d a f w

def execStU (s : BitVec 1) (d : BitVec 7) (a : BitVec 7) (f : BitVec 6) (w : BitVec 3) (st : State) : Answered := issue (.stU s d a f w) (planStU s d a f w) st

end Sys2Proof.Machine
end

