-- ==== Sys2Proof/Machine/Spad.lean ====
section
/-! DEFINITION. The crew's scratchpad, the quad window and the tag table (spec/08). A local access is performed by its port when it
issues; a window request when it arrives (WINDOW_REQUEST_ARRIVE). -/

namespace Sys2Proof.Machine

/-! ## Scratchpad bytes (R146, R147, R79) -/

/-- One byte as the port reads it; a poisoned word gives no byte. -/
def Crew.spadByte (k : Crew) (a : Nat) : PByte :=
  if tget false k.spadPoison (a / 4) then none else some (tget 0 k.spad a)

def Crew.spadBytes (k : Crew) (a : Nat) : Nat → List PByte
  | 0 => []
  | n + 1 => k.spadByte a :: k.spadBytes (a + 1) n

/-- One word rewritten with some of its bytes (R79, R154): a poisoned byte poisons it whole, part of a poisoned word leaves it
poisoned, the whole of it with ordinary data clears it. -/
def Crew.putWord (k : Crew) (w : Nat) (bs : List (Nat × PByte)) : Crew :=
  let bad := bs.any (fun b => b.2.isNone)
  let whole := (distinct (bs.map Prod.fst)).length == 4
  { k with spad := bs.foldl (fun c b => match b.2 with | some x => tset 0 c b.1 x | none => c) k.spad
           spadPoison := if bad then tset false k.spadPoison w true else if whole then tset false k.spadPoison w false
             else k.spadPoison }

/-- The last write of each byte, in order of address first seen (R151: the higher lane wins). -/
def mergeBytes (ws : List (Nat × PByte)) : List (Nat × PByte) :=
  (distinct (ws.map Prod.fst)).map (fun a => (a, match (ws.reverse.find? (fun w => w.1 == a)) with | some w => w.2 | none => none))

/-- Bytes written into the scratchpad as one merged write. -/
def Crew.spadPut (k : Crew) (ws : List (Nat × PByte)) : Crew :=
  let ms := mergeBytes ws
  (distinct (ms.map (fun w => w.1 / 4))).foldl (fun k w => k.putWord w (ms.filter (fun b => b.1 / 4 == w))) k

/-- Size of a crew's allotment in bytes (R145). -/
def Crew.spadSize (k : Crew) : Nat := 1024 * k.spk

/-- R148: misaligned, or a byte at or above the allotment. -/
def Crew.spadBad (k : Crew) (a size : Nat) : Bool := a % size != 0 || decide (k.spadSize < a + size)

/-- The bytes of lanes' stores, lowest lane first. -/
def storedBytes (ls : List LaneReq) : List (Nat × PByte) :=
  ls.flatMap (fun r => (List.range r.data.length).zip r.data |>.map (fun b => (r.pa + b.1, b.2)))

/-! ## Lanes' addresses -/

/-- Wrap32(U(word) + offset); none for a poisoned word (R154). -/
def spadAddr (x : Val) (off : Word) : Option Nat :=
  match x with
  | .word o => some (o + off).toNat
  | .poison => none

/-- The writes that a lane's loaded bytes make, register by register. -/
def landWrites (dest : List (Nat × Owed)) (size : Nat) (sgn : Bool) (lane : Nat) (bs : List PByte) : List (Owed × UnitVal) :=
  ((dest.filter (fun d => d.1 == lane)).map Prod.snd).zip (wordsOf size sgn bs) |>.map (fun p => (p.1, UnitVal.w p.2))

/-- Any of some writes is poison. -/
def anyPoison (ws : List (Owed × UnitVal)) : Bool :=
  ws.any (fun w => match w.2 with
    | .w v => v.isPoison
    | .p _ q => q != 0
    | .a e _ => e.any (fun x => x.2.isPoison)
    | .t _ q => q)

/-- One pass of an instruction whose passes issue one by one: its outstanding instruction begins, or goes on with what this pass brings
(R26, R49). -/
def State.passOp (s : State) (e : Env) (kind : OpKind) (owed : List Owed) : State × Nat :=
  let left := (Mask.words e.rest).length - (Mask.words e.mask).length
  if e.opId = 0 then
    let (op, s) := s.fresh
    (s.addOp { id := op, team := e.uid, kind := kind, w := e.w, hdrVA := e.hdrVA, owed := owed, parts := left }, op)
  else (s.modOp e.opId (fun o => { o with owed := o.owed ++ owed, parts := left }), e.opId)

/-- The crew of a team. -/
def State.crewOf (s : State) (uid : Nat) : Option (Team × Crew) :=
  match s.team? uid with
  | some t => (s.crew? t.crew).map (fun k => (t, k))
  | none => none

/-- Window requests of a team to its own core's port are still to be performed: its later local accesses wait for them (R153, R262). -/
def State.windowBusy (s : State) (uid : Nat) : Bool :=
  match s.crewOf uid with
  | some (_, k) => s.wins.any (fun r => r.team == uid && r.core == k.coreKey)
  | none => false

/-- Fetch grants of the team's earlier MMA instructions are still to come (R169). -/
def State.matrixBusy (s : State) (uid : Nat) : Bool :=
  match s.crewOf uid with
  | some (_, k) => (s.core k.coreKey).array.any (fun p => p.team == uid)
  | none => false

/-- The addresses of a local access, lane by lane. -/
def localLanes (e : Env) (m : Mask) (a : BitVec 7) (f : BitVec 6) (size : Nat) : List (Nat × Option Nat) :=
  (Mask.lanes m).map (fun l => (l, spadAddr (e.v a.toNat l) (offBytes f size)))

/-- The checks of a local access (R148, R154), each over every lane before the next. -/
def Crew.localTrap (k : Crew) (size : Nat) (ls : List (Nat × Option Nat)) : Option Trap :=
  match ls.find? (fun x => x.2.isNone) with
  | some x => some (.poisonConsumed x.1)
  | none => (ls.find? (fun x => k.spadBad (x.2.getD 0) size)).map (fun x => .permission (some x.1) (BitVec.ofNat 64 (x.2.getD 0)))

/-- `ld.s` (R154): its passes issue one by one. A load into v0 writes nothing to it; the further registers of its group are written, since
R70 discards v0's word alone (DESIGN CHOICE, notes/assumptions/60.md). -/
def ldsPlan (sz : BitVec 3) (d a : BitVec 7) (f : BitVec 6) (w : BitVec 3) : Plan where
  ill := firstIll [illSize sz, illWait w]
  regs := checkGroup d.toNat (szRegs sz) [a.toNat]
  srcs := fun _ m => [vSrc a.toNat m]
  dsts := fun _ m => gDst d.toNat (szRegs sz) m
  w := w
  byPass := true
  act := fun e s =>
    let size := szBytes sz
    match s.crewOf e.uid with
    | none => .ok { s := s }
    | some (_, k) =>
      match k.localTrap size (localLanes e e.rest a f size) with
      | some tr => .trap tr
      | none =>
        if s.acquiring e.uid || s.windowBusy e.uid then .wait 21 s
        else
          let ls := localLanes e e.mask a f size
          let dest := ls.flatMap (fun x => (groupRegs d.toNat (szRegs sz)).map (fun r =>
            let u := UnitRef.vec r x.1
            (x.1, ({ unit := u, gen := e.gen u } : Owed))))
          let ws := ls.flatMap (fun x => landWrites dest size (szSigned sz) x.1 (k.spadBytes (x.2.getD 0) size))
          let (s, op) := s.passOp e .scratch (dest.map Prod.snd)
          .ok { s := s.addLanding op e.uid ws (if anyPoison ws then some 0xFF else none), owes := dest.map (fun p => p.2.unit), opId := op }

/-- `st.s` (R154): its passes issue one by one, each performed, and acknowledged, when it issues (R151). -/
def stsPlan (sz : BitVec 3) (d a : BitVec 7) (f : BitVec 6) (w : BitVec 3) : Plan where
  ill := firstIll [illSize sz, illWait w]
  regs := checkGroup d.toNat (szRegs sz) [a.toNat]
  srcs := fun _ m => [gSrc d.toNat (szRegs sz) m, vSrc a.toNat m]
  w := w
  byPass := true
  act := fun e s =>
    let size := szBytes sz
    match s.crewOf e.uid with
    | none => .ok { s := s }
    | some (t, k) =>
      match k.localTrap size (localLanes e e.rest a f size) with
      | some tr => .trap tr
      | none =>
        if s.acquiring e.uid || s.windowBusy e.uid then .wait 21 s
        else if s.matrixBusy e.uid then .wait 18 s
        else
          let ws := storedBytes ((localLanes e e.mask a f size).map (fun x =>
            { lane := x.1, pa := x.2.getD 0, data := bytesOf size ((groupRegs d.toNat (szRegs sz)).map (fun r => e.v r x.1)) }))
          let (s, op) := (s.modCrew t.crew (fun k => k.spadPut ws)).passOp e .scratch []
          .ok { s := s, opId := op }

/-! ## The quad window (R155 to R157) -/

/-- A crew that still holds its gang ticket at its core (R156). One that drains, is being saved or retires still holds it: the spec does not
say from which moment a pre-empted crew no longer does (DESIGN CHOICE, notes/assumptions/61.md). -/
def Crew.holdsTicket (k : Crew) : Bool :=
  match k.status with
  | .resident => true
  | .draining => true
  | .saving => true
  | .retiring => true
  | _ => false

/-- The crew with a ticket on a core. -/
def State.ticketCrew (s : State) (die core : Nat) (ticket : BitVec 16) : Option (Nat × Crew) :=
  (s.crews.filterMap (fun c => c.2.map (fun k => (c.1, k)))).find? (fun c =>
    c.2.die == die && c.2.core == core && c.2.ticket == ticket && c.2.holdsTicket)

/-- The core a window address names, in the quad of a crew (R155). -/
def windowCore (k : Crew) (a : Nat) : Nat := k.core / 4 * 4 + a / 2 ^ 19 % 4

/-- Checks 3 and 4 of R156 for one address. -/
def State.windowTrap (s : State) (k : Crew) (size a : Nat) : Option (BitVec 8) :=
  match s.ticketCrew k.die (windowCore k a) k.ticket with
  | none => some 0x0B
  | some (_, t) => if t.spadBad (a % 2 ^ 19) size then some 0x09 else none

/-- The checks of R156 at issue, each over every lane before the next. The fault VA of check 4 is the address in the target crew's
scratchpad (R148); for check 2 the rule states none and the window address is recorded (DESIGN CHOICE, notes/assumptions/8.md). -/
def State.windowChecks (s : State) (k : Crew) (size : Nat) (ls : List (Nat × Option Nat)) : Option Trap :=
  let va := fun (x : Nat × Option Nat) => BitVec.ofNat 64 (x.2.getD 0)
  match ls.find? (fun x => x.2.isNone) with
  | some x => some (.poisonConsumed x.1)
  | none => match ls.find? (fun x => decide (2 ^ 21 ≤ x.2.getD 0)) with
    | some x => some (.permission (some x.1) (va x))
    | none => match ls.find? (fun x => s.windowTrap k size (x.2.getD 0) == some 0x0B) with
      | some x => some { cause := 0x0B, lane := some x.1 }
      | none => match ls.find? (fun x => (s.windowTrap k size (x.2.getD 0)).isSome) with
        | some x => some (.permission (some x.1) (BitVec.ofNat 64 (x.2.getD 0 % 2 ^ 19)))
        | none => none

/-- `ld.sq` and `st.sq`: one request for each pass and target core. -/
def windowPlan (sz : BitVec 3) (d a : BitVec 7) (f : BitVec 5) (w : BitVec 3) (write : Bool) : Plan where
  ill := firstIll [illSize sz, illWait w]
  regs := checkGroup d.toNat (szRegs sz) [a.toNat]
  srcs := fun _ m => (if write then [gSrc d.toNat (szRegs sz) m] else []) ++ [vSrc a.toNat m]
  dsts := fun _ m => if write then [] else gDst d.toNat (szRegs sz) m
  w := w
  act := fun e s =>
    let size := szBytes sz
    let off := f.signExtend 32 * BitVec.ofNat 32 size
    let ls := (Mask.lanes e.mask).map (fun l => (l, spadAddr (e.v a.toNat l) off))
    match s.crewOf e.uid with
    | none => .ok { s := s }
    | some (_, k) =>
      match s.windowChecks k size ls with
      | some tr => .trap tr
      | none =>
        if s.acquiring e.uid then .wait 21 s
        else if write && ls.any (fun x => windowCore k (x.2.getD 0) == k.core) && s.matrixBusy e.uid then .wait 18 s
        else
          let regs := groupRegs d.toNat (szRegs sz)
          let dest := if write then [] else ls.flatMap (fun x => regs.map (fun r =>
            let u := UnitRef.vec r x.1
            (x.1, ({ unit := u, gen := e.gen u } : Owed))))
          let keys := (ls.foldl (fun acc x =>
            let key := (x.1 / 32, windowCore k (x.2.getD 0))
            if acc.contains key then acc else acc ++ [key]) ([] : List (Nat × Nat)))
          let (op, s) := s.fresh
          let s := s.addOp { id := op, team := e.uid, kind := .window, w := e.w, hdrVA := e.hdrVA
                             owed := dest.map Prod.snd, parts := keys.length }
          let s := keys.foldl (fun s key =>
            let (id, s) := s.fresh
            let mine := ls.filter (fun x => (x.1 / 32, windowCore k (x.2.getD 0)) == key)
            let r : WinReq :=
              { id := id, op := op, team := e.uid, hdrVA := e.hdrVA, core := coreKey k.die key.2, ticket := k.ticket, write := write
                size := size, signed := szSigned sz
                lanes := mine.map (fun x => { lane := x.1, pa := x.2.getD 0 % 2 ^ 19
                                              data := if write then bytesOf size (regs.map (fun r => e.v r x.1)) else [] })
                dest := dest.filter (fun d => mine.any (fun x => x.1 == d.1)) }
            { s with wins := s.wins ++ [r] }) s
          .ok { s := s, owes := dest.map (fun p => p.2.unit) }

/-! ## The tag table (R158 to R161) -/

/-- Tag entries and slot size of a crew (R145, R158). -/
def Crew.tagCount (k : Crew) : Nat := k.tent

def Crew.slotBits (k : Crew) : Nat := 8 + k.tsz

/-- The tag of a VA. -/
def Crew.tagOf (k : Crew) (va : VA) : VA := va >>> k.slotBits <<< k.slotBits

/-- The slot holding a tag. -/
def Crew.slotHolding (k : Crew) (t : VA) : Option Nat :=
  (List.range k.tagCount).find? (fun n => tget none k.tags n == some t)

def slotWord (o : Option Nat) : Word := match o with | some n => BitVec.ofNat 32 n | none => 0xFFFFFFFF

/-- Unbind a tag's old slot. -/
def Crew.unbind (k : Crew) (o : Option Nat) : Crew :=
  match o with
  | some n => { k with tags := tset none k.tags n none }
  | none => k

/-- What one lane of a tag instruction does: `bind` gives the slot for `tins`; `drop` says that the old slot is unbound. -/
def Crew.tagStep (k : Crew) (va : VA) (bind : Option Nat) (drop : Bool) : Crew × Word :=
  let t := k.tagOf va
  let old := k.slotHolding t
  let k := if drop then k.unbind old else k
  match bind with
  | some n => ({ k with tags := tset none k.tags n (some t) }, slotWord old)
  | none => (k, slotWord old)

/-- The checks of a tag instruction, each over every lane before the next (R7, R161): a poisoned address or slot number, then a slot that
does not exist. -/
def tagTrap (e : Env) (a : BitVec 7) (k : Crew) (slot : Nat → Option Val) (ls : List Nat) : Option Trap :=
  match ls.find? (fun l => (e.v a.toNat l).isPoison || (e.v (a.toNat + 1) l).isPoison || slot l == some Val.poison) with
  | some l => some (.poisonConsumed l)
  | none => (ls.find? (fun l => match slot l with | some v => decide (k.tagCount ≤ v.bits.toNat) | none => false)).map
      (fun l => { cause := 0x09, lane := some l })

/-- `tlook`, `tins` and `tinv`: passes one by one; the lanes in ascending order, each seeing those before it. -/
def tagPlan (d a : BitVec 7) (b : Option (BitVec 7 × BitVec 1)) (drop : Bool) : Plan where
  regs := fun t m =>
    if a.toNat % 2 = 1 then some .illegalOperand
    else checkV ([d.toNat, a.toNat, a.toNat + 1] ++ (match b with | some (b, u) => if u = 1 then [] else [b.toNat] | none => [])) t m
  srcs := fun _ m => [gSrc a.toNat 2 m] ++ (match b with | some (b, u) => [bSrc b.toNat u m] | none => [])
  dsts := fun _ m => vDst d.toNat m
  byPass := true
  act := fun e s =>
    let slot := fun l => match b with | some (b, u) => some (e.opnd b.toNat u l) | none => none
    match s.crewOf e.uid with
    | none => .ok { s := s }
    | some (t, k) =>
      match tagTrap e a k slot (Mask.lanes e.rest) with
      | some tr => .trap tr
      | none =>
        let r := (Mask.lanes e.mask).foldl (fun (acc : Crew × List (UnitRef × UnitVal)) l =>
          let x := acc.1.tagStep ((e.v (a.toNat + 1) l).bits ++ (e.v a.toNat l).bits) ((slot l).map (fun v => v.bits.toNat)) drop
          (x.1, acc.2 ++ [(.vec d.toNat l, .w (.word x.2))])) (k, [])
        .ok { s := s.setCrew t.crew r.1, writes := r.2 }

/-- `tflush`. -/
def tflushPlan : Plan where
  whole := true
  act := fun e s => match s.crewOf e.uid with
    | none => .ok { s := s }
    | some (t, _) => .ok { s := s.modCrew t.crew (fun k => { k with tags := [] }) }

/-! ## The instructions -/

/-- `LD_S` (R154). Loads from the crew's scratchpad per lane. -/
def planLdS (s : BitVec 3) (d : BitVec 7) (a : BitVec 7) (f : BitVec 6) (w : BitVec 3) : Plan :=
  ldsPlan s d a f w

def execLdS (s : BitVec 3) (d : BitVec 7) (a : BitVec 7) (f : BitVec 6) (w : BitVec 3) (st : State) : Answered := issue (.ldS s d a f w) (planLdS s d a f w) st

/-- `ST_S` (R154). Stores to the crew's scratchpad per lane. -/
def planStS (s : BitVec 3) (d : BitVec 7) (a : BitVec 7) (f : BitVec 6) (w : BitVec 3) : Plan :=
  stsPlan s d a f w

def execStS (s : BitVec 3) (d : BitVec 7) (a : BitVec 7) (f : BitVec 6) (w : BitVec 3) (st : State) : Answered := issue (.stS s d a f w) (planStS s d a f w) st

/-- `LD_SQ` (R157). Loads through the quad window from a gang crew's scratchpad. -/
def planLdSq (s : BitVec 3) (d : BitVec 7) (a : BitVec 7) (f : BitVec 5) (w : BitVec 3) : Plan :=
  windowPlan s d a f w false

def execLdSq (s : BitVec 3) (d : BitVec 7) (a : BitVec 7) (f : BitVec 5) (w : BitVec 3) (st : State) : Answered := issue (.ldSq s d a f w) (planLdSq s d a f w) st

/-- `ST_SQ` (R157). Stores through the quad window to a gang crew's scratchpad. -/
def planStSq (s : BitVec 3) (d : BitVec 7) (a : BitVec 7) (f : BitVec 5) (w : BitVec 3) : Plan :=
  windowPlan s d a f w true

def execStSq (s : BitVec 3) (d : BitVec 7) (a : BitVec 7) (f : BitVec 5) (w : BitVec 3) (st : State) : Answered := issue (.stSq s d a f w) (planStSq s d a f w) st

/-- `TLOOK` (R161). Looks up the slot bound to a tag. -/
def planTlook (d : BitVec 7) (a : BitVec 7) : Plan :=
  tagPlan d a none false

def execTlook (d : BitVec 7) (a : BitVec 7) (s : State) : Answered := issue (.tlook d a) (planTlook d a) s

/-- `TINS` (R161). Binds a tag to a slot, unbinding the old ones. -/
def planTins (d : BitVec 7) (a : BitVec 7) (b : BitVec 7) (u : BitVec 1) : Plan :=
  tagPlan d a (some (b, u)) true

def execTins (d : BitVec 7) (a : BitVec 7) (b : BitVec 7) (u : BitVec 1) (s : State) : Answered := issue (.tins d a b u) (planTins d a b u) s

/-- `TINV` (R161). Unbinds a tag from its slot. -/
def planTinv (d : BitVec 7) (a : BitVec 7) : Plan :=
  tagPlan d a none true

def execTinv (d : BitVec 7) (a : BitVec 7) (s : State) : Answered := issue (.tinv d a) (planTinv d a) s

/-- `TFLUSH` (R161). Invalidates every tag entry of the crew. -/
def planTflush : Plan :=
  tflushPlan

def execTflush (s : State) : Answered := issue .tflush planTflush s

end Sys2Proof.Machine
end

