-- ==== Sys2Proof/Machine/Matrix.lean ====
section
/-! DEFINITION. The matrix array, accumulators, plane rows and tiles (spec/09; spec/05 R94, R104). An MMA enters the core's array
queue; ARRAY_PASS fetches rows and writes accumulators. -/

namespace Sys2Proof.Machine

/-! ## Plane rows (R94) -/

/-- K for a plane count (R94). -/
def planeK (p : Nat) : Nat := [384, 192, 128, 96, 72, 64, 48, 48].getD (p - 1) 48

/-- The bytes of a row of p planes of K elements at an address; a poisoned word gives none. -/
def Crew.planeRow (k : Crew) (x kk p : Nat) : List PByte := k.spadBytes x (p * kk / 8)

/-- Bit i of plane g of a row of K elements; none when its word is poisoned. -/
def planeBit (row : List PByte) (kk g i : Nat) : Option Bool :=
  (row.getD (g * kk / 8 + i / 8) none).map (fun b => b.getLsbD (i % 8))

/-- The weight of plane g of p. -/
def planeWeight (sgn : Bool) (p g : Nat) : Int := if sgn && g + 1 == p then -(2 ^ g : Int) else (2 ^ g : Int)

/-- Element i of a plane row; none when a word that holds one of its bits is poisoned. -/
def planeElem (row : List PByte) (kk p : Nat) (sgn : Bool) (i : Nat) : Option Int :=
  (List.range p).foldl (fun acc g => match acc, planeBit row kk g i with
    | some n, some b => some (if b then n + planeWeight sgn p g else n)
    | _, _ => none) (some 0)

/-- A row holds no poisoned word (R166). -/
def rowClean (row : List PByte) : Bool := row.all Option.isSome

/-! ## Tile descriptors (R164) -/

def tilePA (d : BitVec 64) : Nat := (d.extractLsb' 0 4).toNat
def tilePB (d : BitVec 64) : Nat := (d.extractLsb' 4 4).toNat
def tileSA (d : BitVec 64) : Bool := d.getLsbD 8
def tileSB (d : BitVec 64) : Bool := d.getLsbD 9
def tileBAT (d : BitVec 64) : Bool := d.getLsbD 10
def tileBSTR (d : BitVec 64) : Nat := (d.extractLsb' 32 16).toNat
def tileASTR (d : BitVec 64) : Nat := (d.extractLsb' 48 16).toNat

/-- K of a descriptor (R162). -/
def tileK (d : BitVec 64) : Nat := planeK (if tilePA d < tilePB d then tilePB d else tilePA d)

/-- A descriptor that `tset` refuses (R178). -/
def tileBad (d : BitVec 64) : Bool :=
  (d.extractLsb' 11 21).toNat != 0 || tilePA d == 0 || decide (8 < tilePA d) || tilePB d == 0 || decide (8 < tilePB d)
  || tileASTR d % 4 != 0 || tileBSTR d % 4 != 0

/-! ## MMA (R168 to R173) -/

/-- The lane whose vb gives quarter q's base: lane 8q if it acts, else the lowest acting lane of q (R170). -/
def quarterLane (m : Word) (q : Nat) : Option Nat := (List.range 8).map (fun i => 8 * q + i) |>.find? (fun j => m.getLsbD j)

/-- Products of batched mode that execute: both lanes act (R171). -/
def batchedOn (m : Word) (b : Nat) : Bool := m.getLsbD (2 * b) && m.getLsbD (2 * b + 1)

/-- The row addresses that one pass reads, with the lane that gives each: A rows with their planes, then columns. Of several faulting rows
of the lowest faulting lane the first in this order is reported, which R172 leaves open (DESIGN CHOICE, notes/assumptions/62.md). -/
def mmaRows (batched : Bool) (d : BitVec 64) (m : Word) (va vb : Nat → Nat) : List (Nat × Nat × Nat) :=
  if batched then
    (List.range 16).filter (batchedOn m) |>.flatMap (fun b =>
      ((List.range 8).map (fun i => (2 * b, va (2 * b) + i * tileASTR d, tilePA d)))
      ++ ((List.range 16).map (fun c => (2 * b + 1, va (2 * b + 1) + c * tileBSTR d, tilePB d))))
  else
    ((List.range 32).filter (fun j => m.getLsbD j)).flatMap (fun j =>
      (j, va j, tilePA d) :: (if quarterLane m (j / 8) = some j then
        (List.range 64).map (fun c => (j, vb j + c * tileBSTR d, tilePB d)) else []))

/-- The accumulators of the executed words: four from aD + 4w (R165). -/
def mmaAccs (ad : Nat) (m : Mask) : List UnitRef :=
  (Mask.words m).flatMap (fun w => (List.range 4).map (fun q => UnitRef.acc (ad + 4 * w + q)))

/-- An accumulator pending from an entry that has not run (R135). -/
def Team.owedByEntry (t : Team) (r : UnitRef) : Bool :=
  t.pend r && t.fifo.any (fun x => x.dests.any (fun o => o.unit == r && o.gen == t.gen r))

/-- The lanes whose vb a quarter-mode MMA reads. -/
def blLanes (m : Mask) : List Nat :=
  (Mask.words m).flatMap (fun k => (List.range 4).filterMap (fun q => (quarterLane (m.getD k 0) q).map (32 * k + ·)))

/-- The checks of R172 that read operands, over every pass still to issue, each over every lane before the next. -/
def mmaTrap (batched : Bool) (d : BitVec 64) (tilePoison : Bool) (k : Crew) (m : Mask) (va vb : Nat → Val) : Option Trap :=
  let rows := fun w => mmaRows batched d (m.getD w 0) (fun j => (va (32 * w + j)).bits.toNat) (fun j => (vb (32 * w + j)).bits.toNat)
  if tilePoison then some .poisonUniform
  else if tilePA d = 0 ∨ tilePB d = 0 ∨ tileBAT d ≠ batched then some .illegalOperand
  else match (Mask.lanes m).find? (fun l => (va l).isPoison || (!batched && (blLanes m).contains l && (vb l).isPoison)) with
    | some l => some (.poisonConsumed l)
    | none => ((Mask.words m).flatMap (fun w => (rows w).filterMap (fun r =>
        if r.2.1 % 4 ≠ 0 ∨ k.spadSize < r.2.1 + r.2.2 * tileK d / 8 then some (32 * w + r.1, r.2.1) else none))).head?.map
      (fun r => .permission (some r.1) (BitVec.ofNat 64 r.2))

/-- The B bases of a pass, with the quarter or the product each serves. -/
def mmaBases (batched : Bool) (m : Word) (va vb : Nat → Nat) : List (Nat × Nat) :=
  if batched then ((List.range 16).filter (batchedOn m)).map (fun b => (b, va (2 * b + 1)))
  else (List.range 4).filterMap (fun q => (quarterLane m q).map (fun j => (q, vb j)))

/-- `mma`, `mma.z`, `mma.b`, `mma.bz`: the checks of R172, then one pass for each executed word enters the array queue, one by one
(R168). -/
def mmaPlan (zero batched : Bool) (ad : BitVec 6) (a b : BitVec 7) (tl : BitVec 4) : Plan where
  regs := fun t m =>
    if ad.toNat % 4 ≠ 0 ∨ (Mask.words m).any (fun w => decide (t.aN ≤ ad.toNat + 4 * w + 3)) then some .illegalOperand
    else checkV (if batched then [a.toNat] else [a.toNat, b.toNat]) t m
  srcs := fun _ m =>
    [vSrc a.toNat m] ++ (if batched then [] else
      [{ units := (blLanes m).map (UnitRef.vec b.toNat), words := 32 * (Mask.words m).length }])
    ++ [{ units := [.tile tl.toNat], words := 2 }]
  dsts := fun _ m => mmaAccs ad.toNat m
  dstWait := fun _ _ _ => []
  behind := fun t m => (mmaAccs ad.toNat m).any t.owedByEntry
  byPass := true
  act := fun e s =>
    let (d, tp) := (e.rd (.tile tl.toNat)).tile
    match s.crewOf e.uid with
    | none => .ok { s := s }
    | some (_, k) =>
      match mmaTrap batched d tp k e.rest (e.v a.toNat) (e.v b.toNat), Mask.words e.mask with
      | some tr, _ => .trap tr
      | none, [] => .ok { s := s }
      | none, w :: _ =>
        if s.acquiring e.uid then .wait 21 s
        else if 8 ≤ (s.core k.coreKey).array.length then .wait 18 s
        else
          let gens := (mmaAccs ad.toNat e.mask).map (fun u => ({ unit := u, gen := e.gen u } : Owed))
          let m := e.mask.getD w 0
          let va := fun j => (e.v a.toNat (32 * w + j)).bits.toNat
          let (s, op) := s.passOp e .matrix gens
          let (id, s) := s.fresh
          let p : MmaPass :=
            { id := id, op := op, team := e.uid, acc := ad.toNat + 4 * w, zero := zero, batched := batched, desc := d, acting := m
              rowsA := (List.range 32).filter (fun j => m.getLsbD j) |>.map (fun j => (j, va j))
              bases := mmaBases batched m va (fun j => (e.v b.toNat (32 * w + j)).bits.toNat), gens := gens }
          .ok { s := s.modCore k.coreKey (fun c => { c with array := c.array ++ [p] }), owes := gens.map Owed.unit, opId := op }

/-! ## The array pass (R162 to R167, R170, R171) -/

/-- Key of element (i, c) of an accumulator. -/
def elemKey (i c : Nat) : Nat := 64 * i + c

/-- One element after a pass: its old value or 0, plus an exact sum, or poison (R166). The second part tells an overflow. -/
def addElem (zero : Bool) (old : Val) (sum : Option Int) : Val × Bool :=
  match sum, (if zero then Val.word 0 else old) with
  | some n, .word w =>
    let tot := w.toInt + n
    (.word (BitVec.ofInt 32 tot), decide (tot < -2 ^ 31) || decide (2 ^ 31 ≤ tot))
  | _, _ => (.poison, false)

/-- The exact sum of products of an A row and a column row; none where a word of either is poisoned. -/
def rowDot (d : BitVec 64) (a b : List PByte) : Option Int :=
  let kk := tileK d
  if rowClean a && rowClean b then
    (List.range kk).foldl (fun acc i =>
      match acc, planeElem a kk (tilePA d) (tileSA d) i, planeElem b kk (tilePB d) (tileSB d) i with
      | some n, some x, some y => some (n + x * y)
      | _, _, _ => none) (some 0)
  else none

/-- Set one element of an accumulator. -/
def AUnit.setElem (a : AUnit) (i c : Nat) (r : Val × Bool) : AUnit :=
  { a with elems := tset (.word 0) a.elems (elemKey i c) r.1, ovf := a.ovf || r.2 }

/-- The bases that the next array pass of a team pass takes: in quarter mode the lowest quarter's and those equal to it, in batched mode
all (R170, R171). -/
def MmaPass.now (p : MmaPass) : List (Nat × Nat) :=
  match p.batched, p.bases with
  | false, b :: _ => p.bases.filter (fun x => x.2 == b.2)
  | _, bs => bs

/-- What the column rows of an array pass are known by: its instruction, its B bases and its tile (R163). -/
def MmaPass.colKey (p : MmaPass) : Nat × List Nat × BitVec 64 :=
  (p.op, if p.batched then p.now.map Prod.snd else (p.now.map Prod.snd).take 1, p.desc)

/-- The column rows in the array are those of this pass (R163). -/
def ArrayCols.serves (c : ArrayCols) (p : MmaPass) : Bool := (c.op, c.bases, c.desc) == p.colKey

/-- The B grant: all column rows of an array pass, 64 of its one base or 16 of each product's (R163). -/
def MmaPass.grantB (p : MmaPass) (k : Crew) : ArrayCols :=
  let n := if p.batched then 16 else 64
  { op := p.op, bases := p.colKey.2.1, desc := p.desc
    rows := p.colKey.2.1.flatMap (fun b => (List.range n).map (fun c => k.planeRow (b + c * tileBSTR p.desc) (tileK p.desc) (tilePB p.desc))) }

/-- A row of the A grant: the plane row at an address that a lane gives. -/
def MmaPass.rowA (p : MmaPass) (k : Crew) (lane off : Nat) : Option (List PByte) :=
  (p.rowsA.find? (fun r => r.1 == lane)).map (fun r => k.planeRow (r.2 + off) (tileK p.desc) (tilePA p.desc))

/-- Quarter q of a quarter-mode pass (R170): rows of acting lanes take their sums; under a zeroing form the others become 0. -/
def MmaPass.quarter (p : MmaPass) (k : Crew) (cols : List (List PByte)) (q : Nat) (a : AUnit) : AUnit :=
  (List.range 8).foldl (fun a i =>
    let row := p.rowA k (8 * q + i) 0
    (List.range 64).foldl (fun a c =>
      match row with
      | some x => a.setElem i c (addElem p.zero (tget (.word 0) a.elems (elemKey i c)) (rowDot p.desc x (cols.getD c [])))
      | none => if p.zero then a.setElem i c (.word 0, false) else a) a) a

/-- Product b of a batched pass (R171), the n-th that executes, into columns 16 × (b mod 4) on of its accumulator. -/
def MmaPass.product (p : MmaPass) (k : Crew) (cols : List (List PByte)) (n b : Nat) (a : AUnit) : AUnit :=
  (List.range 8).foldl (fun a i =>
    let row := (p.rowA k (2 * b) (i * tileASTR p.desc)).getD []
    (List.range 16).foldl (fun a c =>
      let col := 16 * (b % 4) + c
      a.setElem i col (addElem p.zero (tget (.word 0) a.elems (elemKey i col)) (rowDot p.desc row (cols.getD (16 * n + c) [])))) a) a

/-- Change an accumulator in place: neither pending bit nor generation moves (R167). -/
def Team.modAcc (t : Team) (r : Nat) (f : AUnit → AUnit) : Team := { t with a := tmod {} t.a r f }

/-- The results of one array pass in the team's accumulators. -/
def MmaPass.apply (p : MmaPass) (k : Crew) (cols : List (List PByte)) (t : Team) : Team :=
  if p.batched then p.now.zipIdx.foldl (fun t x => t.modAcc (p.acc + x.1.1 / 4) (p.product k cols x.2 x.1.1)) t
  else p.now.foldl (fun t x => t.modAcc (p.acc + x.1) (p.quarter k cols x.1)) t

/-- An accumulator's pending bit clears when the MMA of its current generation has written its last result; the value is
delivered by generation (R134, R167). -/
def Team.clearAcc (t : Team) (o : Owed) : Team :=
  let t := t.deliver o (t.unit o.unit)
  if t.gen o.unit = o.gen then t.put o.unit (t.unit o.unit) false o.gen else t

/-- Earlier scratchpad accesses of a team that an MMA fetch waits for: window requests to this core and local copies (R169). -/
def State.fetchHeld (s : State) (p : MmaPass) (core : Nat) : Bool :=
  s.wins.any (fun w => w.team == p.team && w.core == core && decide (w.id < p.id))
  || s.copies.any (fun c => c.team == p.team && decide (c.id < p.id) && c.fn != 2 && c.fn != 5)

/-- The array has taken an array pass: the team pass goes on with its other bases, or it is through, and then its accumulators are no
longer pending from it. -/
def State.passTaken (s : State) (core : Nat) (p : MmaPass) (rest : List MmaPass) : State :=
  let left := p.bases.filter (fun b => !p.now.contains b)
  if left.isEmpty then
    ((s.modCore core (fun c => { c with array := rest })).modTeam p.team (fun t => p.gens.foldl Team.clearAcc t)).modOp p.op
      (fun o => { o with owed := o.owed.filter (fun w => !p.gens.contains w) })
  else s.modCore core (fun c => { c with array := { p with bases := left } :: rest })

/-- `ARRAY_PASS` (R162, R163): the array of a core goes on with the pass at the head of its queue: the B grant where the column rows in the
array are not those of the pass, and then the A grant and the products. -/
def State.arrayPass (s : State) (core : Nat) : State :=
  match (s.core core).array with
  | [] => s
  | p :: rest =>
    if s.fetchHeld p core then s
    else match s.crewOf p.team, (s.core core).cols.filter (fun c => c.serves p) with
      | none, _ => s.modCore core (fun c => { c with array := rest })
      | some (_, k), none => s.modCore core (fun c => { c with cols := some (p.grantB k) })
      | some (_, k), some c => (s.modTeam p.team (p.apply k c.rows)).passTaken core p rest

def execArrayPass (core : Nat) (s : State) : Answered := .next (s.arrayPass core)

/-! ## Accumulator entries (R174, R175) -/

/-- Accumulator parts of the executed words. -/
def partAccs (an : Nat) (m : Mask) : List UnitRef := (Mask.words m).map (fun k => UnitRef.acc (an + 4 * k))

def checkPart (an : BitVec 6) (v : BitVec 7) (t : Team) (m : Mask) : Option Trap :=
  if (Mask.words m).any (fun k => decide (t.aN ≤ an.toNat + 4 * k)) then some .illegalOperand else checkV [v.toNat] t m

/-- Element key of part n at datapath lane j. -/
def partKey (n j : Nat) : Nat := elemKey (n / 2) (32 * (n % 2) + j)

/-- `amov`. -/
def amovPlan (d : BitVec 7) (n : BitVec 6) (p : BitVec 4) : Plan where
  regs := checkPart n d
  srcs := fun _ m => [{ units := partAccs n.toNat m, words := 32 * (Mask.words m).length }]
  dsts := fun _ m => vDst d.toNat m
  act := fun e s => .ok { s := s, writes := (Mask.lanes e.mask).map (fun l =>
    (.vec d.toNat l, .w (tget (.word 0) (e.rd (.acc (n.toNat + 4 * (l / 32)))).accu.1 (partKey p.toNat (l % 32))))) }

/-- `awr`: the acting lanes' elements, merged into the old accumulator (R358). -/
def awrPlan (d : BitVec 7) (n : BitVec 6) (p : BitVec 4) : Plan where
  regs := checkPart n d
  srcs := fun _ m => [vSrc d.toNat m]
  part := fun _ m => [{ units := partAccs n.toNat m, words := 512 * (Mask.words m).length }]
  dsts := fun _ m => partAccs n.toNat m
  act := fun e s => .ok { s := s, writes := (Mask.words e.mask).map (fun k =>
    let u := UnitRef.acc (n.toNat + 4 * k)
    let old := (e.rd u).accu
    let ls := (Mask.lanes e.mask).filter (fun l => l / 32 == k)
    (u, .a (ls.foldl (fun t l => tset (.word 0) t (partKey p.toNat (l % 32)) (e.v d.toNat l)) old.1) old.2)) }

def checkAcc (n : BitVec 6) (t : Team) (_ : Mask) : Option Trap := if t.aN ≤ n.toNat then some .illegalOperand else none

/-- `aclr`. -/
def aclrPlan (n : BitVec 6) : Plan where
  whole := true
  regs := checkAcc n
  srcs := fun _ _ => [{ units := [.acc n.toNat], words := 0 }]
  dsts := fun _ _ => [.acc n.toNat]
  act := fun _ s => .ok { s := s, writes := [(.acc n.toNat, .a [] false)] }

/-- `aovf`. -/
def aovfPlan (d : BitVec 7) (n : BitVec 6) (c : BitVec 1) : Plan where
  whole := true
  regs := checkAcc n
  srcs := fun _ _ => [{ units := [.acc n.toNat], words := 1 }]
  dsts := fun _ _ => .uni d.toNat :: (if c = 1 then [.acc n.toNat] else [])
  act := fun e s =>
    let (es, o) := (e.rd (.acc n.toNat)).accu
    let bad := es.any (fun x => x.2.isPoison)
    .ok { s := s, writes := (.uni d.toNat, .w (.word (boolWord bad * 2 + boolWord o)))
            :: (if c = 1 then [(.acc n.toNat, .a es false)] else []) }

/-! ## Plane and tile entries (R176 to R178) -/

/-- Check 2 of R177 for a row word. -/
def planeBad (k : Crew) (m : Mask) (w p kk : Nat) : Bool :=
  let x := w % 2 ^ 19
  let el := w / 2 ^ 19 % 2 ^ 9
  w / 2 ^ 28 != 0 || x % 4 != 0 || el % 8 != 0 || (Mask.words m).any (fun q => decide (kk ≤ el + 32 * q + 31))
  || decide (k.spadSize < x + p * kk / 8)

/-- A plane access: the row word's checks, then `go` with the team, the crew, X, the element offset and K. -/
def planeAct (e : Env) (s : State) (a : BitVec 7) (p m : BitVec 3) (go : Team → Crew → Nat → Nat → Nat → Done) : Done :=
  let kk := planeK (m.toNat + 1)
  match s.crewOf e.uid, e.u a.toNat with
  | none, _ => .ok { s := s }
  | _, .poison => .trap .poisonUniform
  | some (t, k), .word w =>
    if planeBad k e.rest w.toNat (p.toNat + 1) kk then .trap { cause := 0x09, va := some (BitVec.ofNat 64 (w.toNat % 2 ^ 19)) }
    else if s.acquiring e.uid || s.windowBusy e.uid then .wait 21 s
    else go t k (w.toNat % 2 ^ 19) (w.toNat / 2 ^ 19 % 2 ^ 9) kk

/-- One lane of `plnw`: a bit of each plane, or poison for the words that would receive one. -/
def Crew.putPlanes (k : Crew) (x kk p i : Nat) (v : Val) : Crew :=
  (List.range p).foldl (fun k g =>
    let a := x + g * kk / 8 + i / 8
    match v, k.spadByte a with
    | .poison, _ => k.spadPut [(a, none)]
    | .word w, some b =>
      let bit := BitVec.ofNat 8 (2 ^ (i % 8))
      k.spadPut [(a, some (if w.getLsbD g then b ||| bit else b &&& ~~~bit))]
    | .word _, none => k) k

/-- `plnw`. -/
def plnwPlan (d a : BitVec 7) (p m : BitVec 3) : Plan where
  ill := illPlanes p m
  regs := checkV [d.toNat]
  srcs := fun _ mk => [vSrc d.toNat mk, uSrc a.toNat]
  byPass := true
  act := fun e s => planeAct e s a p m (fun t _ x el kk =>
    if s.matrixBusy e.uid then .wait 18 s
    else .ok { s := s.modCrew t.crew (fun k => (Mask.lanes e.mask).foldl (fun k l =>
      k.putPlanes x kk (p.toNat + 1) (el + l) (e.v d.toNat l)) k) })

/-- `plnr` and `plnr.s`: passes one by one, each landing later, as a load's. -/
def plnrPlan (sgn : Bool) (d a : BitVec 7) (p m : BitVec 3) : Plan where
  ill := illPlanes p m
  regs := checkV [d.toNat]
  srcs := fun _ _ => [uSrc a.toNat]
  dsts := fun _ mk => vDst d.toNat mk
  byPass := true
  act := fun e s => planeAct e s a p m (fun _ k x el kk =>
    let row := k.planeRow x kk (p.toNat + 1)
    let ws := (Mask.lanes e.mask).map (fun l =>
      let u := UnitRef.vec d.toNat l
      let v := match planeElem row kk (p.toNat + 1) sgn (el + l) with
        | some n => Val.word (BitVec.ofInt 32 n)
        | none => .poison
      (({ unit := u, gen := e.gen u } : Owed), UnitVal.w v))
    let (s, op) := s.passOp e .plane (ws.map Prod.fst)
    .ok { s := s.addLanding op e.uid ws (if anyPoison ws then some 0xFF else none), owes := vDst d.toNat e.mask, opId := op })

/-- `tset`. -/
def tsetPlan (tl a : BitVec 7) : Plan where
  whole := true
  ill := illTile tl
  regs := fun _ _ => evenU a
  srcs := fun _ _ => [uGroupSrc a.toNat 2]
  dsts := fun _ _ => [.tile tl.toNat]
  reason := 2
  act := fun e s => match e.u a.toNat, e.u (a.toNat + 1) with
    | .word lo, .word hi =>
      let d : BitVec 64 := hi ++ lo
      if tileBad d then .trap .illegalOperand else .ok { s := s, writes := [(.tile tl.toNat, .t d false)] }
    | _, _ => .trap .poisonUniform

/-- `tget`. -/
def tgetPlan (d tl : BitVec 7) : Plan where
  whole := true
  ill := illTile tl
  regs := fun _ _ => evenU d
  srcs := fun _ _ => [{ units := [.tile tl.toNat], words := 2 }]
  dsts := fun _ _ => [.uni d.toNat, .uni (d.toNat + 1)]
  act := fun e s =>
    let (v, bad) := (e.rd (.tile tl.toNat)).tile
    if bad then .trap .poisonUniform
    else .ok { s := s, writes := [(.uni d.toNat, .w (.word (v.extractLsb' 0 32))), (.uni (d.toNat + 1), .w (.word (v.extractLsb' 32 32)))] }

/-! ## The instructions -/

/-- `MMA` (R170). Issues quarter-mode matrix passes that accumulate into accumulators. -/
def planMma (d : BitVec 6) (a : BitVec 7) (b : BitVec 7) (t : BitVec 4) : Plan :=
  mmaPlan false false d a b t

def execMma (d : BitVec 6) (a : BitVec 7) (b : BitVec 7) (t : BitVec 4) (s : State) : Answered := issue (.mma d a b t) (planMma d a b t) s

/-- `MMA_Z` (R170). Issues quarter-mode matrix passes that zero then accumulate. -/
def planMmaZ (d : BitVec 6) (a : BitVec 7) (b : BitVec 7) (t : BitVec 4) : Plan :=
  mmaPlan true false d a b t

def execMmaZ (d : BitVec 6) (a : BitVec 7) (b : BitVec 7) (t : BitVec 4) (s : State) : Answered := issue (.mmaZ d a b t) (planMmaZ d a b t) s

/-- `MMA_B` (R171). Issues batched-mode matrix passes that accumulate. -/
def planMmaB (d : BitVec 6) (a : BitVec 7) (t : BitVec 4) : Plan :=
  mmaPlan false true d a 0 t

def execMmaB (d : BitVec 6) (a : BitVec 7) (t : BitVec 4) (s : State) : Answered := issue (.mmaB d a t) (planMmaB d a t) s

/-- `MMA_BZ` (R171). Issues batched-mode matrix passes that zero then accumulate. -/
def planMmaBz (d : BitVec 6) (a : BitVec 7) (t : BitVec 4) : Plan :=
  mmaPlan true true d a 0 t

def execMmaBz (d : BitVec 6) (a : BitVec 7) (t : BitVec 4) (s : State) : Answered := issue (.mmaBz d a t) (planMmaBz d a t) s

/-- `AMOV` (R175). Moves one accumulator part into a vector register. -/
def planAmov (d : BitVec 7) (n : BitVec 6) (p : BitVec 4) : Plan :=
  amovPlan d n p

def execAmov (d : BitVec 7) (n : BitVec 6) (p : BitVec 4) (s : State) : Answered := issue (.amov d n p) (planAmov d n p) s

/-- `AWR` (R175). Writes a vector register into one accumulator part. -/
def planAwr (d : BitVec 7) (n : BitVec 6) (p : BitVec 4) : Plan :=
  awrPlan d n p

def execAwr (d : BitVec 7) (n : BitVec 6) (p : BitVec 4) (s : State) : Answered := issue (.awr d n p) (planAwr d n p) s

/-- `ACLR` (R175). Clears an accumulator and its sticky overflow bit. -/
def planAclr (n : BitVec 6) : Plan :=
  aclrPlan n

def execAclr (n : BitVec 6) (s : State) : Answered := issue (.aclr n) (planAclr n) s

/-- `AOVF` (R175). Reads an accumulator's poison and overflow state, optionally clearing overflow. -/
def planAovf (d : BitVec 7) (n : BitVec 6) (c : BitVec 1) : Plan :=
  aovfPlan d n c

def execAovf (d : BitVec 7) (n : BitVec 6) (c : BitVec 1) (s : State) : Answered := issue (.aovf d n c) (planAovf d n c) s

/-- `PLNW` (R177). Writes lane values into bit-plane row bits in scratchpad. -/
def planPlnw (d : BitVec 7) (a : BitVec 7) (p : BitVec 3) (m : BitVec 3) : Plan :=
  plnwPlan d a p m

def execPlnw (d : BitVec 7) (a : BitVec 7) (p : BitVec 3) (m : BitVec 3) (s : State) : Answered := issue (.plnw d a p m) (planPlnw d a p m) s

/-- `PLNR` (R177). Reads plane row elements back, zero-extended. -/
def planPlnr (d : BitVec 7) (a : BitVec 7) (p : BitVec 3) (m : BitVec 3) : Plan :=
  plnrPlan false d a p m

def execPlnr (d : BitVec 7) (a : BitVec 7) (p : BitVec 3) (m : BitVec 3) (s : State) : Answered := issue (.plnr d a p m) (planPlnr d a p m) s

/-- `PLNR_S` (R177). Reads plane row elements back, sign-extended. -/
def planPlnrS (d : BitVec 7) (a : BitVec 7) (p : BitVec 3) (m : BitVec 3) : Plan :=
  plnrPlan true d a p m

def execPlnrS (d : BitVec 7) (a : BitVec 7) (p : BitVec 3) (m : BitVec 3) (s : State) : Answered := issue (.plnrS d a p m) (planPlnrS d a p m) s

/-- `TSET` (R178). Writes a tile descriptor from a uniform pair. -/
def planTset (t : BitVec 7) (a : BitVec 7) : Plan :=
  tsetPlan t a

def execTset (t : BitVec 7) (a : BitVec 7) (s : State) : Answered := issue (.tset t a) (planTset t a) s

/-- `TGET` (R178). Reads a tile descriptor into a uniform pair. -/
def planTget (d : BitVec 7) (t : BitVec 7) : Plan :=
  tgetPlan d t

def execTget (d : BitVec 7) (t : BitVec 7) (s : State) : Answered := issue (.tget d t) (planTget d t) s

end Sys2Proof.Machine
end

