-- ==== Sys2Proof/Machine/Records.lean ====
section
/-! DEFINITION. What the package records of itself: error logs (spec/17 R337), responses of the management core (spec/15 R304), and results that
engines return to a team's result FIFOs (spec/10 R180, R183, R347). -/

namespace Sys2Proof.Machine

/-! ## Error logs (R337) -/

/-- A log holds 256 records; further ones are dropped and counted. -/
def ErrLog.add (l : ErrLog) (r : ErrRec) : ErrLog :=
  if l.recs.length < 256 then { l with recs := l.recs ++ [r] } else { l with dropped := l.dropped + 1 }

/-- Append to a die's log. -/
def State.logDie (s : State) (d : Nat) (kind : BitVec 8) (low world cls index : Nat) : State :=
  s.modDie d (fun x => { x with errLog := x.errLog.add { dcc := x.dcc, kind := kind, low := low, world := world, cls := cls, index := index } })

/-- Append to a pier's cell log or transfer log. -/
def State.logPier (s : State) (p : Nat) (xfer : Bool) (kind : BitVec 8) (low world cls index : Nat) : State :=
  s.modPier p (fun x =>
    let r : ErrRec := { dcc := x.dcc, kind := kind, low := low, world := world, cls := cls, index := index }
    if xfer then { x with xferLog := x.xferLog.add r } else { x with cellLog := x.cellLog.add r })

/-- Append to an abutment's log. -/
def State.logAbut (s : State) (w : Nat) (kind : BitVec 8) (low world cls index : Nat) : State :=
  let r : ErrRec := { dcc := s.abutDcc w, kind := kind, low := low, world := world, cls := cls, index := index }
  { s with abutLogs := tmod {} s.abutLogs w (fun l => l.add r) }

/-! ## Responses of the management core (R303, R304) -/

/-- Response slots free: one stays empty, so that head and tail tell a full ring from an empty one. -/
def HostSide.rspFree (h : HostSide) : Nat := (h.rspHead + 127 - h.rspTail) % 128

/-- A response in its slots, from the tail on. -/
def HostSide.fill (h : HostSide) (r : Response) : Table (Option FilledSlot) :=
  (List.range r.slots).foldl (fun m i => tset none m ((h.rspTail + i) % 128) (some { rsp := r, part := i, serial := h.written })) h.filled

/-- Write the responses owed while slots are free: the tail advances and vector 0 is raised for each. Fuel is their number. -/
def HostSide.pump : Nat → HostSide → HostSide
  | 0, h => h
  | n + 1, h =>
    match h.owed with
    | [] => h
    | r :: rest =>
      if h.rspFree < r.slots then h
      else HostSide.pump n { h with owed := rest, rsps := h.rsps ++ [r], rspTail := (h.rspTail + r.slots) % 128, msix := h.msix ++ [0],
                                      filled := h.fill r, written := h.written + 1 }

/-- The two management rings change places: what is written for port W's ring then serves port E's (R304). -/
def HostSide.swap (h : HostSide) : HostSide :=
  let mine : MgmtRing :=
    { reqTail := h.reqTail, reqHead := h.reqHead, rspTail := h.rspTail, rspHead := h.rspHead, rsps := h.rsps, owed := h.owed
      reqWords := h.reqWords, filled := h.filled }
  { h with reqTail := h.other.reqTail, reqHead := h.other.reqHead, rspTail := h.other.rspTail, rspHead := h.other.rspHead
           rsps := h.other.rsps, owed := h.other.owed, reqWords := h.other.reqWords, filled := h.other.filled, other := mine }

/-- The state seen from a host port, and back. -/
def State.facing (s : State) (portE : Bool) : State := if portE then { s with host := s.host.swap } else s

/-- A response, written as soon as its slots are free. -/
def State.respond (s : State) (r : Response) : State :=
  { s with host := HostSide.pump (s.host.owed.length + 1) { s.host with owed := s.host.owed ++ [r] } }

/-! ## Results (R180, R183, R347) -/

/-- The team's oldest `qpop` on a queue register that awaits a result. -/
def State.popWaiting (s : State) (uid q : Nat) : Option OpRec :=
  s.ops.find? (fun o => o.team == uid && o.kind == OpKind.pop q && o.parts == 1)

/-- An engine's result for a team: to the oldest waiting `qpop`, else to the FIFO; after the team's end it is discarded. -/
def State.pushResult (s : State) (uid q : Nat) (x : BitVec 64) : State :=
  match s.team? uid with
  | none => s
  | some t =>
    if t.status = .ended then s
    else match s.popWaiting uid q with
    | some o =>
      let s := s.modOp o.id (fun o => { o with parts := 0 })
      s.addLanding o.id uid (o.owed.zip [UnitVal.w (.word (x.extractLsb' 0 32)), UnitVal.w (.word (x.extractLsb' 32 32))])
    | none => s.setTeam uid { t with results := tset [] t.results q (tget [] t.results q ++ [x]) }

/-- The commands of a team that a queue has accepted and not answered (R180): copies are answered by their promise. -/
def State.unanswered (s : State) (uid q : Nat) : Nat :=
  if q = 8 then
    match s.crewOf uid with
    | some (_, k) => (((s.die k.die).q8.filter (fun w => w.team == uid)).length) / 2
    | none => 0
  else if q = 9 then
    match s.crewOf uid with
    | some (_, k) => ((s.die k.die).routes.filter (fun r => r.team == uid)).length
    | none => 0
  else if 10 ≤ q ∧ q ≤ 13 then (s.net.cmds.filter (fun c => c.team == uid && c.q == q && c.result.isNone)).length
  else 0

/-- R180: the issuing FIFO has no room for the result of n more commands. -/
def State.resultsFull (s : State) (uid q n : Nat) : Bool :=
  match s.team? uid with
  | some t => decide (16 < (tget [] t.results q).length + s.unanswered uid q + n)
  | none => false

/-- R180 at a resumption and R336 step 1: waiting `qpop` pairs hold poison and their counters fall. -/
def State.cancelPops (s : State) (uid : Nat) : State :=
  (s.ops.filter (fun o => o.team == uid && (match o.kind with | .pop _ => true | _ => false))).foldl (fun s o =>
    let s := s.modTeam uid (fun t => o.owed.foldl (fun t w => if t.gen w.unit = w.gen then t.poisonUnit w.unit else t) t)
    { s with ops := s.ops.filter (fun x => x.id != o.id), lands := s.lands.filter (fun l => l.op != o.id) }.modTeam uid (fun t => t.decW o.w)) s

end Sys2Proof.Machine
end

