-- ==== Sys2Proof/Machine/Queue.lean ====
section
/-! DEFINITION. Engine queues, the copy engine, promises, sleeping and phase-bit barriers (spec/10). A copy moves its bytes at
COPY_START and gives its credit at COPY_COMPLETE. -/

namespace Sys2Proof.Machine

/-! ## Phase-bit barrier words (R192, R194) -/

/-- The fields of a phase-bit barrier word (R192). -/
structure PhaseWord where
  ph : Bool
  exp : Nat
  rem : Nat
  ovr : Bool
  byt : Nat
  deriving DecidableEq, Repr

def PhaseWord.of (w : BitVec 64) : PhaseWord :=
  { ph := w.getLsbD 63, exp := (w.extractLsb' 52 11).toNat, rem := (w.extractLsb' 41 11).toNat, ovr := w.getLsbD 40
    byt := (w.extractLsb' 0 40).toNat }

def PhaseWord.bits (x : PhaseWord) : BitVec 64 :=
  BitVec.ofBool x.ph ++ BitVec.ofNat 11 x.exp ++ BitVec.ofNat 11 x.rem ++ BitVec.ofBool x.ovr ++ BitVec.ofNat 40 x.byt

/-- Flip (R194). -/
def PhaseWord.flip (x : PhaseWord) : PhaseWord :=
  if x.rem = 0 ∧ x.byt = 0 then { x with ph := !x.ph, rem := x.exp } else x

/-- `pb.init`. -/
def PhaseWord.init (e : Nat) : PhaseWord := { ph := false, exp := e, rem := e, ovr := false, byt := 0 }

/-- `pb.exp`. -/
def PhaseWord.expect (x : PhaseWord) (n : Nat) : PhaseWord :=
  if 2 ^ 40 - 1 < x.byt + n then { x with byt := 2 ^ 40 - 1, ovr := true } else { x with byt := x.byt + n }

/-- `pb.arv`. -/
def PhaseWord.arrive (x : PhaseWord) : PhaseWord :=
  (if x.rem = 0 then { x with ovr := true } else { x with rem := x.rem - 1 }).flip

/-- A copy's credit. -/
def PhaseWord.credit (x : PhaseWord) (c : Nat) : PhaseWord :=
  (if x.byt < c then { x with byt := 0, ovr := true } else { x with byt := x.byt - c }).flip

/-- The word at an address of a crew's scratchpad; none when one of its words is poisoned. -/
def Crew.phaseAt (k : Crew) (a : Nat) : Option PhaseWord := (leNat (k.spadBytes a 8)).map (fun n => .of (BitVec.ofNat 64 n))

def Crew.putPhase (k : Crew) (a : Nat) (x : PhaseWord) : Crew :=
  k.spadPut ((List.range 8).zip (leBytes 8 x.bits.toNat) |>.map (fun b => (a + b.1, b.2)))

/-! ## Queue registers (R179 to R184) -/

/-- R3: q10 to q13 while CAP.NET is 0. -/
def netAbsent (qs : List Nat) (s : State) : Bool := qs.any (fun q => decide (10 ≤ q) && decide (q ≤ 13)) && !s.capNet

/-- An unbound register (R179). -/
def unbound (q : BitVec 4) : Option Trap := if 14 ≤ q.toNat then some .queueMisuse else none

/-- A check that comes after another. -/
def orTrap (a b : Option Trap) : Option Trap := match a with | some t => some t | none => b

/-- The entries of a copy queue. -/
def State.copyQueue (s : State) (eng q : Nat) : List CopyCmd := s.copies.filter (fun c => c.engine == eng && c.queue == q)

/-- The stall reason of a full engine queue (R180). -/
def fullReason (q : Nat) : Nat := if q < 8 then 19 else if q = 8 then 23 else if q = 9 then 20 else 5

/-- Free command slots of the engine queue a register is bound to: free words for q8 (R180, R183). -/
def State.freeSlots (s : State) (k : Crew) (q : Nat) : Nat :=
  if q < 8 then 16 - (s.copyQueue k.quad q).length
  else if q = 8 then 128 - (s.die k.die).q8.length
  else if q = 9 then 64 - (s.die k.die).routes.length
  else 64 - (s.net.cmds.filter (fun c => c.q == q)).length

/-- The team's earlier memory and scratchpad accesses, MMA plane fetches among them (R261), that an engine's start of a command waits for (R182). -/
def State.earlierAccesses (s : State) (uid : Nat) : List Nat :=
  ((s.opsOf uid).filter (fun o => match o.kind with
    | .load => true
    | .store => true
    | .atomic => true
    | .scratch => true
    | .window => true
    | .plane => true
    | .matrix => true
    | _ => false)).map OpRec.id

/-- Every one of some accesses has been performed. -/
def State.allDone (s : State) (ids : List Nat) : Bool := ids.all (fun id => (s.op? id).isNone)

/-- The words of a uniform or per-lane source, with the lane each comes from. -/
def Env.pushed (e : Env) (r : BitVec 7) (u : BitVec 1) : List (Option Nat × Val) :=
  if u = 1 then [(none, e.u r.toNat)] else (Mask.lanes e.mask).map (fun l => (some l, e.v r.toNat l))

/-- `qpush` to q8 (R280): how many pairs it completes, and its words in the task unit's queue. -/
def State.pushQ8 (s : State) (e : Env) (k : Crew) (ws : List Val) : Done :=
  let half := ((s.die k.die).q8.filter (fun w => w.team == e.uid)).length % 2
  let pairs := (ws.length + half) / 2
  let used := (s.die k.die).q8.length
  if s.resultsFull e.uid 8 (if 16 < pairs then 16 else pairs) then .wait 5 s
  else if 128 < used + ws.length ∧ used ≠ 0 then .wait 23 s
  else
    let crew := match s.team? e.uid with | some t => t.crew | none => 0
    let gate := s.earlierAccesses e.uid
    let s := s.modDie k.die (fun d => { d with q8 := d.q8 ++ ws.map (fun v =>
      ({ team := e.uid, crew := crew, world := k.world, asn := k.asn, tid := k.tid, earlier := gate, word := v.bits } : Q8Word)) })
    .ok { s := s.modTeam e.uid (fun t => t.decW e.w) }

/-- `qpush` (R182, R324). A queue it may not name traps when the word has its effect: at the run of a captured one (R140). -/
def qpushPlan (q : BitVec 4) (r : BitVec 7) (u : BitVec 1) (w : BitVec 3) : Plan where
  whole := u == 1
  ill := illWait w
  absent := netAbsent [q.toNat]
  regs := fun t m => if u = 1 then none else checkV [r.toNat] t m
  srcs := fun _ m => [bSrc r.toNat u m]
  w := w
  act := fun e s =>
    let ws := e.pushed r u
    let wide := if q.toNat = 8 then none else ws.find? (fun x => match x.2 with | .word b => b.toNat / 2 ^ 20 != 0 | .poison => false)
    if q.toNat < 8 ∨ q.toNat = 9 ∨ 14 ≤ q.toNat then .trap .queueMisuse
    else match s.crewOf e.uid, wide, ws.find? (fun x => x.2.isPoison) with
    | none, _, _ => .ok { s := s }
    | _, some x, _ => .trap { cause := 0x1D, lane := x.1 }
    | _, none, some x => .trap { cause := 0x10, lane := x.1 }
    | some (_, k), none, none =>
      if s.acquiring e.uid then .wait 21 s
      else if q.toNat = 8 then s.pushQ8 e k (ws.map Prod.snd)
      else .ok { s := s.modTeam e.uid (fun t =>
        { t with conn := match ws.getLast? with | some x => tset 0 t.conn q.toNat (x.2.bits.setWidth 20) | none => t.conn }.decW e.w) }

/-- The writes of a 64-bit value into an even pair. -/
def pairWrites (d : BitVec 7) (x : BitVec 64) : List (UnitRef × UnitVal) :=
  [(.uni d.toNat, .w (.word (x.extractLsb' 0 32))), (.uni (d.toNat + 1), .w (.word (x.extractLsb' 32 32)))]

/-- The oldest result that a later popping member may take: none while an earlier `qpop` waits (R183). -/
def State.topResult (s : State) (uid q : Nat) : Option (BitVec 64) :=
  if (s.popWaiting uid q).isSome then none
  else match s.team? uid with
    | some t => (tget [] t.results q).head?
    | none => none

def Team.dropResult (t : Team) (q : Nat) : Team := { t with results := tset [] t.results q (tget [] t.results q).tail }

/-- The clause's mode is deferring mode, outside a stop (R143, R336). -/
def Team.isDeferring (t : Team) : Bool := (match t.clause with | some c => c.deferring | none => t.defOn) && !t.stop.mode

/-- `qpop` (R183). -/
def qpopPlan (q : BitVec 4) (d : BitVec 7) (w : BitVec 3) : Plan where
  whole := true
  ill := illWait w
  absent := netAbsent [q.toNat]
  regs := fun _ _ => orTrap (evenU d) (unbound q)
  dsts := fun _ _ => [.uni d.toNat, .uni (d.toNat + 1)]
  how := .park
  w := w
  act := fun e s =>
    match s.topResult e.uid q.toNat, s.team? e.uid with
    | _, none => .ok { s := s }
    | some x, _ => .ok { s := s.modTeam e.uid (fun t => (t.dropResult q.toNat).decW e.w), writes := pairWrites d x }
    | none, some t =>
      if t.isDeferring then
        let (op, s) := s.fresh
        let rs := [UnitRef.uni d.toNat, UnitRef.uni (d.toNat + 1)]
        .ok { s := s.addOp { id := op, team := e.uid, kind := .pop q.toNat, w := e.w, hdrVA := e.hdrVA, parts := 1
                             owed := rs.map (fun r => ({ unit := r, gen := e.gen r } : Owed)) }, owes := rs }
      else .wait 4 s

/-- The predicate words a whole-team form sets in its acting lanes, merged into the old words (R358). -/
def Env.setPred (e : Env) (pd : Nat) (b : Bool) : List (UnitRef × UnitVal) :=
  (Mask.words e.mask).map (fun k =>
    let old := (e.rd (.pred pd k)).preds
    let m := e.mask.getD k 0
    (UnitRef.pred pd k, UnitVal.p (if b then old.1 ||| m else old.1 &&& ~~~m) (old.2 &&& ~~~m)))

/-- The old predicate words that a partial write reads (R358). -/
def predOld (pd : Nat) (m : Mask) : List Src :=
  let ks := (Mask.words m).filter (fun k => m.getD k 0 != 0xFFFFFFFF)
  if ks.isEmpty then [] else [{ units := ks.map (UnitRef.pred pd), words := ks.length }]

def predDst (pd : Nat) (m : Mask) : List UnitRef := (Mask.words m).map (UnitRef.pred pd)

/-- The predicate words that `qtry` sets. In deferring mode it waits for no register (R132): where the old word is pending, what the lanes
that do not act then hold the spec does not state, and it is a free value (DESIGN CHOICE, notes/assumptions/63.md). -/
def State.tryPred (s : State) (e : Env) (pd : Nat) (b : Bool) : State × List (UnitRef × UnitVal) :=
  let pend := fun (r : UnitRef) => match s.team? e.uid with | some t => t.pend r | none => false
  ({ s with free := s.free + 2 * e.mask.length }, (Mask.words e.mask).map (fun k =>
    let u := UnitRef.pred pd k
    let old := if pend u then (Config.freeWord (s.free + 2 * k), Config.freeWord (s.free + 2 * k + 1)) else (e.rd u).preds
    let m := e.mask.getD k 0
    (u, UnitVal.p (if b then old.1 ||| m else old.1 &&& ~~~m) (old.2 &&& ~~~m))))

/-- `qtry` (R183). -/
def qtryPlan (q : BitVec 4) (d : BitVec 7) (p : BitVec 3) : Plan where
  whole := true
  absent := netAbsent [q.toNat]
  regs := fun _ _ => orTrap (orTrap (evenU d) (if p = 0 then some .illegalOperand else none)) (unbound q)
  dsts := fun _ m => [.uni d.toNat, .uni (d.toNat + 1)] ++ predDst p.toNat m
  how := .park
  act := fun e s => match s.topResult e.uid q.toNat with
    | some x =>
      let (s, ws) := s.tryPred e p.toNat true
      .ok { s := s.modTeam e.uid (fun t => t.dropResult q.toNat), writes := pairWrites d x ++ ws }
    | none =>
      let (s, ws) := s.tryPred e p.toNat false
      .ok { s := s, writes := ws }

/-- The registers that `qfence` names (R184). -/
def fenceQueues (q : BitVec 4) (m : BitVec 7) : List Nat :=
  q.toNat :: ((List.range 7).filter (fun i => m.getLsbD i)).map (fun i => q.toNat + 1 + i)

/-- `qfence` (R184). -/
def qfencePlan (q : BitVec 4) (m : BitVec 7) : Plan where
  whole := true
  absent := netAbsent (fenceQueues q m)
  act := fun e s =>
    let qs := fenceQueues q m
    if qs.any (fun j => decide (8 ≤ j)) then .trap .queueMisuse
    else match s.crewOf e.uid with
    | none => .ok { s := s }
    | some (t, k) =>
      if s.acquiring e.uid then .wait 21 s
      else if qs.any (fun j => s.freeSlots k j == 0) then .wait 19 s
      else
        let (id, s) := s.fresh
        .ok { s := { s with copies := s.copies ++ qs.map (fun j =>
          ({ id := id, op := 0, team := e.uid, crew := t.crew, hdrVA := e.hdrVA, engine := k.quad, queue := j, fn := 5, block := [], imm := m
             bytes := 0, accepted := 0, promise := 0, revised := 0, fence := id, fenceQs := qs } : CopyCmd)) } }

/-- `qstat` (R183). -/
def qstatPlan (q : BitVec 4) (d : BitVec 7) : Plan where
  whole := true
  absent := netAbsent [q.toNat]
  regs := fun _ _ => unbound q
  dsts := fun _ _ => [.uni d.toNat]
  how := .park
  act := fun e s => match s.crewOf e.uid with
    | none => .ok { s := s }
    | some (t, k) =>
      .ok { s := s, writes := [(.uni d.toNat, .w (.word (BitVec.ofNat 32
        ((tget [] t.results q.toNat).length % 256 + 256 * (s.freeSlots k q.toNat % 256)))))] }

/-! ## Copy commands (R186, R187, R189) -/

/-- A field of a block. -/
def blk (b : List Word) (i lo n : Nat) : Nat := ((b.getD i 0).extractLsb' lo n).toNat

/-- The VA that words i and i + 1 of a block hold. -/
def blkVA (b : List Word) (i : Nat) : Nat := ((b.getD (i + 1) 0) ++ (b.getD i 0)).toNat

/-- The kinds of copy: 0 g2s, 1 s2g, 2 g2g, 3 pln, 4 s2sq. -/
def copyBytes (fn : Nat) (b : List Word) (imm : BitVec 7) : Nat :=
  if fn = 2 then 1024 * imm.toNat
  else if fn = 3 then (blk b 2 19 13 + 1) * ((imm.extractLsb' 4 3).toNat + 1) * planeK ((imm.extractLsb' 1 3).toNat + 1) / 8
  else if fn = 4 then 16 * blk b 2 0 16
  else 16 * blk b 3 0 16

/-- The barrier address, where the block has one. -/
def copyBar (fn : Nat) (b : List Word) : Nat := 8 * (if fn = 3 ∨ fn = 4 then blk b 3 0 16 else blk b 3 16 16)

def copyCred (fn : Nat) (imm : BitVec 7) : Bool := fn != 2 && imm.getLsbD 0

/-- The local scratchpad range of a copy: its address and the bytes from its start to its end. -/
def copyLocal (fn : Nat) (b : List Word) (imm : BitVec 7) : Option (Nat × Nat) :=
  if fn = 2 then none
  else if fn = 3 then some (blk b 2 0 19, 48 * blk b 2 19 13 + ((imm.extractLsb' 4 3).toNat + 1) * planeK ((imm.extractLsb' 1 3).toNat + 1) / 8)
  else if fn = 4 then some (blk b 0 0 19, copyBytes fn b imm)
  else some (blk b 2 0 19, copyBytes fn b imm)

/-- R187 step 3: the offending address of the first check that fails, in the order listed. The fields that R186 marks 0 are those of g2s and
s2g. -/
def copyBad (k : Crew) (fn : Nat) (b : List Word) (imm : BitVec 7) : Option Nat :=
  let vas := if fn = 2 then [blkVA b 0, blkVA b 2] else if fn = 4 then [] else [blkVA b 0]
  let spads := if fn = 2 then [] else if fn = 4 then [blk b 0 0 19, blk b 1 0 32] else [blk b 2 0 19]
  let grain := if fn = 3 then 4 else 16
  let zeros := if fn = 0 ∨ fn = 1 then [(b.getD 2 0).toNat / 2 ^ 19 * 2 ^ 19]
    else []
  let bar := copyBar fn b
  ((vas.filter (fun v => v % 16 != 0))
    ++ (spads.filter (fun a => a % grain != 0))
    ++ (zeros.filter (· != 0))
    ++ (if copyCred fn imm && fn != 4 && k.spadBad bar 8 then [bar] else [])
    ++ (match copyLocal fn b imm with | some (a, n) => if k.spadSize < a + n then [a] else [] | none => [])).head?

/-- ⌈(Q + n) ÷ 64⌉ + 96 after acceptance (R189). -/
def promiseOf (now : BitVec 64) (queued n : Nat) : BitVec 64 := now + BitVec.ofNat 64 (96 + (queued + n + 63) / 64)

/-! ## The copy engine (R185, R187, R188) -/

/-- A read of the engine for a team (R206: served by an entry of any kind). A fault carries the VA. -/
def State.copyRead (s : State) (k : Crew) (va n : Nat) : Except Trap (State × List PByte) :=
  let fail := fun (c : BitVec 8) => ({ cause := c, va := some (BitVec.ofNat 64 va) } : Trap)
  match s.translateOwn k.die k.world k.asn { rd := true } va with
  | .error c => .error (fail c)
  | .ok pa =>
    match s.choose k.die k.die k.world false pa with
    | none => .error (fail 0x0A)
    | some a =>
      if (s.orderedPath k.die a.holder).isNone then .error (fail 0x0A)
      else match s.mapAt a.holder k.world pa with
      | none => .error (fail 0x0A)
      | some (_, off) =>
        if capacity a.holder ≤ off then .error (fail 0x09)
        else if s.ownerOf a.holder off ≠ k.world ∧ s.ownerOf a.holder off ≠ 0 then .error (fail 0x0C)
        else
          let (h, off) := s.servedAt a.holder off
          .ok (((s.walkNoted k.die k.world k.asn va).watched h k.world pa 0 k.die n).noteTag h off, if s.holderSilent h then List.replicate n none else s.bytesAt h off n)

/-- A write of the engine for a team, at the HOME. -/
def State.copyWrite (s : State) (k : Crew) (va : Nat) (bs : List PByte) : Except Trap State :=
  let fail := fun (c : BitVec 8) => ({ cause := c, va := some (BitVec.ofNat 64 va) } : Trap)
  match s.translateOwn k.die k.world k.asn { wr := true } va with
  | .error c => .error (fail c)
  | .ok pa =>
    match s.choose k.die k.die k.world true pa with
    | none => .error (fail 0x0A)
    | some a =>
      if (s.orderedPath k.die a.holder).isNone then .error (fail 0x0A)
      else if a.noPoison && bs.any Option.isNone then .error (fail 0x10)
      else match (s.walkNoted k.die k.world k.asn va).writeOwn k.die k.world pa bs with
      | .error c => .error (fail c)
      | .ok s => .ok s

/-- Run n pieces of a copy in order, stopping at the first fault. -/
def copyPieces (piece : Nat → State → Except Trap State) : Nat → Nat → State → State × Option Trap
  | 0, _, s => (s, none)
  | n + 1, i, s =>
    match piece i s with
    | .error t => (s, some t)
    | .ok s => copyPieces piece n (i + 1) s

/-- n bytes of global memory read by words, for one plane row. -/
def State.copyRow (s : State) (k : Crew) (va : Nat) : Nat → Except Trap (State × List PByte)
  | 0 => .ok (s, [])
  | n + 1 =>
    match s.copyRead k va 4 with
    | .error t => .error t
    | .ok (s, bs) =>
      match s.copyRow k (va + 4) n with
      | .error t => .error t
      | .ok (s, rest) => .ok (s, bs ++ rest)

/-- Bit g of container i of a row of nibbles or bytes; none when its word is poisoned. -/
def containerBit (row : List PByte) (bits i g : Nat) : Option Bool :=
  let w := i * bits / 32 * 4
  if (List.range 4).any (fun j => (row.getD (w + j) none).isNone) then none
  else (row.getD (i * bits / 8) none).map (fun b => b.getLsbD (i * bits % 8 + g))

/-- A byte of a plane from eight containers. -/
def planeByte (row : List PByte) (bits j g : Nat) : PByte :=
  let xs := (List.range 8).map (fun t => containerBit row bits (8 * j + t) g)
  if xs.any Option.isNone then none
  else some (BitVec.ofNat 8 (((List.range 8).zip xs).foldl (fun a x => if x.2 == some true then a + 2 ^ x.1 else a) 0))

/-- The bytes that a row of `cpy.pln` writes (R187). -/
def planeRow (row : List PByte) (p kk dst : Nat) : List (Nat × PByte) :=
  let bits := if p ≤ 4 then 4 else 8
  (List.range p).flatMap (fun g => (List.range (kk / 8)).map (fun j => (dst + g * kk / 8 + j, planeByte row bits j g)))

def cellsFrom (a : Nat) (bs : List PByte) : List (Nat × PByte) := (List.range bs.length).zip bs |>.map (fun b => (a + b.1, b.2))

/-- One piece of a copy: 16 bytes, or a row of `cpy.pln`. -/
def CopyCmd.piece (c : CopyCmd) (k : Crew) (target : Nat) (i : Nat) (s : State) : Except Trap State :=
  let b := c.block
  let spad := fun (s : State) (a n : Nat) => match s.crew? c.crew with | some k => k.spadBytes a n | none => []
  if c.fn = 0 then
    match s.copyRead k (blkVA b 0 + 16 * i) 16 with
    | .error t => .error t
    | .ok (s, bs) => .ok (s.modCrew c.crew (fun k => k.spadPut (cellsFrom (blk b 2 0 19 + 16 * i) bs)))
  else if c.fn = 1 then s.copyWrite k (blkVA b 0 + 16 * i) (spad s (blk b 2 0 19 + 16 * i) 16)
  else if c.fn = 2 then
    match s.copyRead k (blkVA b 0 + 16 * i) 16 with
    | .error t => .error t
    | .ok (s, bs) => s.copyWrite k (blkVA b 2 + 16 * i) bs
  else if c.fn = 3 then
    let p := (c.imm.extractLsb' 4 3).toNat + 1
    let kk := planeK ((c.imm.extractLsb' 1 3).toNat + 1)
    match s.copyRow k (blkVA b 0 + i * (16 * blk b 3 16 16)) (kk * (if p ≤ 4 then 4 else 8) / 32) with
    | .error t => .error t
    | .ok (s, row) => .ok (s.modCrew c.crew (fun k => k.spadPut (planeRow row p kk (blk b 2 0 19 + 48 * i))))
  else .ok (s.modCrew target (fun k => k.spadPut (cellsFrom (blk b 1 0 19 + 16 * i) (spad s (blk b 0 0 19 + 16 * i) 16))))

/-- The crew that `cpy.s2sq` writes to, checked when the command runs (R156, R188). -/
def State.copyTarget (s : State) (c : CopyCmd) (k : Crew) : Except Trap Nat :=
  if c.fn ≠ 4 then .ok c.crew
  else
    let w := blk c.block 1 0 32
    match s.ticketCrew k.die (windowCore k w) k.ticket with
    | none => .error { cause := 0x0B, va := some (BitVec.ofNat 64 w) }
    | some (id, t) =>
      if 2 ^ 21 ≤ w then .error { cause := 0x09, va := some (BitVec.ofNat 64 w) }
      else if t.spadSize < w % 2 ^ 19 + c.bytes then .error { cause := 0x09, va := some (BitVec.ofNat 64 w) }
      else if copyCred c.fn c.imm && t.spadBad (copyBar c.fn c.block) 8 then
        .error { cause := 0x09, va := some (BitVec.ofNat 64 (copyBar c.fn c.block)) }
      else .ok id

/-- Remove copy commands; what waited for them goes on. -/
def State.dropCopies (s : State) (p : CopyCmd → Bool) : State :=
  let gone := s.copies.filter p
  gone.foldl (fun s c => s.modOp c.op (fun o => { o with parts := 0 })) { s with copies := s.copies.filter (fun c => !p c) }

/-- A card's error status: the first one stands (R188). -/
def State.failCard (s : State) (tid : BitVec 32) (status cause : BitVec 6) : State :=
  { s with cards := s.cards.map (fun c => if c.tid == tid && c.status == 0 then { c with status := status, cause := cause } else c) }

/-- A fault found while a command runs (R188): it stops, the team's later waiting commands go, the team traps late; after its
end the card takes status 0x06. -/
def State.copyFault (s : State) (c : CopyCmd) (tr : Trap) : State :=
  let s := (s.dropCopies (fun x => x.id == c.id || (x.team == c.team && x.engine == c.engine && !x.started && decide (c.id < x.id)))).violated c.team tr
  match s.team? c.team, s.crew? c.crew with
  | some t, some k =>
    if t.status = .ended then s.failCard k.tid 0x06 (tr.cause.setWidth 6) else s.lateTrap c.team c.hdrVA tr
  | _, _ => s

/-- Pieces of a command. -/
def CopyCmd.pieces (c : CopyCmd) : Nat := if c.fn = 3 then blk c.block 2 19 13 + 1 else c.bytes / 16

/-- A fence at the head of every queue it names goes (R184). -/
def State.passFence (s : State) (c : CopyCmd) : State :=
  if c.fenceQs.all (fun q => match (s.copyQueue c.engine q).head? with
      | some h => h.fn == 5 && h.fence == c.fence
      | none => false) then
    { s with copies := s.copies.filter (fun x => !(x.fn == 5 && x.fence == c.fence)) }
  else s

/-- Words of global memory that one row of `cpy.pln` reads: K nibbles or bytes. -/
def CopyCmd.rowWords (c : CopyCmd) : Nat :=
  planeK ((c.imm.extractLsb' 1 3).toNat + 1) * (if (c.imm.extractLsb' 4 3).toNat + 1 ≤ 4 then 4 else 8) / 32

/-- The global pieces that a copy reads and writes, with whether each is written. -/
def CopyCmd.places (c : CopyCmd) : List (Nat × Bool) :=
  let b := c.block
  (List.range c.pieces).flatMap (fun i =>
    if c.fn = 0 then [(blkVA b 0 + 16 * i, false)]
    else if c.fn = 1 then [(blkVA b 0 + 16 * i, true)]
    else if c.fn = 2 then [(blkVA b 0 + 16 * i, false), (blkVA b 2 + 16 * i, true)]
    else if c.fn = 3 then (List.range c.rowWords).map (fun j => (blkVA b 0 + i * (16 * blk b 3 16 16) + 4 * j, false))
    else [])

/-- A place that an access of the engine must wait for: to be read at a mirror or home while a mirrored write of its granule is under way
(R208), to be written also while its home is frozen (R211, R212). -/
def State.copyWaits (s : State) (k : Crew) (x : Nat × Bool) : Bool :=
  match s.translateOwn k.die k.world k.asn { rd := !x.2, wr := x.2 } x.1 with
  | .error _ => false
  | .ok pa => if x.2 then s.ownBusy k.die k.world pa
    else match s.choose k.die k.die k.world false pa with
      | none => false
      | some a => match s.mapAt a.holder k.world pa with
        | none => false
        | some (_, off) => s.granuleHeld a.holder off

/-- `COPY_START` (R185): the head of a queue starts once the team's earlier accesses are performed (R182), and moves its bytes
in ascending pieces. A command that will miss its promise gets a revised one, a free value (R189, notes/assumptions/10.md). -/
def State.copyStart (s : State) (eng q : Nat) : State :=
  match (s.copyQueue eng q).head? with
  | none => s
  | some c =>
    if c.fn = 5 then s.passFence c
    else if c.started || !s.allDone c.earlier then s
    else match s.crew? c.crew with
    | none => s
    | some k =>
      if c.places.any (s.copyWaits k) then s
      else match s.copyTarget c k with
      | .error tr => s.copyFault c tr
      | .ok target =>
        match copyPieces (c.piece k target) c.pieces 0 s with
        | (s, some tr) => s.copyFault c tr
        | (s, none) =>
          let now := s.dccOf k
          let late := c.revised.ult (now + BitVec.ofNat 64 ((c.bytes + 63) / 64))
          let r := if late && c.revised.ult (Config.freeBits s.free) then Config.freeBits s.free else c.revised
          { s with free := s.free + 1
                   copies := s.copies.map (fun x => if x.id == c.id && x.fn != 5 then { x with started := true, revised := r } else x) }

def execCopyStart (engine queue : Nat) (s : State) : Answered := .next (s.copyStart engine queue)

/-- A copy is complete: with cred its bytes are credited (R187, R194), and it leaves its queue. -/
def State.creditCopy (s : State) (c : CopyCmd) : State :=
  if !copyCred c.fn c.imm then s.dropCopies (fun x => x.id == c.id)
  else match s.crew? c.crew with
  | none => s
  | some k =>
    match s.copyTarget c k with
    | .error tr => s.copyFault c tr
    | .ok target =>
      let bar := copyBar c.fn c.block
      match (s.crew? target).bind (fun k => k.phaseAt bar) with
      | none => s.copyFault c { cause := 0x10, va := some (BitVec.ofNat 64 bar) }
      | some w => (s.modCrew target (fun k => k.putPhase bar (w.credit c.bytes))).dropCopies (fun x => x.id == c.id)

/-- `COPY_COMPLETE` (R185): the started head is complete. -/
def State.copyComplete (s : State) (eng q : Nat) : State :=
  match (s.copyQueue eng q).head? with
  | none => s
  | some c => if c.fn = 5 ∨ c.started = false then s else s.creditCopy c

def execCopyComplete (engine queue : Nat) (s : State) : Answered := .next (s.copyComplete engine queue)

/-- `cpy.*` (R186, R187): checks, the waits of R180, acceptance with its promise. One of length 0 is complete at once. -/
def cpyPlan (fn : Nat) (q : BitVec 4) (r : BitVec 7) (w : BitVec 3) (imm : BitVec 7) (ill : Option IllFormed := none) : Plan where
  whole := true
  ill := firstIll [illWait w, ill]
  absent := netAbsent [q.toNat]
  regs := fun _ _ => if r.toNat % 4 ≠ 0 then some .illegalOperand else none
  srcs := fun _ _ => [uGroupSrc r.toNat 4]
  w := w
  act := fun e s =>
    let vs := (groupRegs r.toNat 4).map e.u
    if 8 ≤ q.toNat then .trap .queueMisuse
    else match s.crewOf e.uid with
    | none => .ok { s := s }
    | some (t, k) =>
      if vs.any Val.isPoison then .trap .poisonUniform
      else
        let b := vs.map Val.bits
        match copyBad k fn b imm with
        | some a => .trap { cause := 0x09, va := some (BitVec.ofNat 64 a) }
        | none =>
          if s.acquiring e.uid then .wait 21 s
          else if s.resultsFull e.uid q.toNat 1 then .wait 5 s
          else if s.freeSlots k q.toNat = 0 then .wait 19 s
          else
            let n := copyBytes fn b imm
            let queued := (s.copyQueue k.quad q.toNat).foldl (fun a c => a + c.bytes) 0
            let now := s.dccOf k
            let p := promiseOf now queued n
            let gate := s.earlierAccesses e.uid
            let (id, s) := s.fresh
            let s := s.addOp { id := id, team := e.uid, kind := .copy, w := 7, hdrVA := e.hdrVA, parts := 1 }
            let c : CopyCmd :=
              { id := id, op := id, team := e.uid, crew := t.crew, hdrVA := e.hdrVA, engine := k.quad, queue := q.toNat, fn := fn, block := b, imm := imm
                bytes := n, accepted := now, promise := p, revised := p, earlier := gate }
            let s := ({ s with copies := s.copies ++ [c] }.pushResult e.uid q.toNat p).modTeam e.uid (fun t => t.decW e.w)
            .ok { s := if n = 0 then s.creditCopy c else s }

/-! ## Time (R190) -/

/-- `cyc`. -/
def cycPlan (d : BitVec 7) : Plan where
  whole := true
  regs := fun _ _ => evenU d
  dsts := fun _ _ => [.uni d.toNat, .uni (d.toNat + 1)]
  how := .park
  act := fun e s => match s.crewOf e.uid with
    | none => .ok { s := s }
    | some (_, k) => .ok { s := s, writes := pairWrites d (s.dccOf k) }

/-- The team's unfinished copies whose promise is at most a value (R190). -/
def State.promisedBy (s : State) (uid : Nat) (v : BitVec 64) : List CopyCmd :=
  s.copies.filter (fun c => c.team == uid && c.fn != 5 && !(v.ult c.promise))

/-- `sleepc`: it sleeps; a value passed with nothing to check goes on at once. -/
def sleepcPlan (a : BitVec 7) : Plan where
  whole := true
  regs := fun _ _ => evenU a
  srcs := fun _ _ => [uGroupSrc a.toNat 2]
  how := .park
  reason := 2
  act := fun e s => match e.u a.toNat, e.u (a.toNat + 1), s.crewOf e.uid with
    | .word lo, .word hi, some (_, k) =>
      let v : BitVec 64 := hi ++ lo
      if (s.dccOf k).ult v then .ok { s := s.modTeam e.uid (fun t => { t with hold := .sleep v, stall := 8 }), moved := true }
      else if (s.promisedBy e.uid v).isEmpty then .ok { s := s }
      else .ok { s := s.modTeam e.uid (fun t => { t with hold := .sleep v, stall := 24 }), moved := true }
    | .word _, .word _, none => .ok { s := s }
    | _, _, _ => .trap .poisonUniform

/-- End a hold: the team moves past the word that holds it. -/
def Team.release (t : Team) : Team := { t with hold := .none, stall := 0 }.advance 1

/-- `SLEEP_WAKE`: the DCC has come; unfinished promised copies keep the team waiting (R190). -/
def State.sleepWake (s : State) (uid : Nat) : State :=
  match s.crewOf uid with
  | none => s
  | some (t, k) =>
    match t.hold with
    | .sleep v =>
      if (s.dccOf k).ult v then s
      else if (s.promisedBy uid v).isEmpty then s.setTeam uid t.release
      else s.stallTeam uid 24
    | _ => s

def execSleepWake (team : Nat) (s : State) : Answered := .next (s.sleepWake team)

/-- The latest of some DCC values. -/
def latest (xs : List (BitVec 64)) : BitVec 64 := xs.foldl (fun m x => if m.ult x then x else m) 0

/-- `PROMISE_MISSED`: 256 DCC after the value a promised copy is still unfinished (R190). The fault VA is the latest revised
promise; one already past is revised again (R189). -/
def State.promiseMissed (s : State) (uid : Nat) : State :=
  match s.crewOf uid with
  | none => s
  | some (t, k) =>
    match t.hold with
    | .sleep v =>
      let cs := s.promisedBy uid v
      if (s.dccOf k).toNat < v.toNat + 256 || cs.isEmpty then s
      else
        let hdr := match t.clause with | some c => c.hdrVA | none => t.pc
        let fresh := fun (c : CopyCmd) => if (s.dccOf k).ult c.revised then c.revised
          else if c.revised.ult (Config.freeBits s.free) then Config.freeBits s.free else c.revised
        let s1 := { s with free := s.free + 1, copies := s.copies.map (fun (c : CopyCmd) => if cs.any (fun x => x.id == c.id) then { c with revised := fresh c } else c) }
        s1.takeTrap uid hdr { cause := 0x15, va := some (latest (cs.map fresh)) }
    | _ => s

def execPromiseMissed (team : Nat) (s : State) : Answered := .next (s.promiseMissed team)

/-! ## Phase-bit barriers (R193 to R195) -/

/-- The conditions of `fence.rel` above `.tm` (R267): the team's earlier accesses have landed, been acknowledged or performed. -/
def State.releaseReady (s : State) (uid : Nat) : Bool :=
  (s.earlier uid).all (fun id => match s.op? id with | some o => o.released none | none => true)

/-- A phase-barrier member at a uniform address, with the checks of R193 in the order listed: `bad` says that its count is out
of range, `psn` that another source is poisoned; then `go`. Accesses of the team to one location keep program order (R259), so window requests
to its own core come first. -/
def phaseAct (e : Env) (s : State) (a : BitVec 7) (bad psn : Bool) (go : Team → Crew → Nat → PhaseWord → Done) : Done :=
  match s.crewOf e.uid with
  | none => .ok { s := s }
  | some (t, k) =>
    let ad := (e.u a.toNat).bits.toNat
    if bad then .trap .illegalOperand
    else if !(e.u a.toNat).isPoison && k.spadBad ad 8 then .trap { cause := 0x09, va := some (BitVec.ofNat 64 ad) }
    else if (e.u a.toNat).isPoison || psn then .trap .poisonUniform
    else if s.acquiring e.uid || s.windowBusy e.uid then .wait 21 s
    else match k.phaseAt ad with
    | none => .trap .poisonUniform
    | some w => go t k ad w

/-- What the five members share (R193). -/
def phasePlan (srcs : List Nat) (act : Env → State → Done) : Plan where
  whole := true
  srcs := fun _ _ => srcs.map uSrc
  how := .drain
  reason := 2
  act := act

/-- `pb.init`, `pb.exp` and `pb.arv` put a new word. -/
def phasePut (s : State) (cid a : Nat) (w : PhaseWord) : Done :=
  .ok { s := s.modCrew cid (fun k => k.putPhase a w) }

def pbInitPlan (x a : BitVec 7) : Plan :=
  phasePlan [a.toNat, x.toNat] (fun e s =>
    let n := e.u x.toNat
    phaseAct e s a (!n.isPoison && (n.bits == 0 || decide (2047 < n.bits.toNat))) n.isPoison
      (fun t _ ad _ => phasePut s t.crew ad (.init n.bits.toNat)))

def pbExpPlan (n a : BitVec 7) : Plan :=
  phasePlan [a.toNat, n.toNat] (fun e s =>
    phaseAct e s a false (e.u n.toNat).isPoison (fun t _ ad w => phasePut s t.crew ad (w.expect (e.u n.toNat).bits.toNat)))

/-- The team's earlier accesses are performed; its copies, which are commands and not accesses, may go on. -/
def State.accessesReady (s : State) (uid : Nat) : Bool :=
  (s.earlier uid).all (fun id => match s.op? id with | some o => o.kind == OpKind.copy || o.released none | none => true)

/-- `pb.arv`: a release at `.co` of the team's earlier accesses (R195); the team's copies may complete later, as in the worked example of
spec/10. -/
def pbArvPlan (a : BitVec 7) : Plan :=
  phasePlan [a.toNat] (fun e s => phaseAct e s a false false (fun t _ ad w =>
    if !s.accessesReady e.uid then .wait 11 s else phasePut s t.crew ad w.arrive))

/-- `pb.wait`. -/
def pbWaitPlan (a : BitVec 7) (p : BitVec 1) : Plan :=
  phasePlan [a.toNat] (fun e s => phaseAct e s a false false (fun _ _ ad w =>
    if w.ovr then .trap .queueMisuse
    else if w.ph != (p == 1) then .ok { s := s }
    else .ok { s := s.modTeam e.uid (fun t => { t with hold := .phase ad (p == 1), stall := 7 }), moved := true }))

/-- `PHASE_BARRIER_WAKE`: the word a waiting team watches, as it stands (R194). Every step ends with it for every waiting team, so that a
team sees each change of its word. -/
def State.phaseWake (s : State) (uid : Nat) : State :=
  match s.crewOf uid with
  | none => s
  | some (t, k) =>
    match t.hold with
    | .phase ad par =>
      let hdr := match t.clause with | some c => c.hdrVA | none => t.pc
      match k.phaseAt ad with
      | none => s.takeTrap uid hdr .poisonUniform
      | some w =>
        if w.ovr then s.takeTrap uid hdr .queueMisuse
        else if w.ph != par then s.setTeam uid t.release
        else s
    | _ => s

/-- Every team that waits at a phase barrier looks at its word. -/
def State.wakePhases (s : State) : State :=
  s.teams.foldl (fun s e => match e.2 with
    | some t => match t.hold with
      | .phase _ _ => s.phaseWake e.1
      | _ => s
    | none => s) s

def execPhaseBarrierWake (team : Nat) (s : State) : Answered := .next (s.phaseWake team)

/-- `pb.test`. -/
def pbTestPlan (a : BitVec 7) (pd : BitVec 3) (p : BitVec 1) : Plan :=
  { phasePlan [a.toNat] (fun e s => phaseAct e s a false false (fun _ _ _ w =>
      .ok { s := s, writes := e.setPred pd.toNat (w.ph != (p == 1)) })) with
    regs := fun _ _ => if pd = 0 then some .illegalOperand else none
    srcs := fun _ m => uSrc a.toNat :: predOld pd.toNat m
    dsts := fun _ m => predDst pd.toNat m }

/-! ## The instructions -/

/-- `QPUSH` (R182). Places a command word into a bound queue, or selects a network connection. -/
def planQpush (q : BitVec 4) (r : BitVec 7) (u : BitVec 1) (w : BitVec 3) : Plan :=
  qpushPlan q r u w

def execQpush (q : BitVec 4) (r : BitVec 7) (u : BitVec 1) (w : BitVec 3) (s : State) : Answered := issue (.qpush q r u w) (planQpush q r u w) s

/-- `QPOP` (R183). Pops the oldest result of the team's FIFO into a uniform pair. -/
def planQpop (q : BitVec 4) (d : BitVec 7) (w : BitVec 3) : Plan :=
  qpopPlan q d w

def execQpop (q : BitVec 4) (d : BitVec 7) (w : BitVec 3) (s : State) : Answered := issue (.qpop q d w) (planQpop q d w) s

/-- `QTRY` (R183). Pops a result if present and sets a predicate to show it. -/
def planQtry (q : BitVec 4) (d : BitVec 7) (p : BitVec 3) : Plan :=
  qtryPlan q d p

def execQtry (q : BitVec 4) (d : BitVec 7) (p : BitVec 3) (s : State) : Answered := issue (.qtry q d p) (planQtry q d p) s

/-- `QFENCE` (R184). Places a fence entry across one or more copy queues. -/
def planQfence (q : BitVec 4) (m : BitVec 7) : Plan :=
  qfencePlan q m

def execQfence (q : BitVec 4) (m : BitVec 7) (s : State) : Answered := issue (.qfence q m) (planQfence q m) s

/-- `QSTAT` (R183). Writes unread results and free engine slots. -/
def planQstat (q : BitVec 4) (d : BitVec 7) : Plan :=
  qstatPlan q d

def execQstat (q : BitVec 4) (d : BitVec 7) (s : State) : Answered := issue (.qstat q d) (planQstat q d) s

/-- `CPY_G2S` (R187). Queues a copy from global memory to scratchpad. -/
def planCpyG2s (q : BitVec 4) (r : BitVec 7) (w : BitVec 3) (c : BitVec 1) : Plan :=
  cpyPlan 0 q r w (c.setWidth 7)

def execCpyG2s (q : BitVec 4) (r : BitVec 7) (w : BitVec 3) (c : BitVec 1) (s : State) : Answered := issue (.cpyG2s q r w c) (planCpyG2s q r w c) s

/-- `CPY_S2G` (R187). Queues a copy from scratchpad to global memory. -/
def planCpyS2g (q : BitVec 4) (r : BitVec 7) (w : BitVec 3) (c : BitVec 1) : Plan :=
  cpyPlan 1 q r w (c.setWidth 7)

def execCpyS2g (q : BitVec 4) (r : BitVec 7) (w : BitVec 3) (c : BitVec 1) (s : State) : Answered := issue (.cpyS2g q r w c) (planCpyS2g q r w c) s

/-- `CPY_G2G` (R187). Queues a copy between global ranges. -/
def planCpyG2g (q : BitVec 4) (r : BitVec 7) (w : BitVec 3) (k : BitVec 7) : Plan :=
  cpyPlan 2 q r w k

def execCpyG2g (q : BitVec 4) (r : BitVec 7) (w : BitVec 3) (k : BitVec 7) (s : State) : Answered := issue (.cpyG2g q r w k) (planCpyG2g q r w k) s

/-- `CPY_PLN` (R187). Queues a transposing copy into bit-plane rows. -/
def planCpyPln (q : BitVec 4) (r : BitVec 7) (w : BitVec 3) (p : BitVec 3) (m : BitVec 3) (c : BitVec 1) : Plan :=
  cpyPlan 3 q r w (p ++ m ++ c) (illPlanes p m)

def execCpyPln (q : BitVec 4) (r : BitVec 7) (w : BitVec 3) (p : BitVec 3) (m : BitVec 3) (c : BitVec 1) (s : State) : Answered := issue (.cpyPln q r w p m c) (planCpyPln q r w p m c) s

/-- `CPY_S2SQ` (R187). Queues a copy from local scratchpad through the quad window. -/
def planCpyS2sq (q : BitVec 4) (r : BitVec 7) (w : BitVec 3) (c : BitVec 1) : Plan :=
  cpyPlan 4 q r w (c.setWidth 7)

def execCpyS2sq (q : BitVec 4) (r : BitVec 7) (w : BitVec 3) (c : BitVec 1) (s : State) : Answered := issue (.cpyS2sq q r w c) (planCpyS2sq q r w c) s

/-- `CYC` (R190). Writes the local DCC into a uniform pair. -/
def planCyc (d : BitVec 7) : Plan :=
  cycPlan d

def execCyc (d : BitVec 7) (s : State) : Answered := issuePlain (planCyc d) s

/-- `SLEEPC` (R190). Sleeps until the local DCC reaches a value. -/
def planSleepc (a : BitVec 7) : Plan :=
  sleepcPlan a

def execSleepc (a : BitVec 7) (s : State) : Answered := issuePlain (planSleepc a) s

/-- `PB_INIT` (R194). Initialises a phase-bit barrier word. -/
def planPbInit (e : BitVec 7) (a : BitVec 7) : Plan :=
  pbInitPlan e a

def execPbInit (e : BitVec 7) (a : BitVec 7) (s : State) : Answered := issuePlain (planPbInit e a) s

/-- `PB_ARV` (R194). Arrives at a phase-bit barrier, possibly flipping its phase. -/
def planPbArv (a : BitVec 7) : Plan :=
  pbArvPlan a

def execPbArv (a : BitVec 7) (s : State) : Answered := issuePlain (planPbArv a) s

/-- `PB_EXP` (R194). Adds expected bytes to a phase-bit barrier. -/
def planPbExp (n : BitVec 7) (a : BitVec 7) : Plan :=
  pbExpPlan n a

def execPbExp (n : BitVec 7) (a : BitVec 7) (s : State) : Answered := issuePlain (planPbExp n a) s

/-- `PB_WAIT` (R194). Waits until the barrier phase differs from a parity. -/
def planPbWait (a : BitVec 7) (p : BitVec 1) : Plan :=
  pbWaitPlan a p

def execPbWait (a : BitVec 7) (p : BitVec 1) (s : State) : Answered := issuePlain (planPbWait a p) s

/-- `PB_TEST` (R194). Writes into a predicate whether the phase differs from a parity. -/
def planPbTest (a : BitVec 7) (k : BitVec 3) (p : BitVec 1) : Plan :=
  pbTestPlan a k p

def execPbTest (a : BitVec 7) (k : BitVec 3) (p : BitVec 1) (s : State) : Answered := issuePlain (planPbTest a k p) s

end Sys2Proof.Machine
end

