-- ==== Sys2Proof/Machine/Crews.lean ====
section
/-! DEFINITION. Killing a crew, and the trap handles that its end decides (spec/14 R292, R294); a world entering ERROR
(spec/15 R305). -/

namespace Sys2Proof.Machine

/-- A handle ends, and its slot of the world's trap area frees (R291). -/
def State.closeHandle (s : State) (hid : Nat) : State :=
  match tget none s.handles hid with
  | none => s
  | some h =>
    { (s.modWorld h.world (fun w => { w with trapTaken := w.trapTaken.filter (· != h.slot) })) with
      handles := tset none s.handles hid none }

/-- The open handles, by number. -/
def State.handleList (s : State) : List (Nat × Handle) := s.handles.filterMap (fun h => h.2.map (fun x => (h.1, x)))

/-- Handles open on some teams are void (R294). -/
def State.voidHandles (s : State) (uids : List Nat) : State :=
  (s.handleList.filter (fun h => uids.contains h.2.team)).foldl (fun s h => s.closeHandle h.1) s

/-- A crew that has not begun to retire. -/
def Crew.live (k : Crew) : Bool :=
  match k.status with
  | .retiring => false
  | .gone => false
  | _ => true

/-- Every team of a crew ends, the handles open on them are void, and the crew retires without a code (R294 `tkill`); a status
other than 0 fails its card. -/
def State.killOne (s : State) (cid : Nat) (status cause : BitVec 6) : State :=
  match s.crew? cid with
  | none => s
  | some k =>
    if !k.live then s
    else
      let s := if status = 0 then s else s.failCard k.tid status cause
      (s.voidHandles k.teams).retireCrew cid

/-- The handles that a handler crew holds open are each decided as by `tkill` (R292). -/
def State.decideOpen (s : State) (tid : BitVec 32) : State :=
  (s.handleList.filter (fun h => h.2.handlerTid == tid)).foldl (fun s h =>
    match s.team? h.2.team with
    | some t => (s.killOne t.crew 0x03 h.2.cause).closeHandle h.1
    | none => s.closeHandle h.1) s

/-- Kill a crew; a handler crew's death decides its open handles. -/
def State.killCrew (s : State) (cid : Nat) (status cause : BitVec 6) : State :=
  match s.crew? cid with
  | none => s
  | some k =>
    let s := s.killOne cid status cause
    match k.kind with
    | .handler _ _ => s.decideOpen k.tid
    | _ => s

/-- The crews that satisfy a condition, by number. -/
def State.crewsWhere (s : State) (p : Crew → Bool) : List Nat :=
  s.crews.filterMap (fun c => match c.2 with | some k => if p k then some c.1 else none | none => none)

/-- A confidential world enters ERROR: its resident and saved crews are killed as by `tkill` (R305). The CAUSE of their cards,
which no record names, is a free value (notes/assumptions/11.md). -/
def State.worldError (s : State) (w : Nat) : State :=
  if w = 0 ∨ (s.world w).state = .none then s
  else
    let c := (Config.freeWord s.free).setWidth 6
    let s := { s with free := s.free + 1 }.modWorld w (fun x => { x with state := .error })
    (s.crewsWhere (fun k => k.world == w && k.live)).foldl (fun s cid => s.killCrew cid 0x03 c) s

end Sys2Proof.Machine
end

