-- ==== Sys2Proof/Machine/Alloc.lean ====
section
/-! DEFINITION. Allotment (spec/04 R75 to R77): `acqx`, `relx`, `allq`, and the grant of a parked request. -/

namespace Sys2Proof.Machine

/-- What n granules of a class cost a team: KiB units of vector storage, else granules (R72, R76). -/
def Team.grainCost (t : Team) (c : BitVec 2) (n : Nat) : Nat := if c = 0 then n * t.width else n

/-- The amount of a class in a pool. -/
def Pools.amount (p : Pools) (c : BitVec 2) : Nat := if c = 0 then p.vec else if c = 1 then p.acc else p.res

/-- Take from a pool. -/
def Pools.take (p : Pools) (c : BitVec 2) (n : Nat) : Pools :=
  if c = 0 then { p with vec := p.vec - n } else if c = 1 then { p with acc := p.acc - n } else { p with res := p.res - n }

/-- Give back to a pool. -/
def Pools.give (p : Pools) (c : BitVec 2) (n : Nat) : Pools :=
  if c = 0 then { p with vec := p.vec + n } else if c = 1 then { p with acc := p.acc + n } else { p with res := p.res + n }

/-- The registers or entries that n granules hold. -/
def grains (c : BitVec 2) (n : Nat) : Nat := if c = 0 then 8 * n else 4 * n

/-- A team's allotment of a class (R77 `allq`). -/
def Team.allotted (t : Team) (c : BitVec 2) : Nat := if c = 0 then t.vN else if c = 1 then t.aN else t.rN

/-- Its base set. -/
def Team.baseSet (t : Team) (c : BitVec 2) : Nat := if c = 0 then t.vBase else if c = 1 then t.aBase else t.rBase

/-- The allotment grown: the new registers follow the present ones, and read 0 (R76 step 3). -/
def Team.grow (t : Team) (c : BitVec 2) (n : Nat) : Team :=
  if c = 0 then { t with vN := t.vN + 8 * n } else if c = 1 then { t with aN := t.aN + 4 * n } else { t with rN := t.rN + 4 * n }

/-- A register given back reads 0 when its number is allotted again; the generation stays. -/
def Team.blank (t : Team) (r : UnitRef) : Team :=
  match r with
  | .acc _ => t.put r (.a [] false) false (t.gen r)
  | _ => t.put r (.w (.word 0)) false (t.gen r)

/-- The register units of the top n granules of a class. -/
def Team.topUnits (t : Team) (c : BitVec 2) (n : Nat) : List UnitRef :=
  if c = 0 then (List.range (8 * n)).flatMap (fun i => t.lanes.map (fun l => UnitRef.vec (t.vN - 1 - i) l))
  else if c = 1 then (List.range (4 * n)).map (fun i => UnitRef.acc (t.aN - 1 - i))
  else []

/-- The allotment shrunk, the contents lost (R77). -/
def Team.shrink (t : Team) (c : BitVec 2) (n : Nat) : Team :=
  let t1 := (t.topUnits c n).foldl (fun t r => t.blank r) t
  if c = 0 then { t1 with vN := t.vN - 8 * n } else if c = 1 then { t1 with aN := t.aN - 4 * n } else { t1 with rN := t.rN - 4 * n }

/-! ## Parked requests -/

/-- The parked requests of a crew's teams for a class: (ticket, team, granules). -/
def State.parked (s : State) (k : Crew) (c : BitVec 2) : List (Nat × Nat × Nat) :=
  k.teams.filterMap (fun u => match s.team? u with
    | none => none
    | some t => match t.hold with
      | .acqx c' n ticket => if c' = c ∧ t.status = .running then some (ticket, u, n) else none
      | _ => none)

/-- The earliest of some parked requests. -/
def firstParked (xs : List (Nat × Nat × Nat)) : Option (Nat × Nat × Nat) :=
  xs.foldl (fun best x => match best with | some b => if x.1 < b.1 then some x else some b | none => some x) none

/-- The first request of a class, when the pool can meet it. -/
def State.grantable (s : State) (k : Crew) (c : BitVec 2) : Option (Nat × Nat) :=
  match firstParked (s.parked k c) with
  | none => none
  | some (_, u, n) => match s.team? u with
    | some t => if t.grainCost c n ≤ k.pool.amount c then some (u, n) else none
    | none => none

/-- Take the cost from the crew's pool and grow the team. -/
def State.grantTo (s : State) (uid : Nat) (c : BitVec 2) (n : Nat) : State :=
  match s.team? uid with
  | none => s
  | some t => (s.modCrew t.crew (fun k => { k with pool := k.pool.take c (t.grainCost c n) })).modTeam uid (fun t => t.grow c n)

/-- `ALLOTMENT_GRANT` of one class: the first request goes on past its `acqx`. -/
def State.grantClass (s : State) (cid : Nat) (c : BitVec 2) : State :=
  match s.crew? cid with
  | none => s
  | some k => match s.grantable k c with
    | none => s
    | some (u, n) =>
      let onB := match s.team? u with | some t => t.onB | none => false
      ((s.grantTo u c n).modTeam u (fun t => { (t.countPasses 1).advance 1 with hold := .none })).issued u k.coreKey onB 1

/-- R76: when every team of the crew that has not ended is parked, and no request can be met, the one that parked last traps. -/
def State.acqxLocked (s : State) (cid : Nat) : State :=
  match s.crew? cid with
  | none => s
  | some k =>
    let live := k.teams.filter (fun u => match s.team? u with | some t => t.status != TeamSt.ended | none => false)
    let parked := s.parked k 0 ++ s.parked k 1 ++ s.parked k 2
    if live.isEmpty ∨ live.length ≠ parked.length ∨ (s.grantable k 0).isSome ∨ (s.grantable k 1).isSome ∨ (s.grantable k 2).isSome then s
    else
      match parked.foldl (fun (best : Option (Nat × Nat × Nat)) x => match best with
          | some b => if b.1 < x.1 then some x else some b
          | none => some x) none with
      | none => s
      | some (_, u, _) => match s.team? u with
        | some t => match t.clause with
          | some cl => s.takeTrap u cl.hdrVA { cause := 0x1C }
          | none => s
        | none => s

/-- `ALLOTMENT_GRANT` (R76): parked requests of each class are served in the order of parking while the pool can meet the first. -/
def State.allotmentGrant (s : State) (cid : Nat) : State :=
  match s.crew? cid with
  | none => s
  | some k =>
    let s := (k.teams.foldl (fun s _ => ((s.grantClass cid 0).grantClass cid 1).grantClass cid 2) s)
    s.acqxLocked cid

def execAllotmentGrant (crew : Nat) (s : State) : Answered := .next (s.allotmentGrant crew)

/-! ## The entries -/

/-- `acqx`. -/
def acqxPlan (c : BitVec 2) (n : BitVec 6) : Plan where
  whole := true
  ill := firstIll [illPool c, illZero n]
  how := .park
  act := fun e s => match s.crewOf e.uid with
    | none => .ok { s := s }
    | some (t, k) =>
      let cost := t.grainCost c n.toNat
      if (c = 0 ∧ 128 < t.vN + 8 * n.toNat) ∨ (c = 1 ∧ 64 < t.aN + 4 * n.toNat) ∨ k.poolAll.amount c < cost then
        .trap { cause := 0x1C }
      else if k.pool.amount c < cost ∨ !(s.parked k c).isEmpty then
        let s1 := (s.modTeam e.uid (fun t => { t with hold := .acqx c n.toNat k.ticketNext })).modCrew t.crew
          (fun k => { k with ticketNext := k.ticketNext + 1 })
        .wait 22 (s1.acqxLocked t.crew)
      else .ok { s := s.grantTo e.uid c n.toNat }

/-- `relx`. -/
def relxPlan (c : BitVec 2) (n : BitVec 6) : Plan where
  whole := true
  ill := firstIll [illPool c, illZero n]
  regs := fun t _ => if t.allotted c < t.baseSet c + grains c n.toNat then some .illegalOperand else none
  how := .drain
  act := fun e s => match s.crewOf e.uid with
    | none => .ok { s := s }
    | some (t, _) =>
      if (t.topUnits c n.toNat).any t.pend ∨ (c = 2 ∧ t.rN - grains c n.toNat < t.fifo.length) then .wait 22 s
      else .ok { s := (s.modTeam e.uid (fun t => t.shrink c n.toNat)).modCrew t.crew
                   (fun k => { k with pool := k.pool.give c (t.grainCost c n.toNat) }) }

/-- `allq`. -/
def allqPlan (d : BitVec 7) (c : BitVec 2) : Plan where
  whole := true
  ill := illPool c
  dsts := fun _ _ => [.uni d.toNat]
  how := .park
  act := fun e s => match s.crewOf e.uid with
    | none => .ok { s := s }
    | some (t, k) => .ok { s := s, writes := [(.uni d.toNat, .w (.word (BitVec.ofNat 32 (t.allotted c % 65536 + 65536 * k.pool.amount c))))] }

/-! ## The instructions -/

/-- `ACQX` (R76). Requests granules from the crew pool, parking if short. -/
def planAcqx (c : BitVec 2) (n : BitVec 6) : Plan :=
  acqxPlan c n

def execAcqx (c : BitVec 2) (n : BitVec 6) (s : State) : Answered := issuePlain (planAcqx c n) s

/-- `RELX` (R77). Returns the highest granules of a class to the crew pool. -/
def planRelx (c : BitVec 2) (n : BitVec 6) : Plan :=
  relxPlan c n

def execRelx (c : BitVec 2) (n : BitVec 6) (s : State) : Answered := issuePlain (planRelx c n) s

/-- `ALLQ` (R77). Writes the team's allotment and the pool's free amount. -/
def planAllq (d : BitVec 7) (c : BitVec 2) : Plan :=
  allqPlan d c

def execAllq (d : BitVec 7) (c : BitVec 2) (s : State) : Answered := issuePlain (planAllq d c) s

end Sys2Proof.Machine
end

