-- ==== Sys2Proof/Machine/Poison.lean ====
section
/-! DEFINITION. Poison tests (spec/04 R83 to R85) and the scrubber's visits, with what a read finds in error (R79, R80, R337). -/

namespace Sys2Proof.Machine

/-! ## Scrubber and read errors (R79, R80, R337) -/

/-- One up, saturating at 2^w − 1. -/
def satUp (x : BitVec w) : BitVec w := if x = BitVec.allOnes w then x else x + 1

/-- The core's counters (R332): ECSB or ECDB, and the half of ECSCR for what the scrubber found. -/
def CoreSt.countError (c : CoreSt) (dbl onRead : Bool) : CoreSt :=
  let lo := c.ecscr.extractLsb' 0 16
  let hi := c.ecscr.extractLsb' 16 16
  if dbl then { c with ecdb := satUp c.ecdb, ecscr := if onRead then c.ecscr else satUp hi ++ lo }
  else { c with ecsb := satUp c.ecsb, ecscr := if onRead then c.ecscr else hi ++ satUp lo }

/-- The kind of the record (R337). -/
def errorKind (dbl onRead : Bool) : BitVec 8 :=
  if onRead then (if dbl then 0x02 else 0x01) else (if dbl then 0x04 else 0x03)

/-- An error in a core's storage: counted and logged. A word index that the spec does not lay out is a free value. -/
def State.coreError (s : State) (k : Crew) (dbl onRead : Bool) (cls : Nat) (index : Option Nat) : State :=
  let n := match index with | some i => i | none => (Config.freeWord s.free).toNat
  let s := { s with free := s.free + 1 }.modCore k.coreKey (fun c => c.countError dbl onRead)
  s.logDie k.die (errorKind dbl onRead) k.core k.world cls n

/-- A word of a team's registers in error. Poison that arises so comes from no holder (R245). -/
def State.regError (s : State) (uid : Nat) (dbl onRead : Bool) (cls : Nat) (f : Team → Team) : State :=
  match s.crewOf uid with
  | none => s
  | some (t, k) =>
    if t.status = .ended ∨ t.status = .saved then s
    else (s.coreError k dbl onRead cls none).modTeam uid (fun t => if dbl then { f t with poisonHolder := 0xFF } else t)

/-- The value of a poisoned unit. -/
def UnitVal.spoiled : UnitVal → UnitVal
  | .w _ => .w .poison
  | .p b _ => .p b 0xFFFFFFFF
  | .a e o => .a ((List.range 512).foldl (fun t i => tset (.word 0) t i .poison) e) o
  | .t b _ => .t b true

/-- Keep a unit's pending bit and generation, with another value. -/
def Team.reput (t : Team) (r : UnitRef) (x : UnitVal) : Team := t.put r x (t.pend r) (t.gen r)

/-- `SCRUB_VISIT`: a word with one wrong bit is corrected, one with more becomes poison. A predicate has parity alone, so a wrong
bit poisons it (DEDUCED from the table of R79). No wrong bit leaves all as it is. -/
def State.scrubVisit (s : State) (place : ScrubAt) (wrong : BitVec 2) (onRead : Bool) : State :=
  if wrong = 0 then s
  else
    let dbl := decide (2 ≤ wrong.toNat)
    match place with
    | .vec u r l => match s.team? u with
      | some t => if r = 0 ∨ t.vN ≤ r ∨ 32 * t.width ≤ l then s
          else s.regError u dbl onRead 0 (fun t => t.reput (.vec r l) (.w .poison))
      | none => s
    | .uni u r => if r = 0 ∨ 127 < r then s else s.regError u dbl onRead 1 (fun t => t.reput (.uni r) (.w .poison))
    | .pred u r w => match s.team? u with
      | some t => if r = 0 ∨ 7 < r ∨ t.width ≤ w then s
          else s.regError u true onRead 2 (fun t => t.reput (.pred r w) (t.unit (.pred r w)).spoiled)
      | none => s
    | .tile u r => if 15 < r then s else s.regError u dbl onRead 3 (fun t => t.reput (.tile r) (t.unit (.tile r)).spoiled)
    | .acc u r e => match s.team? u with
      | some t => if t.aN ≤ r ∨ 511 < e then s
          else s.regError u dbl onRead 4 (fun t =>
            let old := (t.unit (.acc r)).accu
            t.reput (.acc r) (.a (tset (.word 0) old.1 e .poison) old.2))
      | none => s
    | .resid u n i => match s.team? u with
      | some t => match (t.fifo[n]?).bind (fun e => e.slots[i]?) with
        | some _ => s.regError u dbl onRead 5 (fun t =>
            { t with fifo := t.fifo.mapIdx (fun j e => if j = n then
                { e with slots := e.slots.mapIdx (fun m x => if m = i then { x with got := x.got.map UnitVal.spoiled } else x) } else e) })
        | none => s
      | none => s
    | .spad c w => match s.crew? c with
      | some k => if k.spadSize ≤ 4 * w ∨ k.status = .gone ∨ k.status = .saved then s
          else (s.coreError k dbl onRead 6 (some w)).modCrew c (fun k =>
            if dbl then { k with spadPoison := tset false k.spadPoison w true } else k)
      | none => s
    | .pool d w =>
      if 7 < d ∨ 2 ^ 22 ≤ w then s
      else
        let s := s.logDie d (errorKind dbl onRead) 0 (s.ownerOf d (4 * w)) 7 w
        let s := s.modDie d (fun x => if dbl then { x with poolDb := x.poolDb + 1 } else { x with poolSb := x.poolSb + 1 })
        if dbl then { s with mem := { s.mem with poison := tset false s.mem.poison (granuleBase d (4 * w)) true } } else s
    | .pierSram p w =>
      if 7 < p ∨ 2 ^ 23 ≤ w then s
      else (s.logPier p false (errorKind dbl onRead) 0 0 8 w).modPier p (fun x =>
        if dbl then { x with db := x.db + 1, sramPoison := tset false x.sramPoison w true } else { x with sb := x.sb + 1 })

def execScrubVisit (place : ScrubAt) (wrongBits : BitVec 2) (onRead : Bool) (s : State) : Answered :=
  .next (s.scrubVisit place wrongBits onRead)

/-! ## Poison tests -/

/-- A register number beyond its class or the allotment (R83). -/
def checkClass (r : BitVec 7) (l : BitVec 3) (t : Team) : Option Trap :=
  let bad := if l = 0 then t.vN ≤ r.toNat else if l = 1 then False else if l = 2 then 7 < r.toNat
    else if l = 3 then t.aN ≤ r.toNat else 15 < r.toNat
  if decide bad then some .illegalOperand else none

/-- The units of a register that a test reads over a mask (R84, R85). -/
def classSrc (r : BitVec 7) (l : BitVec 3) (m : Mask) : Src :=
  if l = 0 then vSrc r.toNat m else if l = 1 then uSrc r.toNat else if l = 2 then pSrc r.toNat m
  else if l = 3 then { units := [.acc r.toNat], words := 0 } else { units := [.tile r.toNat], words := 0 }

/-- A lane's word or bit is poisoned. -/
def Env.laneBad (e : Env) (r : BitVec 7) (l : BitVec 3) (lane : Nat) : Bool :=
  if l = 0 then (e.v r.toNat lane).isPoison else (e.p r.toNat lane).2

/-- A whole register is poisoned. -/
def Env.wholeBad (e : Env) (r : BitVec 7) (l : BitVec 3) : Bool :=
  if l = 1 then (e.u r.toNat).isPoison
  else if l = 3 then (e.rd (.acc r.toNat)).accu.1.any (fun x => x.2.isPoison)
  else (e.rd (.tile r.toNat)).tile.2

/-- Bit q: part q of an accumulator holds a poisoned element. -/
def partsBad (es : Table Val) : Word :=
  maskWord (fun q => decide (q < 16) && (List.range 32).any (fun j => (tget (.word 0) es (partKey q j)).isPoison))

/-- `ptst`. -/
def ptstPlan (d r : BitVec 7) (k : BitVec 5) (l : BitVec 3) : Plan where
  whole := true
  ill := firstIll [illClass l 5, illPtstWord k l]
  regs := fun t _ => checkClass r l t
  srcs := fun _ m => [classSrc r l (m.only k.toNat)]
  dsts := fun _ _ => [.uni d.toNat]
  how := .park
  reason := 2
  act := fun e s =>
    let x : Word :=
      if l = 0 ∨ l = 2 then maskWord (fun j => Mask.has e.mask (32 * k.toNat + j) && e.laneBad r l (32 * k.toNat + j))
      else if l = 3 then partsBad (e.rd (.acc r.toNat)).accu.1
      else if e.wholeBad r l then 1 else 0
    .ok { s := s, writes := [(.uni d.toNat, .w (.word x))] }

/-- `pchk`; the record names the lowest mask word with a poisoned checked lane and those lanes of it, else a mask of 0 (R355). -/
def pchkPlan (r : BitVec 7) (l : BitVec 3) : Plan where
  whole := true
  ill := illClass l 5
  regs := fun t _ => checkClass r l t
  srcs := fun _ m => [classSrc r l m]
  how := .drain
  act := fun e s =>
    if l = 0 ∨ l = 2 then
      match (Mask.lanes e.mask).find? (e.laneBad r l) with
      | some j => .trap { cause := 0x10, lane := some j, mask := some (maskWord (fun i =>
          Mask.has e.mask (j / 32 * 32 + i) && e.laneBad r l (j / 32 * 32 + i))) }
      | none => .ok { s := s }
    else if e.wholeBad r l then .trap { cause := 0x10, mask := some 0 } else .ok { s := s }

/-- `pchks`. -/
def pchksPlan (a : BitVec 7) (n : BitVec 8) : Plan where
  whole := true
  ill := illSpan a n
  srcs := fun _ _ => (List.range n.toNat).map (fun i => uSrc (a.toNat + i))
  how := .drain
  act := fun e s =>
    if (List.range n.toNat).any (fun i => (e.u (a.toNat + i)).isPoison) then .trap { cause := 0x10, mask := some 0 } else .ok { s := s }

/-! ## The instructions -/

/-- `PTST` (R84). Reads the poison state of a register without consuming it. -/
def planPtst (d : BitVec 7) (r : BitVec 7) (k : BitVec 5) (l : BitVec 3) : Plan :=
  ptstPlan d r k l

def execPtst (d : BitVec 7) (r : BitVec 7) (k : BitVec 5) (l : BitVec 3) (s : State) : Answered := issuePlain (planPtst d r k l) s

/-- `PCHK` (R85). Traps if any checked word of a register is poisoned. -/
def planPchk (r : BitVec 7) (l : BitVec 3) : Plan :=
  pchkPlan r l

def execPchk (r : BitVec 7) (l : BitVec 3) (s : State) : Answered := issuePlain (planPchk r l) s

/-- `PCHKS` (R85). Traps if any of a range of uniform registers is poisoned. -/
def planPchks (a : BitVec 7) (n : BitVec 8) : Plan :=
  pchksPlan a n

def execPchks (a : BitVec 7) (n : BitVec 8) (s : State) : Answered := issuePlain (planPchks a n) s

end Sys2Proof.Machine
end

