-- ==== Sys2Proof/Machine/Route.lean ====
section
/-! DEFINITION. Routes (spec/11): announcements and withdrawals spreading over the nodes and their acknowledgement, the route engine's
commands, home transfers, and the re-announcement around a failed channel (spec/17 R340). -/

namespace Sys2Proof.Machine

/-! ## Nodes -/

/-- Piers in service: not silent, and in minimal mode P0 and P1 alone (R314). -/
def State.pierUp (s : State) (p : Nat) : Bool := !(s.pier p).silent && (!s.boot.minimal || decide (p < 2))

/-- Nodes in service: compute dies 0 to 7 and piers 8 to 15 (R203). -/
def State.nodeUp (s : State) (n : Nat) : Bool :=
  if n < 8 then s.dieUp n && !(s.die n).silent else decide (n < 16) && s.pierUp (n - 8)

def State.nodesUp (s : State) : List Nat := (List.range 16).filter s.nodeUp

/-- A holder in service (R215 code 0x06). -/
def State.holderUp (s : State) (h : Nat) : Bool := if h < 16 then s.nodeUp h else decide (h < 18) && s.capCxl

/-- A node's count: of a die or of a pier. -/
def State.nodeDcc (s : State) (n : Nat) : BitVec 64 := if n < 8 then (s.die n).dcc else (s.pier (n - 8)).dcc

/-- Table entries of a die and of a pier (R205). -/
def tableCap (n : Nat) : Nat := if n < 8 then 4096 else 16384

/-- The span of a die to a pier it attaches to. -/
def spanLink (d p : Nat) : Nat := 2 * d + (if attach d 0 = p then 0 else 1)

/-- The neighbours of a node over links that have not failed (R203). -/
def State.neighbours (s : State) (n : Nat) : List Nat :=
  let ok := fun l => !(s.link l).failed
  let all := if n < 8 then [(attach n 0, spanLink n (attach n 0)), (attach n 1, spanLink n (attach n 1))].map (fun x => (8 + x.1, x.2))
    else
      let k := n - 8
      [((k + 1) % 8 + 8, pierLink k ((k + 1) % 8)), ((k + 7) % 8 + 8, pierLink k ((k + 7) % 8)), ((k + 4) % 8 + 8, pierLink k ((k + 4) % 8)),
       (k, spanLink k k), ((k + 7) % 8, spanLink ((k + 7) % 8) k)]
  (all.filter (fun x => ok x.2 && s.nodeUp x.1)).map Prod.fst

/-! ## Tables (R203, R207) -/

/-- Install an announcement: the key's old entry and the superseded ones go; the route generation counts them (R221). -/
def Node.install (x : Node) (a : Ann) : Node :=
  let gone := (x.table.filter (supersedes a)).length
  { x with table := x.table.filter (fun e => !(e.sameKey a || supersedes a e)) ++ [a], count := x.count + BitVec.ofNat 32 (1 + gone) }

/-- An entry that a withdrawal removes: the key, unless its generation is newer. -/
def withdrawn (a e : Ann) : Bool := e.sameKey a && !newerGen e.gen a.gen

def Node.remove (x : Node) (a : Ann) : Node :=
  { x with table := x.table.filter (fun e => !withdrawn a e), count := x.count + BitVec.ofNat 32 (x.table.filter (withdrawn a)).length }

/-! ## Acknowledgements (R204) -/

/-- A request of a die that was stamped under an entry of this range which its table no longer holds. -/
def State.stampedOld (s : State) (n : Nat) (a : Ann) : Bool :=
  let old := fun (p : Packet) => p.src == n && p.stamp.base == a.base && p.stamp.len == a.len && p.stamp.world == a.world
    && !(s.node n).table.any (fun e => e.base == p.stamp.base && e.len == p.stamp.len && e.world == p.stamp.world
      && e.holder == p.stamp.holder && e.gen == p.stamp.gen)
  n < 8 && (s.pkts.any old || s.replies.any (fun r => old r.pkt) || s.mirrors.any (fun m => old m.pkt))

/-- A write that used the multicast entry as it was before a MIRROR came or went is still being replicated from a home whose table this is:
one numbered below the acknowledgement (R232). -/
def State.mirrorBusy (s : State) (r : RouteAck) : Bool :=
  r.ann.kind == AnnKind.mirror
  && (s.mirrors.any (fun m => decide (m.id < r.id) && s.sideNode m.home == r.node)
    || s.commits.any (fun m => decide (m.write < r.id) && s.sideNode m.home == r.node))

/-- An acknowledgement a node must still hold back. -/
def State.ackHeld (s : State) (r : RouteAck) : Bool := s.stampedOld r.node r.ann || s.mirrorBusy r

/-- A node acknowledges the first copy of an announcement or withdrawal it receives, and no later one. -/
def State.ackRoute (s : State) (n camp : Nat) (a : Ann) (wd full : Bool) : State :=
  if (s.node n).acked.contains camp then s
  else
    let (id, s) := s.fresh
    let r : RouteAck := { id := id, camp := camp, node := n, ann := a, withdraw := wd, full := full }
    let s := s.modNode n (fun x => { x with acked := camp :: x.acked })
    if s.ackHeld r then s.modNode n (fun x => { x with heldAcks := x.heldAcks ++ [r] })
    else { s with routeAcks := s.routeAcks ++ [r] }

/-- Acknowledgements held back by a node that may now go. -/
def State.flushHeld (s : State) (n : Nat) : State :=
  let go := (s.node n).heldAcks.filter (fun r => !s.ackHeld r)
  if go.isEmpty then s
  else { (s.modNode n (fun x => { x with heldAcks := x.heldAcks.filter (fun r => !go.any (fun g => g.id == r.id)) })) with
         routeAcks := s.routeAcks ++ go }

/-! ## Multicast groups (R232) -/

/-- The pier that keeps a home's group entries. For a CXL home, the lowest-numbered linked pier (DEDUCED, notes/assumptions/23.md). -/
def groupPier (home : Nat) : Nat := if home < 8 then attach home 0 else if home < 16 then home - 8 else (abutPiers (home - 16)).headD 0

/-- The group entries of a home: its HOME ranges that have mirrors, each with its members. They follow the table, so a mirror that a later
HOME or a moved one binds (R211) is a member too. -/
def State.groupsOf (s : State) (home : Nat) : List (Ann × List Nat) :=
  let homes := s.homesAt home
  let mirs := (s.node (s.sideNode home)).table.filter (fun m => m.kind == AnnKind.mirror && m.holder != home)
  (homes.map (fun a => (a, distinct ((mirs.filter (fun m => boundHome home homes m == some a && a.holder == home)).map Ann.holder)))).filter
    (fun g => !g.2.isEmpty)

/-- The group entries that a pier keeps. -/
def State.pierGroups (s : State) (pier : Nat) : List (Ann × List Nat) :=
  (List.range 18).flatMap (fun h => if groupPier h = pier then s.groupsOf h else [])

/-- A MIRROR whose installation at its home's node leaves its pier no entry or no member for it (R232). -/
def State.groupFull (s : State) (n : Nat) (a : Ann) : Bool :=
  if a.kind ≠ .mirror then false
  else
    let after := s.modNode n (fun x => x.install a)
    (List.range 18).any (fun h => s.sideNode h == n && (after.groupsOf h).any (fun g => g.2.contains a.holder)
      && (decide (1024 < (after.pierGroups (groupPier h)).length) || (after.groupsOf h).any (fun g => decide (16 < g.2.length))))

/-- A mirror whose home's entries are withdrawn writes what it had prepared (R208). -/
def State.settlePrepared (s : State) (n : Nat) (a : Ann) : State :=
  let mine := s.prepared.filter (fun p => s.sideNode p.mirror == n && p.home == a.holder && s.holderSilent a.holder)
  mine.foldl (fun s p => s.putBytes p.mirror p.cells)
    { s with prepared := s.prepared.filter (fun p => !(s.sideNode p.mirror == n && p.home == a.holder && s.holderSilent a.holder)) }

/-- A copy for a node's next round, its own identifier added to the path: a pier forwards what it installed and withdrawals, a die only
what it originates (R203). -/
def State.forward (s : State) (n camp : Nat) (a : Ann) (wd : Bool) : State :=
  if 8 ≤ n ∨ a.path = [] then s.modNode n (fun x => { x with outbox := x.outbox ++ [(camp, { a with path := a.path ++ [n] }, wd)] }) else s

/-- A node takes a withdrawal: the key's entry goes, and the first copy goes on. It goes on from a node without the entry too, since every
node acknowledges it (DEDUCED from R203 and R204, notes/assumptions/66.md). -/
def State.receiveWithdrawal (s : State) (n camp : Nat) (a : Ann) : State :=
  let x := s.node n
  let s1 := if x.table.any (withdrawn a) then (s.modNode n (fun x => x.remove a)).settlePrepared n a else s
  (if x.acked.contains camp then s1 else s1.forward n camp a true).ackRoute n camp a true false

/-- A node takes a copy (R203, R204, R205). -/
def State.receiveCopy (s : State) (n camp : Nat) (a : Ann) (wd : Bool) : State :=
  if !s.nodeUp n || a.path.contains n || (8 ≤ n && (s.pier (n - 8)).fenced) then s
  else if wd then s.receiveWithdrawal n camp a
  else
    let x := s.node n
    let fresh := match x.table.find? (fun e => e.sameKey a) with
      | some e => newerGen a.gen e.gen
      | none => true
    if !fresh then s.ackRoute n camp a false false
    else if !x.table.any (fun e => e.sameKey a) && decide (tableCap n ≤ x.table.length) then s.ackRoute n camp a false true
    else if s.groupFull n a then s.ackRoute n camp a false true
    else ((s.modNode n (fun x => x.install a)).forward n camp a false).ackRoute n camp a false false

/-! ## Origination and completion (R203 to R205, R217, R218) -/

/-- Hand an announcement or withdrawal of a holder to its node, or by its abutment to the linked piers. -/
def State.originate (s : State) (camp : Nat) (a : Ann) (wd : Bool) (at_ : Nat) : State :=
  let a := { a with path := [] }
  if at_ < 16 then s.receiveCopy at_ camp a wd
  else (abutPiers (at_ - 16)).foldl (fun s p =>
    let (id, s) := s.fresh
    if s.nodeUp (8 + p) && !(s.link (28 + p)).failed then
      { s with routeMsgs := s.routeMsgs ++ [{ id := id, camp := camp, src := at_, node := 8 + p, ann := { a with path := [at_] }, withdraw := wd }] }
    else s) s

/-- A holder announces. -/
def State.announce (s : State) (a : Ann) (why : Purpose) : State × Nat :=
  let (id, s) := s.fresh
  let s := { s with campaigns := s.campaigns ++ [({ id := id, ann := a, withdraw := false, acks := [], purpose := why } : Campaign)] }
  let s := s.modHolder a.holder (fun h => { h with anns := h.anns.filter (fun (e : Ann) => !e.sameKey a) ++ [a] })
  (s.originate id a false a.holder, id)

/-- A withdrawal, by the holder or for a silent one by the pier that declared it. -/
def State.withdraw (s : State) (a : Ann) (why : Purpose) (by_ : Nat) : State × Nat :=
  let (id, s) := s.fresh
  let s := { s with campaigns := s.campaigns ++ [({ id := id, ann := a, withdraw := true, acks := [], purpose := why } : Campaign)] }
  (s.originate id a true by_, id)

/-- The status word of R215. -/
def routeStatus (code ack : Nat) (gen : BitVec 8) : Word := BitVec.ofNat 32 (gen.toNat * 65536 + ack % 256 * 256 + code)

/-- A route command's result lands, and its place in the engine is free (R216). -/
def State.routeResult (s : State) (c : RouteCmd) (vs : List Val) : State :=
  let s := s.modDie c.die (fun d => { d with routes := d.routes.filter (fun x => x.id != c.id) })
  match s.op? c.op with
  | some o => s.addLanding c.op c.team (o.owed.zip (vs.map UnitVal.w)) (if vs.any Val.isPoison then some 0xFF else none)
  | none => s

/-- The generation in force for a key: the holder's, or what a node's table still holds of it; 0 when there is none (R215). -/
def State.genInForce (s : State) (n : Nat) (a : Ann) : BitVec 8 :=
  match (s.holder a.holder).anns.find? (fun e => e.sameKey a), (s.node n).table.find? (fun e => e.sameKey a) with
  | some e, _ => e.gen
  | none, some e => e.gen
  | none, none => 0

/-- The generation in force for the range of an `hmove`: its HOME's (R215). -/
def State.homeGen (s : State) (n : Nat) (a : Ann) : BitVec 8 :=
  match (s.node n).table.find? (fun e => e.kind == AnnKind.home && e.sameRange a) with
  | some e => e.gen
  | none => 0

/-- A route command by number. -/
def State.routeCmd? (s : State) (id : Nat) : Option RouteCmd :=
  (s.dies.flatMap (fun d => d.2.routes)).find? (fun c => c.id == id)

/-- A command ends with a status. -/
def State.endRoute (s : State) (id code ack : Nat) (gen : BitVec 8) : State :=
  match s.routeCmd? id with
  | some c => s.routeResult c [.word (routeStatus code ack gen)]
  | none => s

def State.dropTransfer (s : State) (cmd : Nat) : State := { s with transfers := s.transfers.filter (fun t => t.cmd != cmd) }

/-- The holder's own entries after a completion: a withdrawn key is gone, superseded HOMEs no longer serve (R207, R218). -/
def State.settleHolders (s : State) (c : Campaign) : State :=
  if c.withdraw then s.modHolder c.ann.holder (fun h => { h with anns := h.anns.filter (fun e => !withdrawn c.ann e) })
  else { s with holders := s.holders.map (fun h => (h.1, { h.2 with anns := h.2.anns.filter (fun e => !supersedes c.ann e) })) }

/-! ## A failed channel (R340) -/

/-- The fewest aligned prefixes of [lo, hi), as base and length; fuel bounds their number. -/
def prefixes : Nat → Nat → Nat → List (Nat × Nat)
  | 0, _, _ => []
  | fuel + 1, lo, hi =>
    if hi ≤ lo then []
    else
      let fits := (List.range 49).find? (fun len => decide (10 ≤ len) && lo % 2 ^ (52 - len) == 0 && decide (lo + 2 ^ (52 - len) ≤ hi))
      match fits with
      | some len => (lo, len) :: prefixes fuel (lo + 2 ^ (52 - len)) hi
      | none => []

/-- An announcement cut to a prefix within it. -/
def Ann.part (a : Ann) (x : Nat × Nat) : Ann := { a with base := x.1, len := x.2, localBase := a.localBase + (x.1 - a.base), path := [] }

/-- Intervals less one interval. -/
def cutOut (lo hi : Nat) (xs : List (Nat × Nat)) : List (Nat × Nat) :=
  xs.flatMap (fun x =>
    if x.2 ≤ lo ∨ hi ≤ x.1 then [x]
    else (if x.1 < lo then [(x.1, lo)] else []) ++ (if hi < x.2 then [(hi, x.2)] else []))

/-- The parts of an announcement outside a channel of its pier, and those inside that no replica of another holder in the pier's
table covers. -/
def State.splitAnn (s : State) (pier chan : Nat) (a : Ann) : List Ann × List Ann :=
  let size := 2 ^ (52 - a.len)
  let c0 := chan * 0xF0000000
  let c1 := c0 + 0xF0000000
  let lo := a.base + (c0 - a.localBase)
  let hi := if c1 < a.localBase + size then a.base + (c1 - a.localBase) else a.base + size
  let outs := (if lo ≤ a.base then [] else prefixes 128 a.base lo) ++ prefixes 128 hi (a.base + size)
  let lo := if a.localBase < c0 then lo else a.base
  let reps := (s.node (8 + pier)).table.filter (fun e => e.kind != AnnKind.home && e.holder != a.holder && (e.world == 0 || e.world == a.world))
  let left := reps.foldl (fun xs e => cutOut e.base (e.base + 2 ^ (52 - e.len)) xs) [(lo, hi)]
  (outs.map a.part, (left.flatMap (fun x => prefixes 128 x.1 x.2)).map a.part)

/-- Announce a list of parts for a job; the numbers of the announcements. -/
def State.announceAll (s : State) (job : Nat) : List Ann → State × List Nat
  | [] => (s, [])
  | a :: rest =>
    let (s, i) := s.announce a (.channel job)
    let (s, is) := s.announceAll job rest
    (s, i :: is)

def State.setJob (s : State) (j : ChanJob) : State := { s with chanJobs := s.chanJobs.map (fun x => if x.id == j.id then j else x) }

def State.endJob (s : State) (id : Nat) : State := { s with chanJobs := s.chanJobs.filter (fun x => x.id != id) }

/-- The next step of a job that waits for nothing. -/
def State.jobStep (s : State) (j : ChanJob) : State :=
  if j.stage = 2 then
    if j.full then s.endJob j.id
    else
      let (s, w) := s.withdraw j.orig (.channel j.id) j.orig.holder
      s.setJob { j with stage := 3, waiting := [w] }
  else if j.stage = 3 then
    if j.inside.isEmpty then s.endJob j.id
    else
      let (s, ws) := s.announceAll j.id j.inside
      s.setJob { j with stage := 4, waiting := ws }
  else
    let s := s.endJob j.id
    if j.full then (s.announce j.orig .plain).1 else s

/-- One of a job's announcements or withdrawals has ended. -/
def State.jobDone (s : State) (job camp : Nat) (full : Bool) : State :=
  match s.chanJobs.find? (fun j => j.id == job) with
  | none => s
  | some j =>
    let j := { j with waiting := j.waiting.filter (· != camp), full := j.full || full }
    let s := s.setJob j
    if j.waiting.isEmpty then s.jobStep j else s

/-- A channel fails: each announcement of the pier that overlaps it is split (steps 2 to 4). -/
def State.failChannel (s : State) (pier chan : Nat) : State :=
  if (s.pier pier).failedChans.contains chan then s
  else
    let s := s.modPier pier (fun x => { x with failedChans := chan :: x.failedChans })
    let c0 := chan * 0xF0000000
    let hits := (s.holder (8 + pier)).anns.filter (fun a => decide (a.localBase < c0 + 0xF0000000) && decide (c0 < a.localBase + 2 ^ (52 - a.len)))
    hits.foldl (fun s a =>
      let (id, s) := s.fresh
      let (outs, ins) := s.splitAnn pier chan a
      let j : ChanJob := { id := id, pier := pier, orig := a, outside := outs, inside := ins, stage := 2, waiting := [] }
      let s := { s with chanJobs := s.chanJobs ++ [j] }
      if outs.isEmpty then s.jobStep j
      else
        let (s, ws) := s.announceAll id outs
        s.setJob { j with waiting := ws }) s

/-- What a completed announcement or withdrawal was for. -/
def State.completeCampaign (s : State) (c : Campaign) : State :=
  let s := { s with campaigns := s.campaigns.filter (fun x => x.id != c.id) }.settleHolders c
  let s := { s with nodes := s.nodes.map (fun n => (n.1, { n.2 with acked := n.2.acked.filter (· != c.id) })) }
  let acks := c.acks.length
  match c.purpose with
  | .cmd id => s.endRoute id 0x00 acks c.ann.gen
  | .undo id =>
    let gen := match s.transfers.find? (fun t => t.cmd == id) with
      | some t => t.gen
      | none => s.genInForce c.ann.holder c.ann
    (s.endRoute id 0x01 acks gen).dropTransfer id
  | .hmoveSnap id => { s with transfers := s.transfers.map (fun t => if t.cmd == id then { t with step := 3 } else t) }
  | .hmoveHome id =>
    let s := match s.transfers.find? (fun t => t.cmd == id) with
      | some t => s.modHolder t.old (fun h => { h with anns := h.anns.filter (fun e =>
          !(e.base == t.base && e.len == t.len && e.world == t.world && e.kind == AnnKind.home && newerGen c.ann.gen e.gen)) })
      | none => s
    (s.dropTransfer id).endRoute id 0x00 acks c.ann.gen
  | .silence _ => s
  | .channel job => s.jobDone job c.id false
  | .plain => s

/-- An announcement or withdrawal is complete when every node in service has acknowledged (R204). -/
def State.campaignDone (s : State) (c : Campaign) : Bool := s.nodesUp.all (fun n => c.acks.contains n)

def State.checkCampaigns (s : State) : State :=
  (s.campaigns.map Campaign.id).foldl (fun s id =>
    match s.campaigns.find? (fun c => c.id == id) with
    | some c => if s.campaignDone c then s.completeCampaign c else s
    | none => s) s

/-- R205: a node refused; the holder withdraws from every node. -/
def State.refuseCampaign (s : State) (c : Campaign) : State :=
  let s := { s with campaigns := s.campaigns.filter (fun x => x.id != c.id) }
  let undo := fun (s : State) (why : Purpose) => (s.withdraw c.ann why c.ann.holder).1
  match c.purpose with
  | .cmd id => undo s (.undo id)
  | .hmoveSnap id => undo s (.undo id)
  | .channel job => undo (s.jobDone job c.id true) .plain
  | _ => undo s .plain

/-- `ROUTE_ACK_RECEIVE` (R204, R205). -/
def State.routeAckReceive (s : State) (id : Nat) : State :=
  match s.routeAcks.find? (fun r => r.id == id) with
  | none => s
  | some r =>
    if (s.campaigns.find? (fun c => c.id == r.camp)).any (fun c => s.stopsClass (linkWays r.node (holderLinks r.node c.ann.holder)) 3) then s
    else
    let s := { s with routeAcks := s.routeAcks.filter (fun x => x.id != id) }
    match s.campaigns.find? (fun c => c.id == r.camp) with
    | none => s
    | some c =>
      if r.full then s.refuseCampaign c
      else
        let c := { c with acks := if c.acks.contains r.node then c.acks else c.acks ++ [r.node] }
        let s : State := { s with campaigns := s.campaigns.map (fun (x : Campaign) => if x.id == c.id then c else x) }
        s.checkCampaigns

def execRouteAckReceive (id : Nat) (s : State) : Answered := .next (s.routeAckReceive id)

/-- The link between two nodes stops a class toward the second (R230). -/
def State.stopsTo (s : State) (a b cls : Nat) : Bool :=
  (List.range 36).any (fun l => (linkEnds l == (a, b) && s.stopsClass [(l, true)] cls) || (linkEnds l == (b, a) && s.stopsClass [(l, false)] cls))

/-- `ANNOUNCEMENT_RECEIVE` (R203): copies from one sender to one node arrive in order, none while the link stops class 3 (R230) or replays
(R231). -/
def State.announcementReceive (s : State) (id : Nat) : State :=
  match s.routeMsgs.find? (fun m => m.id == id) with
  | none => s
  | some m =>
    match s.routeMsgs.find? (fun x => x.src == m.src && x.node == m.node) with
    | some x =>
      if x.id ≠ id ∨ s.replaysTo m.src m.node = true ∨ s.stopsTo m.src m.node 3 = true then s
      else ({ s with routeMsgs := s.routeMsgs.filter (fun x => x.id != id) }.receiveCopy m.node m.camp m.ann m.withdraw).checkCampaigns
    | none => s

def execAnnouncementReceive (id : Nat) (s : State) : Answered := .next (s.announcementReceive id)

/-! ## Rounds (R203, R241, R243) -/

/-- The directions of a link by the end that receives. -/
def State.modLink (s : State) (l : Nat) (f : Link → Link) : State := { s with links := tmod {} s.links l f }

/-- The direction of a pier–pier link that carries flits from pier i to pier j. -/
def Link.toward (x : Link) (fromA : Bool) : LinkDir := if fromA then x.ab else x.ba

def Link.setToward (x : Link) (fromA : Bool) (d : LinkDir) : Link := if fromA then { x with ab := d } else { x with ba := d }

/-- Pi is the A end of its link to Pj. -/
def pierIsA (i j : Nat) : Bool := if (i + 1) % 8 = j then true else if (j + 1) % 8 = i then false else decide (i < j)

/-- The three pier neighbours of a pier (R243). -/
def pierNbrs (k : Nat) : List Nat := [(k + 1) % 8, (k + 7) % 8, (k + 4) % 8]

/-- Keepalives of pier k reach its neighbours; the rounds without a flit that k counts on its own links rise by one (R243). -/
def State.keepalive (s : State) (k : Nat) : State :=
  (pierNbrs k).foldl (fun s j =>
    let l := pierLink k j
    if (s.link l).failed then s
    else s.modLink l (fun x =>
      let a := pierIsA k j
      let out := x.toward a
      let x := x.setToward a { out with quiet := 0 }
      let inn := x.toward (!a)
      x.setToward (!a) { inn with quiet := inn.quiet + 1 })) s

/-- R241: the declaring pier withdraws what its table holds of a silent holder. -/
def State.withdrawSilent (s : State) (k h : Nat) : State :=
  ((s.node (8 + k)).table.filter (fun e => e.holder == h)).foldl (fun s e => (s.withdraw e (.silence h) (8 + k)).1) s

/-- Copies leave a node for one neighbour. -/
def State.sendCopies (s : State) (n m : Nat) (box : List (Nat × Ann × Bool)) : State :=
  box.foldl (fun s x =>
    let (id, s) := s.fresh
    { s with routeMsgs := s.routeMsgs ++ [{ id := id, camp := x.1, src := n, node := m, ann := x.2.1, withdraw := x.2.2 }] }) s

/-- `ROUTE_ROUND`: when 256 DCC of the node's own count have passed since its last round. -/
def State.routeRound (s : State) (n : Nat) : State :=
  if !s.nodeUp n || (8 ≤ n && (s.pier (n - 8)).fenced) || (s.nodeDcc n).ult (s.node n).round then s
  else
    let s := s.modNode n (fun x => { x with round := s.nodeDcc n + 256 })
    let s := if n < 8 then s.modDie n (fun x => { x with holds := x.holds.map (fun h => (h.1, h.2 + 1)) }) else
      let subjects := (s.pier (n - 8)).toWithdraw
      let s := s.modPier (n - 8) (fun x => { x with toWithdraw := [] })
      (subjects.foldl (fun s h => s.withdrawSilent (n - 8) h) s).keepalive (n - 8)
    let box := (s.node n).outbox
    let s := s.modNode n (fun x => { x with outbox := [] })
    ((s.neighbours n).foldl (fun s m => s.sendCopies n m box) s).checkCampaigns

def execRouteRound (node : Nat) (s : State) : Answered := .next (s.routeRound node)

/-! ## Commands at the holder (R214, R215) -/

/-- The fields of an announcement block. -/
def blkBase (b : List Word) : Nat := (b.getD 0 0).toNat + blk b 1 0 20 * 2 ^ 32
def blkLen (b : List Word) : Nat := blk b 1 20 6
def blkHolder (b : List Word) : Nat := blk b 3 0 8
def blkKind (b : List Word) : Nat := blk b 3 8 2
def blkLocal (b : List Word) : Nat := 16 * (b.getD 2 0).toNat + blk b 3 24 8 * 2 ^ 36
def blkGen (b : List Word) : BitVec 8 := (b.getD 3 0).extractLsb' 16 8
def blkNoPoison (b : List Word) : Bool := (b.getD 3 0).getLsbD 10

/-- R215 code 0x02, over the fields a member uses. -/
def blkBad (fn : Nat) (b : List Word) : Bool :=
  decide (blkLen b < 10) || decide (48 < blkLen b) || blkBase b % 2 ^ (52 - blkLen b) != 0 || blk b 1 26 6 != 0
  || (fn == 0 && (blkKind b == 3 || blk b 3 11 5 != 0))
  || (fn == 3 && (blk b 3 8 16 != 0))

/-- R299: a local range includes bytes owned by another world than the team's. -/
def State.rangeForeign (s : State) (h lo size world : Nat) : Bool :=
  let pts := lo :: (s.holder h).owners.flatMap (fun e => [e.2.1, e.2.1 + 2 ^ (52 - e.2.2)])
  pts.any (fun x => decide (lo ≤ x) && decide (x < lo + size) && s.ownerOf h x != world)

/-- The announcement of a block. -/
def annOf (b : List Word) (world : Nat) : Ann :=
  { base := blkBase b, len := blkLen b, holder := blkHolder b, localBase := blkLocal b
    kind := if blkKind b = 1 then .mirror else if blkKind b = 2 then .snap else .home
    gen := blkGen b, world := world, noPoison := blkNoPoison b }

/-- The holder's present entry of a key. -/
def State.held (s : State) (a : Ann) : Option Ann := (s.holder a.holder).anns.find? (fun e => e.sameKey a)

/-- `annc` at its holder (R215, R217): the checks in the order of the table's codes, after those that find the holder. -/
def State.startAnnc (s : State) (c : RouteCmd) : State :=
  let a := annOf c.block c.world
  let gen := s.genInForce c.die a
  if blkBad 0 c.block then s.endRoute c.id 0x02 0 gen
  else if !s.holderUp a.holder then s.endRoute c.id 0x06 0 gen
  else if capacity a.holder ≤ a.localBase then s.endRoute c.id 0x03 0 gen
  else if (match s.held a with | some e => !newerGen a.gen e.gen | none => false) then s.endRoute c.id 0x05 0 gen
  else if s.rangeForeign a.holder a.localBase (2 ^ (52 - a.len)) c.world then s.endRoute c.id 0x08 0 gen
  else ((s.announce a (.cmd c.id)).1).checkCampaigns

/-- `wdrw` (R218). -/
def State.startWdrw (s : State) (c : RouteCmd) : State :=
  let a := annOf c.block c.world
  if blkBad 1 c.block then s.endRoute c.id 0x02 0 (s.genInForce c.die a)
  else if !s.holderUp a.holder then s.endRoute c.id 0x06 0 (s.genInForce c.die a)
  else match s.held a with
  | none => s.endRoute c.id 0x04 0 0
  | some e => ((s.withdraw e (.cmd c.id) a.holder).1).checkCampaigns

/-! ## Home transfer (R211) -/

/-- Both ends of a transfer let its world at a byte: the copies carry the entry's world (R298, R299). -/
def State.moveOk (s : State) (t : Transfer) (o : Nat) : Bool :=
  [s.ownerOf t.old o, s.ownerOf t.new (t.newBase + (o - t.oldBase))].all (fun w => w == t.world || w == 0)

/-- One line of a range copied from a holder to another: its bytes within the range, poison included. A byte that the world may not reach
stays where it is. -/
def State.copyLine (s : State) (t : Transfer) (line : Nat) : State :=
  let size := 2 ^ (52 - t.len)
  let offs := (List.range 128).map (line * 128 + ·) |>.filter (fun o => decide (t.oldBase ≤ o) && decide (o < t.oldBase + size) && s.moveOk t o)
  if offs.isEmpty then s
  else (s.noteTag t.old (line * 128)).putBytes t.new (offs.map (fun o => (t.newBase + (o - t.oldBase), s.byteAt t.old o)))

/-- Written lines of a holder that touch a range, by their number. -/
def State.writtenLines (s : State) (h lo size : Nat) : List Nat :=
  (s.mem.written.filter (fun w => decide (lineKey h lo ≤ w.1) && decide (w.1 ≤ lineKey h (lo + size - 1)))).map (fun w => w.1 - lineKey h 0)

/-- The bulk copy: written lines of the new place read zero first, then every written line of the old place is copied. Lines that
nothing has written stay so (DEDUCED, notes/assumptions/24.md). -/
def State.copyRange (s : State) (t : Transfer) : State :=
  let size := 2 ^ (52 - t.len)
  let s := (s.writtenLines t.new t.newBase size).foldl (fun s l =>
    let offs := (List.range 128).map (l * 128 + ·) |>.filter (fun o => decide (t.newBase ≤ o) && decide (o < t.newBase + size))
    s.putBytes t.new (offs.map (fun o => (o, some 0)))) s
  (s.writtenLines t.old t.oldBase size).foldl (fun s l => s.copyLine t l) s

/-- Ranges that overlap. -/
def rangesMeet (b1 l1 b2 l2 : Nat) : Bool := let l := if l1 < l2 then l1 else l2; b1 / 2 ^ (52 - l) == b2 / 2 ^ (52 - l)

/-- A local range includes bytes that a world may not reach (R299). -/
def State.rangeBarred (s : State) (h lo size world : Nat) : Bool :=
  let pts := lo :: (s.holder h).owners.flatMap (fun e => [e.2.1, e.2.1 + 2 ^ (52 - e.2.2)])
  pts.any (fun x => decide (lo ≤ x) && decide (x < lo + size) && s.ownerOf h x != world && s.ownerOf h x != 0)

/-- `hmove`: its checks, the bulk copy, and the SNAP at the new holder (steps 1 and 2). -/
def State.startHmove (s : State) (c : RouteCmd) : State :=
  let a := annOf c.block c.world
  if blkBad 3 c.block then s.endRoute c.id 0x02 0 (s.homeGen c.die a)
  else if !s.holderUp a.holder then s.endRoute c.id 0x06 0 (s.homeGen c.die a)
  else match (s.node c.die).table.find? (fun e => e.kind == AnnKind.home && e.sameRange a) with
  | none => s.endRoute c.id 0x04 0 0
  | some e =>
    if e.holder = a.holder ∨ capacity a.holder ≤ a.localBase then s.endRoute c.id 0x03 0 e.gen
    else if s.rangeForeign a.holder a.localBase (2 ^ (52 - a.len)) c.world
        || s.rangeBarred e.holder (match s.held e with | some x => x.localBase | none => e.localBase) (2 ^ (52 - e.len)) c.world then
      s.endRoute c.id 0x08 0 e.gen
    else if s.transfers.any (fun t => rangesMeet t.base t.len a.base a.len && (t.world == c.world || t.world == 0 || c.world == 0)) then
      s.endRoute c.id 0x09 0 e.gen
    else
      let old := match s.held e with | some x => x | none => e
      let t : Transfer := { cmd := c.id, base := e.base, len := e.len, world := e.world, old := e.holder, oldBase := old.localBase,
                            new := a.holder, newBase := a.localBase, gen := e.gen, noPoison := e.noPoison, step := 2 }
      let s := s.copyRange t
      let s := { s with transfers := s.transfers ++ [t] }
      ((s.announce { e with holder := a.holder, localBase := a.localBase, kind := .snap, path := [] } (.hmoveSnap c.id)).1).checkCampaigns

/-- Steps 4 and 5 of a frozen transfer: the marked lines, then the HOME at the new holder. -/
def State.finishMove (s : State) (t : Transfer) : State :=
  let s := t.marked.foldl (fun s l => s.copyLine t l) s
  let s := { s with transfers := s.transfers.map (fun (x : Transfer) => if x.cmd == t.cmd then { x with step := 5, marked := [] } else x) }
  ((s.announce { base := t.base, len := t.len, holder := t.new, localBase := t.newBase, kind := .home, gen := t.gen + 1, world := t.world,
                 noPoison := t.noPoison } (.hmoveHome t.cmd)).1).checkCampaigns

/-! ## `rlook` and `rstat` (R220, R221) -/

/-- One lane of `rlook`. -/
def State.lookLane (s : State) (c : RouteCmd) (va : VA) : Word :=
  match s.walkVA c.die c.world c.asn va.toNat with
  | .error _ => 0xFFFFFFFE
  | .ok l =>
    match s.choose c.die c.die c.world c.homeOnly (l.addr va.toNat) with
    | none => 0xFFFFFFFF
    | some a =>
      let k := match a.kind with | .home => 0 | .mirror => 1 | .snap => 2
      BitVec.ofNat 32 (a.len * 65536 + (if a.noPoison then 16384 else 0) + k * 4096 + distance c.die a.holder % 16 * 256 + a.holder)

/-- The two words of `rstat`. -/
def State.tableWords (s : State) (c : RouteCmd) : List Val :=
  let n := if c.table = 0 then c.die else 8 + attach c.die (c.table - 1)
  if 8 ≤ n ∧ s.pierUp (n - 8) = false then [.word 0xFFFFFFFF, .word 0xFFFFFFFF]
  else
    let used := (s.node n).table.length
    [.word (BitVec.ofNat 32 (used + (tableCap n - used) * 65536)), .word (s.node n).count]

/-! ## The route engine (R216) -/

/-- The keys that a command touches: its own, and for `hmove` that of the old HOME as well. -/
def State.keysOf (s : State) (c : RouteCmd) : List Ann :=
  let a := annOf c.block c.world
  if c.fn = 3 then a :: (s.node c.die).table.filter (fun e => e.kind == AnnKind.home && e.sameRange a) else [a]

/-- A key that another command is at work on at its holder (R216). One `hmove` does not wait for another, which it finds busy (R215 code
0x09). -/
def State.keyBusy (s : State) (c : RouteCmd) : Bool :=
  let keys := s.keysOf c
  decide (c.fn ≤ 1 ∨ c.fn = 3)
  && (s.campaigns.any (fun x => match x.purpose with
      | .cmd _ => keys.any x.ann.sameKey
      | .undo _ => keys.any x.ann.sameKey
      | _ => false)
    || (c.fn != 3 && s.transfers.any (fun t => keys.any (fun a =>
      a.base == t.base && a.len == t.len && a.world == t.world && (a.holder == t.old || a.holder == t.new)))))

/-- A command that may start: the team's previous one has completed, the team's earlier accesses are performed (R257, R261), for an `annc` its
writes and copies are acknowledged (R217), and no other is at work on its key. -/
def State.mayStart (s : State) (c : RouteCmd) : Bool :=
  !c.started
  && (((s.die c.die).routes.find? (fun x => x.team == c.team)).map RouteCmd.id == some c.id)
  && c.earlier.all (fun id => match s.op? id with | some o => o.released none | none => true)
  && !s.keyBusy c

/-- Run a command. -/
def State.runRoute (s : State) (c : RouteCmd) : State :=
  let s := s.modDie c.die (fun d => { d with routes := d.routes.map (fun x => if x.id == c.id then { x with started := true } else x) })
  if c.fn = 0 then s.startAnnc c
  else if c.fn = 1 then s.startWdrw c
  else if c.fn = 2 then
    (c.lanes.foldl (fun s l => s.walkNoted c.die c.world c.asn l.2.toNat) s).routeResult c (c.lanes.map (fun l => .word (s.lookLane c l.2)))
  else if c.fn = 3 then s.startHmove c
  else s.routeResult c (s.tableWords c)

/-- `ROUTE_COMMAND_START`: a frozen transfer of the die's goes on; else the first command that may start does. -/
def State.routeStart (s : State) (die : Nat) : State :=
  match s.transfers.find? (fun t => t.step == 3 && (match s.routeCmd? t.cmd with | some c => c.die == die | none => true)
      && !s.mirrors.any (fun m => m.home == t.old)) with
  | some t => s.finishMove t
  | none =>
    match (s.die die).routes.find? s.mayStart with
    | some c => s.runRoute c
    | none => s

def execRouteCommandStart (die : Nat) (s : State) : Answered := .next (s.routeStart die)

/-! ## Issue (R213, R214) -/

/-- The accesses whose acknowledgement an `annc` waits for (R217). -/
def State.earlierWrites (s : State) (uid : Nat) : List Nat :=
  ((s.opsOf uid).filter (fun o => match o.kind with | .store => true | .atomic => true | .copy => true | _ => false)).map OpRec.id

/-- The engine accepts a command, or the team waits. -/
def State.acceptRoute (s : State) (e : Env) (k : Crew) (fn : Nat) (b : List Word) (table : Nat) (homeOnly : Bool)
    (lanes : List (Nat × VA)) (dst : List UnitRef) : Done :=
  if s.acquiring e.uid then .wait 21 s
  else if s.resultsFull e.uid 9 1 then .wait 5 s
  else if s.freeSlots k 9 = 0 then .wait 20 s
  else
    let gate := s.earlierAccesses e.uid ++ (if fn = 0 then s.earlierWrites e.uid else [])
    let (id, s) := s.fresh
    let s := s.addOp { id := id, team := e.uid, kind := .route, w := e.w, hdrVA := e.hdrVA
                       owed := dst.map (fun r => ({ unit := r, gen := e.gen r } : Owed)) }
    let c : RouteCmd := { id := id, op := id, team := e.uid, die := k.die, world := k.world, fn := fn, block := b, table := table, homeOnly := homeOnly
                          asn := k.asn, lanes := lanes, earlier := gate }
    .ok { s := s.modDie k.die (fun d => { d with routes := d.routes ++ [c] }), owes := dst }

/-- `annc`, `wdrw` and `hmove`. -/
def blockPlan (fn : Nat) (d a : BitVec 7) (w : BitVec 3) : Plan where
  whole := true
  ill := illWait w
  regs := fun _ _ => if a.toNat % 4 ≠ 0 then some .illegalOperand else none
  srcs := fun _ _ => if fn = 1 then [{ units := [.uni a.toNat, .uni (a.toNat + 1), .uni (a.toNat + 3)], words := 3 }] else [uGroupSrc a.toNat 4]
  dsts := fun _ _ => [.uni d.toNat]
  w := w
  act := fun e s =>
    let vs := (groupRegs a.toNat 4).map e.u
    let used := if fn = 1 then vs.take 2 ++ vs.drop 3 else vs
    let b := vs.map Val.bits
    match s.crewOf e.uid with
    | none => .ok { s := s }
    | some (_, k) =>
      if used.any Val.isPoison then .trap .poisonUniform
      else if (blkHolder b = 16 ∨ blkHolder b = 17) ∧ s.capCxl = false then .trap .unitAbsent
      else s.acceptRoute e k fn b 0 false [] [.uni d.toNat]

/-- `rlook`. -/
def rlookPlan (d a : BitVec 7) (h : BitVec 1) (w : BitVec 3) : Plan where
  ill := illWait w
  regs := fun t m => if a.toNat % 2 = 1 then some .illegalOperand else checkV [d.toNat, a.toNat, a.toNat + 1] t m
  srcs := fun _ m => [gSrc a.toNat 2 m]
  dsts := fun _ m => vDst d.toNat m
  w := w
  act := fun e s =>
    let ls := Mask.lanes e.mask
    match s.crewOf e.uid, ls.find? (fun l => (e.v a.toNat l).isPoison || (e.v (a.toNat + 1) l).isPoison) with
    | none, _ => .ok { s := s }
    | _, some l => .trap (.poisonConsumed l)
    | some (_, k), none =>
      s.acceptRoute e k 2 [] 0 (h == 1) (ls.map (fun l => (l, (e.v (a.toNat + 1) l).bits ++ (e.v a.toNat l).bits)))
        (ls.map (fun l => UnitRef.vec d.toNat l))

/-- `rstat`. -/
def rstatPlan (d : BitVec 7) (t : BitVec 2) (w : BitVec 3) : Plan where
  whole := true
  ill := firstIll [illTable t, illWait w]
  regs := fun _ _ => evenU d
  dsts := fun _ _ => [.uni d.toNat, .uni (d.toNat + 1)]
  w := w
  act := fun e s => match s.crewOf e.uid with
    | none => .ok { s := s }
    | some (_, k) => s.acceptRoute e k 4 [] t.toNat false [] [.uni d.toNat, .uni (d.toNat + 1)]

/-! ## The instructions -/

/-- `ANNC` (R217). Announces a prefix at a holder and writes the status on completion. -/
def planAnnc (d : BitVec 7) (a : BitVec 7) (w : BitVec 3) : Plan :=
  blockPlan 0 d a w

def execAnnc (d : BitVec 7) (a : BitVec 7) (w : BitVec 3) (s : State) : Answered := issue (.annc d a w) (planAnnc d a w) s

/-- `WDRW` (R218). Withdraws an announcement key from every node. -/
def planWdrw (d : BitVec 7) (a : BitVec 7) (w : BitVec 3) : Plan :=
  blockPlan 1 d a w

def execWdrw (d : BitVec 7) (a : BitVec 7) (w : BitVec 3) (s : State) : Answered := issue (.wdrw d a w) (planWdrw d a w) s

/-- `RLOOK` (R220). Reports per lane the holder the die would choose for a VA. -/
def planRlook (d : BitVec 7) (a : BitVec 7) (h : BitVec 1) (w : BitVec 3) : Plan :=
  rlookPlan d a h w

def execRlook (d : BitVec 7) (a : BitVec 7) (h : BitVec 1) (w : BitVec 3) (s : State) : Answered := issue (.rlook d a h w) (planRlook d a h w) s

/-- `HMOVE` (R219). Moves the HOME of a range to a new holder. -/
def planHmove (d : BitVec 7) (a : BitVec 7) (w : BitVec 3) : Plan :=
  blockPlan 3 d a w

def execHmove (d : BitVec 7) (a : BitVec 7) (w : BitVec 3) (s : State) : Answered := issue (.hmove d a w) (planHmove d a w) s

/-- `RSTAT` (R221). Reads entry counts and route generation of a route table. -/
def planRstat (d : BitVec 7) (t : BitVec 2) (w : BitVec 3) : Plan :=
  rstatPlan d t w

def execRstat (d : BitVec 7) (t : BitVec 2) (w : BitVec 3) (s : State) : Answered := issue (.rstat d t w) (planRstat d t w) s

end Sys2Proof.Machine
end

