-- ==== Sys2Proof/Machine/Sync.lean ====
section
/-! DEFINITION. Fences and hardware barriers (spec/13 R266 to R271): what each waits for, arrivals, completion, withdrawal, timeouts and
the reset of package phases by silence. -/

namespace Sys2Proof.Machine

/-! ## Fences (R266, R267) -/

/-- A value of an earlier instruction is still to land in a register of the team. -/
def State.landingsLeft (s : State) (uid : Nat) : Bool := (s.opsOf uid).any (fun o => !o.owed.isEmpty)

/-- A network command of the team of some members has no result yet (0 put, 1 get, 2 at). -/
def State.netLeft (s : State) (uid : Nat) (fns : List Nat) : Bool :=
  s.net.cmds.any (fun c => c.team == uid && fns.contains c.fn && c.result.isNone)

/-- The wait of `fence.rel` at a scope is over. -/
def State.relMet (s : State) (uid scope : Nat) : Bool :=
  scope == 0 || (s.releaseReady uid && (scope != 5 || !s.netLeft uid [0, 2]))

/-- The wait of `fence.acq` at a scope is over. -/
def State.acqMet (s : State) (uid scope : Nat) : Bool :=
  !s.landingsLeft uid && (scope != 5 || !s.netLeft uid [1, 2])

/-- A command of the team on q0 to q13 has not completed; half a pair on q8 is none. -/
def State.commandsLeft (s : State) (uid : Nat) : Bool :=
  s.copies.any (fun c => c.team == uid)
  || (s.opsOf uid).any (fun o => o.kind == OpKind.copy || o.kind == OpKind.route || o.kind == OpKind.net || o.kind == OpKind.task)
  || s.net.cmds.any (fun c => c.team == uid && c.result.isNone)
  || s.dies.any (fun d => decide (2 ≤ (d.2.q8.filter (fun x => x.team == uid)).length))

/-- A fence waits, and has come so far with its waits. -/
def State.fenceWait (s : State) (uid n : Nat) : Done := .wait 11 (s.noteWait uid n)

/-- A fence: the store-poison check of a release is made once, before its wait, and for `fence.q` before its wait for commands too (R246,
R267); then its waits, with stall reason 11. -/
def fencePlan (l : BitVec 3) (rel acq cmds : Bool) : Plan where
  whole := true
  ill := illScope l
  how := .drain
  act := fun e s => match s.crewOf e.uid with
    | none => .ok { s := s }
    | some (t, k) =>
      let left := cmds && s.commandsLeft e.uid
      if rel && k.storePoison && decide (t.waited < (if left then 1 else 2)) then .trap { cause := 0x11 }
      else if left then s.fenceWait e.uid 1
      else if (rel && !s.relMet e.uid l.toNat) || (acq && !s.acqMet e.uid l.toNat) then s.fenceWait e.uid 2
      else .ok { s := s }

/-! ## Barriers (R268) -/

def State.bar (s : State) (key : Nat) : Barrier := tget {} s.bars key

def State.setBar (s : State) (key : Nat) (b : Barrier) : State := { s with bars := tset {} s.bars key b }

/-- A barrier idle again; its phase number stays (R270). -/
def Barrier.close (b : Barrier) : Barrier := { b with isOpen := false, expected := 0, arrivals := [], bind := 0 }

/-- The barrier of a level and number for a team: of its crew, its quad, its die or the package. -/
def barOf (t : Team) (k : Crew) (level n : Nat) : Nat :=
  barKey level (if level = 1 then t.crew else if level = 2 then k.quad else if level = 3 then k.die else 0) n

/-- The participants a level allows. -/
def barLimit (level : Nat) : Nat := if level = 1 then 8 else if level = 2 then 32 else if level = 3 then 2304 else 18432

/-- What a phase is bound to: nothing, the gang ticket, or the world. -/
def barBind (k : Crew) (level : Nat) : Nat := if level = 1 then 0 else if level = 2 then k.ticket.toNat else k.world

/-- A team's last arrival at a barrier. -/
def Team.arrival (t : Team) (key : Nat) : Arrival := tget {} t.arrivals key

def Team.setArrival (t : Team) (key : Nat) (a : Arrival) : Team := { t with arrivals := tset {} t.arrivals key a }

/-- A team's arrival is counted in the open phase. -/
def State.counted (s : State) (uid key : Nat) : Bool := (s.bar key).isOpen && (s.bar key).arrivals.contains uid

/-- Withdraw a counted arrival; a phase left with none closes without completing (R270). -/
def State.withdrawArrival (s : State) (uid key : Nat) : State :=
  if s.counted uid key then
    let b := s.bar key
    let left := b.arrivals.filter (· != uid)
    let s := s.setBar key (if left.isEmpty then b.close else { b with arrivals := left })
    s.modTeam uid (fun t => t.setArrival key { made := false })
  else s

/-- Re-execution and relaunch withdraw a team's arrivals from open phases (R271). -/
def State.withdrawAll (s : State) (uid : Nat) : State :=
  match s.team? uid with
  | none => s
  | some t => t.arrivals.foldl (fun s a => s.withdrawArrival uid a.1) s

/-- An arrival counted: it opens an idle barrier, and the last one completes the phase (R270). -/
def State.arrive (s : State) (uid key expected bind : Nat) : State :=
  let b := s.bar key
  let b := if b.isOpen then b else { b with isOpen := true, expected := expected, arrivals := [], bind := bind }
  let s := s.modTeam uid (fun t => t.setArrival key { phase := b.phase, made := true, waitedFor := false })
  let b := { b with arrivals := b.arrivals ++ [uid] }
  s.setBar key (if b.arrivals.length = b.expected then { b.close with phase := b.phase + 1 } else b)

/-- The package barrier of a silent pier: every arrival at it traps (R271). -/
def State.barDead (s : State) (level n : Nat) : Bool := level == 4 && (s.pier n).silent

/-- The checks of an arrival from the count on, in R270's order. -/
def State.arrivalTrap (s : State) (k : Crew) (key level n count : Nat) : Option Trap :=
  let b := s.bar key
  if s.barDead level n then some { cause := 0x16 }
  else if count = 0 ∨ barLimit level < count then some .illegalOperand
  else if b.isOpen ∧ b.expected ≠ count then some .illegalOperand
  else if b.isOpen ∧ b.bind ≠ barBind k level then some { cause := if level = 2 then 0x0B else 0x0C }
  else none

/-- The team holds at the barrier for its arrival. -/
def Team.await (t : Team) (key : Nat) (till : Option (BitVec 64)) : Team := { t with hold := .barrier key till, stall := 6 }

/-- A void arrival counts as waited for once its trap is taken (R271). -/
def State.voidSeen (s : State) (uid key : Nat) : State :=
  s.modTeam uid (fun t => t.setArrival key { t.arrival key with waitedFor := true, void := false, made := false })

/-- A violation by a confidential world's crew against another confidential world puts it into ERROR when the step ends (R305). -/
def State.barError (s : State) (k : Crew) (key : Nat) (tr : Trap) : State :=
  if tr.cause = 0x0C ∧ k.world ≠ 0 ∧ (s.bar key).bind ≠ 0 then { s with badWorlds := k.world :: s.badWorlds } else s

/-- The arrival of `arv`, `sync` and `to`; then what follows. -/
def barArrive (e : Env) (s : State) (c : BitVec 7) (l : BitVec 3) (n : Nat) (poisoned : Bool)
    (after : State → Team → Crew → Nat → Done) : Done :=
  match s.crewOf e.uid with
  | none => .ok { s := s }
  | some (t, k) =>
    let key := barOf t k l.toNat n
    let a := t.arrival key
    if a.void && !a.waitedFor then .fail (s.voidSeen e.uid key) { cause := 0x16 }
    else match e.u c.toNat, poisoned with
    | .poison, _ => .trap .poisonUniform
    | _, true => .trap .poisonUniform
    | .word count, false =>
      if s.counted e.uid key then .wait 6 s
      else if k.storePoison && t.waited = 0 then .trap { cause := 0x11 }
      else if !s.releaseReady e.uid then s.fenceWait e.uid 1
      else match s.arrivalTrap k key l.toNat n count.toNat with
      | some tr => .fail (s.barError k key tr) tr
      | none => after (s.arrive e.uid key count.toNat (barBind k l.toNat)) t k key

/-- What the four members share (R269): whole-team, waiting for the FIFO, a pending register parks with reason 2. -/
def barPlan (l : BitVec 3) (n : BitVec 5) (srcs : List Nat) (act : Env → State → Done) : Plan where
  whole := true
  ill := illBarrier n l
  srcs := fun _ _ => srcs.map uSrc
  how := .drain
  reason := 2
  act := act

def barArvPlan (c : BitVec 7) (n : BitVec 5) (l : BitVec 3) : Plan :=
  barPlan l n [c.toNat] (fun e s => barArrive e s c l n.toNat false (fun s _ _ _ => .ok { s := s }))

def barSyncPlan (c : BitVec 7) (n : BitVec 5) (l : BitVec 3) : Plan :=
  barPlan l n [c.toNat] (fun e s => barArrive e s c l n.toNat false (fun s _ _ key =>
    .ok { s := s.modTeam e.uid (fun t => t.await key none), moved := true }))

/-- `bar.to`: a deadline of sT DCC after its arrival is counted; 0 traps at once unless the arrival completes the phase. -/
def barToPlan (d c : BitVec 7) (n : BitVec 5) (l : BitVec 3) : Plan :=
  barPlan l n [c.toNat, d.toNat] (fun e s => barArrive e s c l n.toNat (e.u d.toNat).isPoison (fun s _ k key =>
    if (e.u d.toNat).bits = 0 ∧ s.counted e.uid key then .fail (s.withdrawArrival e.uid key) { cause := 0x16 }
    else .ok { s := s.modTeam e.uid (fun t => t.await key (some (s.dccOf k + (e.u d.toNat).bits.setWidth 64))), moved := true }))

/-- `bar.wait`: without an arrival not yet waited for it has no effect. -/
def barWaitPlan (n : BitVec 5) (l : BitVec 3) : Plan :=
  barPlan l n [] (fun e s => match s.crewOf e.uid with
    | none => .ok { s := s }
    | some (t, k) =>
      let key := barOf t k l.toNat n.toNat
      let a := t.arrival key
      if a.void && !a.waitedFor then .fail (s.voidSeen e.uid key) { cause := 0x16 }
      else if !a.made || a.waitedFor then .ok { s := s }
      else if a.phase < (s.bar key).delivered then
        .ok { s := s.modTeam e.uid (fun t => t.setArrival key { a with waitedFor := true }) }
      else .ok { s := s.modTeam e.uid (fun t => t.await key none), moved := true })

/-- The header a held team traps at. -/
def Team.heldHdr (t : Team) : VA := match t.clause with | some c => c.hdrVA | none => t.pc

/-- A team that holds at a barrier: its phase delivered, it goes on and acquires; its arrival void, it traps (R270, R271). -/
def State.barWake (s : State) (key uid : Nat) : State :=
  match s.team? uid with
  | none => s
  | some t =>
    match t.hold with
    | .barrier k _ =>
      let a := t.arrival key
      if k ≠ key ∨ t.status ≠ .running then s
      else if a.void then (s.voidSeen uid key).takeTrap uid t.heldHdr { cause := 0x16 }
      else if a.phase < (s.bar key).delivered then s.setTeam uid (t.setArrival key { a with waitedFor := true }).release
      else s
    | _ => s

/-- Every team that holds at a barrier. -/
def State.barWakeAll (s : State) (key : Nat) : State :=
  (s.teams.map Prod.fst).foldl (fun s uid => s.barWake key uid) s

/-- `BARRIER_RELEASE` (R268): the completed phases are delivered to the waiting teams. -/
def State.barDeliver (s : State) (key : Nat) : State :=
  (s.setBar key { s.bar key with delivered := (s.bar key).phase }).barWakeAll key

def execBarrierRelease (bar : Nat) (s : State) : Answered := .next (s.barDeliver bar)

/-- `BARRIER_TIMEOUT` (R270): the deadline of `bar.to` has come and its phase has not completed. -/
def State.barTimeout (s : State) (uid : Nat) : State :=
  match s.crewOf uid with
  | none => s
  | some (t, k) =>
    match t.hold with
    | .barrier key (some d) =>
      if (s.dccOf k).ult d || !s.counted uid key || t.status ≠ .running then s
      else (s.withdrawArrival uid key).takeTrap uid t.heldHdr { cause := 0x16 }
    | _ => s

def execBarrierTimeout (team : Nat) (s : State) : Answered := .next (s.barTimeout team)

/-! ## The timeout of a join (R65) -/

/-- `JOIN_TIMEOUT`: the held lanes wait, unheld, at the fall-through. -/
def State.joinTimeout (s : State) (uid : Nat) : State :=
  match s.crewOf uid with
  | none => s
  | some (t, k) =>
    match t.joinDeadline with
    | none => s
    | some d =>
      if (s.dccOf k).ult d || k.offCore || t.status == TeamSt.ended then s
      else s.setTeam uid { t with
        jto := true, joinDeadline := none
        fr := { t.fr with joinVA := none
                          lanes := t.lanes.foldl (fun m l => match t.fr.lane l with | .held pc => tset .active m l (.waiting pc) | _ => m) t.fr.lanes } }

def execJoinTimeout (team : Nat) (s : State) : Answered := .next (s.joinTimeout team)

/-! ## Deadlines (R65, R190, R270)

A deadline ends at its own DCC whatever the teams do then. What completes in the deadline's own cycle wins, so a deadline that is now
acts at the end of the step, and one that lies before now as soon as the counts have passed it. -/

/-- The deadlines of a team up to a count have been acted on: its join, its barrier wait, its missed promise. -/
def State.overdueAt (s : State) (uid : Nat) (limit : Nat) : State :=
  match s.crewOf uid with
  | none => s
  | some (t, _) =>
    let s := if t.joinDeadline.any (fun d => decide (d.toNat ≤ limit)) then s.joinTimeout uid else s
    match t.hold with
    | .barrier _ (some d) => if d.toNat ≤ limit then s.barTimeout uid else s
    | .sleep v => if v.toNat + 256 ≤ limit then s.promiseMissed uid else s
    | _ => s

/-- Every team's deadlines that lie at least `slack` DCC back. -/
def State.expire (s : State) (slack : Nat) : State :=
  s.teams.foldl (fun s e => match s.crewOf e.1 with
    | some (_, k) => if slack ≤ (s.dccOf k).toNat then s.overdueAt e.1 ((s.dccOf k).toNat - slack) else s
    | none => s) s

/-! ## Silence (R271) -/

/-- An open phase reset to idle: every arrival counted in it is void, and the teams that wait on it trap. -/
def State.voidBar (s : State) (key : Nat) : State :=
  let b := s.bar key
  if !b.isOpen then s
  else
    let s := b.arrivals.foldl (fun s uid => s.modTeam uid (fun t => t.setArrival key { t.arrival key with void := true })) s
    (s.setBar key b.close).barWakeAll key

/-- The package phases that counted an arrival from a die. -/
def State.voidDieBars (s : State) (d : Nat) : State :=
  (List.range 8).foldl (fun s n =>
    let key := barKey 4 0 n
    if (s.bar key).arrivals.any (fun uid => match s.crewOf uid with | some (_, k) => k.die == d | none => false) then s.voidBar key else s) s

/-! ## The instructions -/

/-- `BAR_ARV` (R270). Arrives at a hardware barrier as a release. -/
def planBarArv (c : BitVec 7) (n : BitVec 5) (l : BitVec 3) : Plan :=
  barArvPlan c n l

def execBarArv (c : BitVec 7) (n : BitVec 5) (l : BitVec 3) (s : State) : Answered := issuePlain (planBarArv c n l) s

/-- `BAR_WAIT` (R270). Waits for the phase of the team's last arrival, then acquires. -/
def planBarWait (n : BitVec 5) (l : BitVec 3) : Plan :=
  barWaitPlan n l

def execBarWait (n : BitVec 5) (l : BitVec 3) (s : State) : Answered := issuePlain (planBarWait n l) s

/-- `BAR_SYNC` (R270). Arrives and waits at a hardware barrier. -/
def planBarSync (c : BitVec 7) (n : BitVec 5) (l : BitVec 3) : Plan :=
  barSyncPlan c n l

def execBarSync (c : BitVec 7) (n : BitVec 5) (l : BitVec 3) (s : State) : Answered := issuePlain (planBarSync c n l) s

/-- `BAR_TO` (R270). Arrives and waits with a DCC deadline. -/
def planBarTo (t : BitVec 7) (c : BitVec 7) (n : BitVec 5) (l : BitVec 3) : Plan :=
  barToPlan t c n l

def execBarTo (t : BitVec 7) (c : BitVec 7) (n : BitVec 5) (l : BitVec 3) (s : State) : Answered := issuePlain (planBarTo t c n l) s

/-- `FENCE_ACQ` (R267). Holds later accesses until every outstanding register value has landed. -/
def planFenceAcq (l : BitVec 3) : Plan :=
  fencePlan l false true false

def execFenceAcq (l : BitVec 3) (s : State) : Answered := issuePlain (planFenceAcq l) s

/-- `FENCE_REL` (R267). Waits until earlier accesses are performed at the scope. -/
def planFenceRel (l : BitVec 3) : Plan :=
  fencePlan l true false false

def execFenceRel (l : BitVec 3) (s : State) : Answered := issuePlain (planFenceRel l) s

/-- `FENCE_AR` (R267). Acts as a release then an acquire and joins the total fence order. -/
def planFenceAr (l : BitVec 3) : Plan :=
  fencePlan l true true false

def execFenceAr (l : BitVec 3) (s : State) : Answered := issuePlain (planFenceAr l) s

/-- `FENCE_Q` (R267). Waits for the team's queued commands, then acts as a release fence. -/
def planFenceQ (l : BitVec 3) : Plan :=
  fencePlan l true false true

def execFenceQ (l : BitVec 3) (s : State) : Answered := issuePlain (planFenceQ l) s

end Sys2Proof.Machine
end

