-- ==== Sys2Proof/Machine/Fabric.lean ====
section
/-! DEFINITION. What holders, mirrors and requesting dies do with packets on the fabric: arrival, checks, performance, answers and NAKs
(spec/12 R222 to R240; spec/11 R201, R208, R211, R212), window requests at their port (spec/08 R156), and values landing in registers
(spec/04 R78). -/

namespace Sys2Proof.Machine

/-! ## Failing lines and violations (R301, R305, R337) -/

/-- The channel of a pier's data offset (R338). -/
def channelOf (off : Nat) : Nat := off / 0xF0000000

/-- One line's tag failure: its record, and its owner world enters ERROR. The spec does not say which port of an abutment serves an
offset: it is a free value (notes/assumptions/26.md). -/
def State.tagFailed (s : State) (h off : Nat) : State :=
  let w := s.ownerOf h off
  let s := if h < 16 then s.logPier (h - 8) false 0x20 (channelOf off) w 9 (off / 64)
    else { s with free := s.free + 1 }.logAbut (h - 16) 0x20 ((Config.freeWord s.free).toNat % 8) w 10 (off / 64)
  s.worldError w

/-- What the package does at the end of a step: with the tag failures and violations noted in it, and with acknowledgements that nothing holds
back any more. -/
def State.settle (s : State) : State :=
  let tags := s.tagFails
  let bad := s.badWorlds
  let s := tags.foldl (fun s t => s.tagFailed t.1 t.2) { s with tagFails := [], badWorlds := [] }
  let s := bad.foldl (fun s w => s.worldError w) s
  (s.nodes.filter (fun n => !n.2.heldAcks.isEmpty)).foldl (fun s n => s.flushHeld n.1) s

/-! ## ARR (R228, R229) -/

/-- Key of ARR(s, p) at a holder. -/
def arrKey (src path : Nat) : Nat := src * 4 + path

/-- Positions counted above the mark move it up while they follow on; fuel is their number. -/
def Holder.raise (key : Nat) : Nat → Holder → Holder
  | 0, x => x
  | n + 1, x =>
    let next := tget 0 x.arr key + 1
    if x.seen.contains (key, next) then
      Holder.raise key n { x with arr := tset 0 x.arr key next, seen := x.seen.filter (fun y => y != (key, next)) }
    else x

/-- Count a position of a source and path, once. -/
def Holder.count (x : Holder) (src path : Nat) (pos : BitVec 16) : Holder :=
  let key := arrKey src path
  let d := (pos - tget 0 x.arr key).toNat
  if d = 0 ∨ 32768 < d ∨ x.seen.contains (key, pos) then x
  else
    let x := { x with seen := x.seen ++ [(key, pos)] }
    Holder.raise key x.seen.length x

/-- ARR(s, p). -/
def Holder.arrived (x : Holder) (src path : Nat) : BitVec 16 :=
  tget 0 x.arr (arrKey src path) + BitVec.ofNat 16 (x.seen.filter (fun y => y.1 == arrKey src path)).length

/-- The holder has disposed of a packet. -/
def State.dispose (s : State) (p : Packet) : State :=
  if p.kind.writes then s.modHolder p.holder (fun x => x.count p.src p.path p.pos) else s

/-- The counts a release carries have been reached (R229 step 3). -/
def State.reached (s : State) (p : Packet) : Bool :=
  match p.carried with
  | none => true
  | some cs => (List.range 4).all (fun i => decide (((s.holder p.holder).arrived p.src i - cs.getD i 0).toNat ≤ 32767))

/-- The holder marks a source (R229). -/
def State.markSrc (s : State) (h src : Nat) : State :=
  s.modHolder h (fun x => { x with marks := if x.marks.contains src then x.marks else src :: x.marks })

/-! ## Answers -/

/-- Answer a packet; a silent die takes no answer (R239). -/
def State.answer (s : State) (p : Packet) (a : Answer) : State :=
  let (id, s) := s.fresh
  { s with pkts := s.pkts.filter (fun x => x.id != p.id)
           replies := if (s.die p.src).silent then s.replies else s.replies ++ [{ id := id, pkt := p, ans := a }] }

/-- NAK a packet: a write so refused is counted, and its source marked (R228, R229). -/
def State.nak (s : State) (p : Packet) (a : Answer) : State :=
  let s := if p.kind.writes then (s.dispose p).markSrc p.holder p.src else s
  s.answer p a

def Answer.isNak : Answer → Bool
  | .nakFrozen => true
  | .nakMoved _ => true
  | .nakReorder => true
  | _ => false

/-! ## Performing (R224, R236 to R238) -/

/-- Bytes of one lane's access. -/
def Packet.laneSize (p : Packet) : Nat := match p.kind with | .vatomic _ => 4 | _ => p.size

/-- Where the holder maps one lane's access. -/
def State.laneOff (s : State) (p : Packet) (r : LaneReq) : Nat :=
  match s.mapAt p.holder p.world r.pa with
  | some (_, off) => off
  | none => 0

/-- The word that four bytes make. -/
def valOf (bs : List PByte) : Val := match leNat bs with | some n => .word (BitVec.ofNat 32 n) | none => .poison

/-- The new word of an atomic (R236, R237): of the old word, x, and for `cas` the new word y. -/
def atomNew (fn : Nat) (old x y : Val) : Val :=
  match x, old with
  | .poison, _ => .poison
  | .word x, .poison => if fn = 8 then .word x else .poison
  | .word x, .word o =>
    match fn with
    | 0 => .word (o + x)
    | 1 => .word (o &&& x)
    | 2 => .word (o ||| x)
    | 3 => .word (o ^^^ x)
    | 4 => .word (if x.slt o then x else o)
    | 5 => .word (if o.slt x then x else o)
    | 6 => .word (if x.ult o then x else o)
    | 7 => .word (if o.ult x then x else o)
    | 8 => .word x
    | 9 => match y with
      | .poison => .poison
      | .word y => .word (if o = x then y else o)
    | _ => .word (BitVec.ofNat 32 (fp32.addV 0 (fp32.val o.toNat) (fp32.val x.toNat)).1)

/-- The new word of a vector atomic (R238). -/
def vatNew (isBf : Bool) (old x : Val) : Val :=
  match old, x with
  | .word o, .word x =>
    if isBf then
      let h := fun (i : Nat) => (bf16.addV 0 (bf16.val (o.toNat / 2 ^ (16 * i) % 65536)) (bf16.val (x.toNat / 2 ^ (16 * i) % 65536))).1
      .word (BitVec.ofNat 32 (h 0 + 65536 * h 1))
    else .word (BitVec.ofNat 32 (fp32.addV 0 (fp32.val o.toNat) (fp32.val x.toNat)).1)
  | _, _ => .poison

/-- The bytes of a word from an offset. -/
def wordBytes (off : Nat) (v : Val) : List (Nat × PByte) := ((List.range 4).map (off + ·)).zip (bytesOf 4 [v])

/-- One lane of an atomic or vector atomic: the word rewritten, and its old bytes. -/
def State.atomLane (s : State) (h off : Nat) (new : Val → Val) : State × List PByte :=
  let old := s.bytesAt h off 4
  (s.putBytes h (wordBytes off (new (valOf old))), old)

/-- Perform a packet's lanes in ascending order: the memory after it and what is returned. -/
def State.perform (s : State) (p : Packet) : State × List (Nat × List PByte) :=
  let h := p.holder
  let write := fun (s : State) =>
    (s.putBytes h (mergeBytes (p.lanes.flatMap (fun r => ((List.range r.data.length).map (s.laneOff p r + ·)).zip r.data))), [])
  let each := fun (new : LaneReq → Val → Val) =>
    p.lanes.foldl (fun (acc : State × List (Nat × List PByte)) r =>
      let x := acc.1.atomLane h (s.laneOff p r) (new r)
      (x.1, acc.2 ++ [(r.lane, x.2)])) (s, [])
  match p.kind with
  | .load => (s, p.lanes.map (fun r => (r.lane, s.bytesAt h (s.laneOff p r) p.size)))
  | .acquire => (s, p.lanes.map (fun r => (r.lane, s.bytesAt h (s.laneOff p r) p.size)))
  | .store => write s
  | .relaxed => write s
  | .release => write s
  | .atomic fn => each (fun r old => atomNew fn old (valOf (r.data.take 4)) (valOf (r.data.drop 4)))
  | .vatomic b => each (fun r old => vatNew b old (valOf r.data))

/-- The kind of an access as a watch records it (R309). -/
def ReqKind.watch : ReqKind → Nat
  | .load => 0
  | .acquire => 0
  | .atomic _ => 2
  | .vatomic _ => 2
  | _ => 1

/-- Every lane's access is seen by the watches of its pier. -/
def State.watchLanes (s : State) (p : Packet) : State :=
  p.lanes.foldl (fun s r => s.watched p.holder p.world r.pa p.kind.watch p.src p.laneSize) s

/-- Perform, count and answer. -/
def State.finishPerform (s : State) (p : Packet) (bad : Bool) : State :=
  let (s1, data) := s.perform p
  let s2 := if p.kind.writes then s1.markLines p.holder (p.lanes.map (s.laneOff p)) else s1
  ((s2.watchLanes p).dispose p).answer p (if bad && p.kind.writes then .poisoned else .done data)

/-! ## Mirrors (R208) -/

/-- The 16-byte granules of a packet at its holder. -/
def State.granules (s : State) (p : Packet) : List Nat := distinct (p.lanes.map (fun r => s.laneOff p r / 16))

/-- A packet waits at its holder: at a home behind a write whose prepares are out, at a mirror behind a prepare. -/
def State.lockedAt (s : State) (p : Packet) : Bool :=
  let gs := s.granules p
  s.mirrors.any (fun m => m.home == p.holder && (s.granules m.pkt).any gs.contains)
  || (!p.kind.writes && s.prepared.any (fun x => x.mirror == p.holder && x.cells.any (fun c => gs.contains (c.1 / 16))))

/-- The mirrors of a packet's bytes that are not silent. -/
def State.membersOf (s : State) (p : Packet) : List Nat :=
  distinct ((p.lanes.flatMap (fun r => (s.mirrorsAt p.holder p.world r.pa).map Prod.fst)).filter (fun m => !s.holderSilent m))

/-- What a mirror is to write, from the state after the write: its own offsets and bytes. -/
def State.forwardCells (s after : State) (p : Packet) (m : Nat) : List (Nat × PByte) :=
  p.lanes.flatMap (fun r => (s.mirrorsAt p.holder p.world r.pa).flatMap (fun x =>
    if x.1 = m then ((List.range p.laneSize).map (x.2.1 + ·)).zip (after.bytesAt p.holder (s.laneOff p r) p.laneSize) else []))

/-- The accesses of a forward, each in the world of its MIRROR entry (R298). -/
def State.forwardAccs (s : State) (p : Packet) (m : Nat) : List (Nat × Nat × Nat) :=
  p.lanes.flatMap (fun r => ((s.mirrorsAt p.holder p.world r.pa).filter (fun x => x.1 == m)).map (fun x => (r.pa, p.laneSize, x.2.2)))

/-- The home sends its prepares and holds the write. -/
def State.sendPrepares (s : State) (p : Packet) (bad : Bool) (ms : List Nat) : State :=
  let after := (s.perform p).1
  let (wid, s1) := s.fresh
  let s1 := { s1 with pkts := s1.pkts.filter (fun x => x.id != p.id)
                      mirrors := s1.mirrors ++ [{ id := wid, pkt := p, home := p.holder, members := ms, waiting := ms, bad := bad }] }
  ms.foldl (fun s2 m =>
    let (id, s2) := s2.fresh
    { s2 with prepares := s2.prepares ++ [{ id := id, write := wid, mirror := m, home := p.holder
                                            cells := s.forwardCells after p m, accs := s.forwardAccs p m }] }) s1

/-- Every mirror has acknowledged: the home performs, acknowledges and sends the commit to the members of the prepare. -/
def State.finishMirror (s : State) (w : MirrorWrite) : State :=
  let s := ({ s with mirrors := s.mirrors.filter (fun x => x.id != w.id) }).finishPerform w.pkt w.bad
  (w.members.filter (fun m => !s.holderSilent m)).foldl (fun s m =>
    let (id, s) := s.fresh
    { s with commits := s.commits ++ [{ id := id, write := w.id, mirror := m, home := w.home, cells := [], accs := [] }] }) s

/-- The bytes of a forward that its worlds may write at the mirror: the holder refuses the others (R299). That a refused byte is left out and
the prepare acknowledged is the model's (DEDUCED, notes/assumptions/67.md). -/
def State.allowed (s : State) (m : MirrorMsg) : List (Nat × PByte) :=
  m.cells.filter (fun c => let w := s.ownerOf m.mirror c.1; w == 0 || m.accs.any (fun a => a.2.2 == w))

/-- A class 1 forward, or its answer in class 2, between two holders waits while a link on the fixed route stops its class (R230). -/
def State.forwardStopped (s : State) (a b cls : Nat) : Bool := s.stopsClass (linkWays a (holderLinks a b)) cls

/-- `MIRROR_PREPARE_RECEIVE`: the mirror records the bytes and acknowledges. -/
def State.prepareReceive (s : State) (id : Nat) : State :=
  match s.prepares.find? (fun m => m.id == id) with
  | none => s
  | some m =>
    if s.forwardStopped m.home m.mirror 1 then s
    else
    let s := { s with prepares := s.prepares.filter (fun x => x.id != id) }
    if s.holderSilent m.mirror then s
    else
      let (n, s) := s.fresh
      { s with prepared := s.prepared ++ [{ write := m.write, mirror := m.mirror, home := m.home, cells := s.allowed m, accs := m.accs }]
               prepAcks := s.prepAcks ++ [{ m with id := n }] }

def execMirrorPrepareReceive (id : Nat) (s : State) : Answered := .next (s.prepareReceive id)

/-- A mirror's acknowledgement counts, a silent mirror's too. -/
def State.mirrorAcked (s : State) (write mirror : Nat) : State :=
  match s.mirrors.find? (fun w => w.id == write) with
  | none => s
  | some w =>
    let w := { w with waiting := w.waiting.filter (· != mirror) }
    let s := { s with mirrors := s.mirrors.map (fun x => if x.id == w.id then w else x) }
    if w.waiting.isEmpty then s.finishMirror w else s

/-- `PREPARE_ACK_RECEIVE`. -/
def State.prepareAckReceive (s : State) (id : Nat) : State :=
  match s.prepAcks.find? (fun m => m.id == id) with
  | none => s
  | some m =>
    if s.forwardStopped m.mirror m.home 2 then s else ({ s with prepAcks := s.prepAcks.filter (fun x => x.id != id) }).mirrorAcked m.write m.mirror

def execPrepareAckReceive (id : Nat) (s : State) : Answered := .next (s.prepareAckReceive id)

/-- `MIRROR_COMMIT_RECEIVE`: the mirror writes what it recorded; a forward counts as a write in its watches (R309). -/
def State.commitReceive (s : State) (id : Nat) : State :=
  match s.commits.find? (fun m => m.id == id) with
  | none => s
  | some m =>
    if s.forwardStopped m.home m.mirror 1 then s
    else
    let s := { s with commits := s.commits.filter (fun x => x.id != id) }
    match s.prepared.find? (fun x => x.write == m.write && x.mirror == m.mirror) with
    | none => s
    | some x =>
      let s := { s with prepared := s.prepared.filter (fun y => !(y.write == m.write && y.mirror == m.mirror)) }
      let s := s.putBytes m.mirror x.cells
      let s := x.accs.foldl (fun s a => s.watched m.mirror a.2.2 a.1 1 m.home a.2.1) s
      s.flushHeld (s.sideNode m.home)

def execMirrorCommitReceive (id : Nat) (s : State) : Answered := .next (s.commitReceive id)

/-! ## Arrival (R201, R223, R226) -/

/-- Another request of the team to this holder, issued earlier on the ordered path, has not been performed: of an earlier instruction, or of
an earlier pass of its own (R226, R236). -/
def State.blocked (s : State) (p : Packet) : Bool :=
  let ahead := fun (q : Packet) => q.team == p.team && q.holder == p.holder && q.ordered
    && (decide (q.op < p.op) || (q.op == p.op && decide (q.pass < p.pass)))
  p.ordered && (s.pkts.any ahead || s.replies.any (fun r => r.ans.isNak && ahead r.pkt) || s.mirrors.any (fun m => ahead m.pkt))

/-- Packets sent earlier on the same path stay in front (R230). -/
def State.inFront (s : State) (p : Packet) : Bool :=
  (s.pkts.takeWhile (fun q => q.id != p.id)).any (fun q =>
    !q.unsent && !q.held && q.src == p.src && q.holder == p.holder && q.path == p.path && !s.blocked q)

/-- The transfer that covers a lane's access at its old home. -/
def State.laneTransfer (s : State) (p : Packet) (r : LaneReq) : Option Transfer :=
  match s.mapAt p.holder p.world r.pa with
  | none => none
  | some (a, _) => s.transfers.find? (fun t => t.old == p.holder && a.kind == AnnKind.home && t.base == a.base && t.len == a.len && t.world == a.world)

/-- The HOME that a "moved" answer names (R211 step 5). -/
def Transfer.newHome (t : Transfer) : Ann :=
  { base := t.base, len := t.len, holder := t.new, localBase := t.newBase, kind := .home, gen := t.gen + 1, world := t.world, noPoison := t.noPoison }

/-- The cause for which the holder refuses a lane's access: no mapping (R201), beyond its capacity (R19), owned by another world
(R299). -/
def State.laneRefusal (s : State) (p : Packet) (r : LaneReq) : Option (BitVec 8) :=
  match s.mapAt p.holder p.world r.pa with
  | none => some 0x0A
  | some (_, off) =>
    if capacity p.holder ≤ off then some 0x09
    else if s.ownerOf p.holder off ≠ p.world ∧ s.ownerOf p.holder off ≠ 0 then some 0x0C
    else none

/-- The first refusal of a packet's lanes. -/
def State.refusal (s : State) (p : Packet) : Option (BitVec 8) := (p.lanes.filterMap (s.laneRefusal p)).head?

/-- Lines of a packet that fail to verify and are read, or written in part. -/
def State.badLines (s : State) (p : Packet) : List Nat :=
  let offs := p.lanes.map (s.laneOff p)
  (distinct (offs.map (fun o => o / 128 * 128))).filter (fun l =>
    !s.lineOk p.holder l
    && (!p.kind.writes || (distinct ((p.lanes.filter (fun r => s.laneOff p r / 128 * 128 == l)).flatMap (fun r =>
          (List.range p.laneSize).map (s.laneOff p r + ·)))).length != 128
        || (match p.kind with | .atomic _ => true | .vatomic _ => true | _ => false)))

/-- What the DRAM does with an access (R339): up to three failed transfers are retried, a cell error is corrected (1) or makes its
chunk poison (2). The second part says that the request is answered with poison. -/
def State.dramErrors (s : State) (p : Packet) (xferFails : Nat) (cell : BitVec 2) : State × Bool :=
  if p.holder < 8 ∨ 16 ≤ p.holder then (s, false)
  else
    let off := match p.lanes with | r :: _ => s.laneOff p r | [] => 0
    let log := fun (s : State) (x : Bool) (kind : BitVec 8) => s.logPier (p.holder - 8) x kind (channelOf off) (s.ownerOf p.holder off) 9 (off / 64)
    let s := if xferFails = 0 then s else log s true 0x18
    if cell = 1 then (log s false 0x10, false)
    else if cell = 0 then (s, false)
    else
      let s := log s false 0x11
      ({ s with mem := { s.mem with poison := tset false s.mem.poison (granuleBase p.holder off) true } }, true)

/-- A fourth failed transfer: the channel fails, and what the pier holds for it is answered with poison (R340). -/
def State.channelFails (s : State) (p : Packet) : State :=
  let off := match p.lanes with | r :: _ => s.laneOff p r | [] => 0
  let s := s.logPier (p.holder - 8) true 0x19 (channelOf off) (s.ownerOf p.holder off) 9 (off / 64)
  ((s.dispose p).failChannel (p.holder - 8) (channelOf off)).answer p .poisoned

/-- A packet that has passed every check is performed, by way of the mirrors when it writes a mirrored range. -/
def State.performArrived (s : State) (p : Packet) (xferFails : Nat) (cell : BitVec 2) : State :=
  if p.lanes.any (fun r => s.chanFailed p.holder (s.laneOff p r)) then (s.dispose p).answer p .poisoned
  else if 4 ≤ xferFails ∧ 8 ≤ p.holder ∧ p.holder < 16 then s.channelFails p
  else
    let s := (s.badLines p).foldl (fun s l => s.noteTag p.holder l) s
    let (s, bad) := s.dramErrors p xferFails cell
    let ms := if p.kind.writes then s.membersOf p else []
    if ms.isEmpty then s.finishPerform p bad else s.sendPrepares p bad ms

/-- A packet for a die that only one of its attach piers has fenced so far, over that pier (R239). -/
def State.fencedWay (s : State) (p : Packet) : Bool :=
  decide (p.holder < 8) && p.src != p.holder && (s.die p.holder).declared.isSome
  && (s.die p.holder).declared == (pathPiers p.src p.holder p.path).getLast?

/-- A packet at its holder: silence (R240), a moved range, the checks of every lane, a frozen range (R211), the waits of R208, the
counts of an OF release (R229), and performance. -/
def State.arriveAt (s : State) (p : Packet) (xferFails : Nat) (cell : BitVec 2) : State :=
  if s.holderSilent p.holder || s.fencedWay p then s.answer p .poisoned
  else if 8 ≤ p.holder ∧ p.holder < 16 ∧ (s.pier (p.holder - 8)).fenced then s
  else
    let ts := p.lanes.filterMap (s.laneTransfer p)
    match ts.find? (fun t => decide (5 ≤ t.step)) with
    | some t => s.nak p (.nakMoved t.newHome)
    | none =>
      match s.refusal p with
      | some c =>
        let s := if c = 0x0C ∧ p.world ≠ 0 then { s with badWorlds := p.world :: s.badWorlds } else s
        (s.dispose p).answer p (.refused c)
      | none =>
        if p.kind.writes && ts.any (fun t => decide (3 ≤ t.step)) then s.nak p .nakFrozen
        else if s.lockedAt p then s
        else if !s.reached p then { s with pkts := s.pkts.map (fun x => if x.id == p.id then { x with held := true } else x) }
        else if p.carried.isSome && (s.holder p.holder).marks.contains p.src then
          ((s.modHolder p.holder (fun x => { x with marks := x.marks.filter (· != p.src) })).dispose p).answer p .nakReorder
        else s.performArrived p xferFails cell

/-- A packet that reaches its holder has left its die's egress queue (R343). -/
def State.leftQueue (s : State) (p : Packet) : State :=
  s.modDie p.src (fun d => { d with egress := d.egress.map (fun x => if x.pkt == p.id then { x with left := true } else x) })

/-- A way from a die to a holder, or back, is stopped for a class by a link on it (R230): what has not crossed that link waits. That it waits
though it may have crossed is the model's (DEDUCED, notes/assumptions/21.md). -/
def State.stopped (s : State) (src h p cls : Nat) (back : Bool) : Bool :=
  src != h && s.stopsClass ((linkWays src (pathLinks src h p)).map (fun w => (w.1, w.2 != back))) cls

/-- `REQUEST_ARRIVE`. A packet the die still holds back is sent if it may be; one at its turn arrives. -/
def State.requestArrive (s : State) (id xferFails : Nat) (cell : BitVec 2) : State :=
  match s.pkts.find? (fun p => p.id == id) with
  | none => s
  | some p =>
    if p.unsent then
      if s.maySend p then
        let (s, q) := s.sendPacket p
        { s with pkts := s.pkts.filter (fun x => x.id != id) ++ [q] }
      else s
    else if p.held || s.blocked p || s.inFront p || s.replays p.src p.holder p.path false || s.stopped p.src p.holder p.path 0 false then s
    else (s.leftQueue p).arriveAt p xferFails cell

def execRequestArrive (id xferFails : Nat) (cell : BitVec 2) (s : State) : Answered := .next (s.requestArrive id xferFails cell)

/-- `OF_RELEASE_PERFORM` (R229 steps 3 and 4): a held release whose counts are reached. -/
def State.ofPerform (s : State) (id : Nat) : State :=
  match s.pkts.find? (fun p => p.id == id) with
  | none => s
  | some p => if p.held && s.reached p && !s.blocked p then s.arriveAt { p with held := false } 0 0 else s

def execOfReleasePerform (id : Nat) (s : State) : Answered := .next (s.ofPerform id)

/-- `VOID_NOTICE_RECEIVE` (R360): the holder counts the position as a NAKed packet's and marks the source. -/
def State.voidReceive (s : State) (id : Nat) : State :=
  match s.notices.find? (fun n => n.1 == id) with
  | some (_, .void h src path pos) =>
    (({ s with notices := s.notices.filter (fun n => n.1 != id) }).modHolder h (fun x => x.count src path pos)).markSrc h src
  | _ => s

def execVoidNoticeReceive (id : Nat) (s : State) : Answered := .next (s.voidReceive id)

/-! ## Back at the requester (R212, R223, R240) -/

/-- Replies of one holder to one die on one path come in order, none while a link on it has stopped class 2 (R230) or replays (R231). -/
def State.replyFirst (s : State) (r : Reply) : Bool :=
  !s.replays r.pkt.src r.pkt.holder r.pkt.path true && !s.stopped r.pkt.src r.pkt.holder r.pkt.path 2 true && !(s.replies.takeWhile (fun x => x.id != r.id)).any (fun x =>
    x.pkt.src == r.pkt.src && x.pkt.holder == r.pkt.holder && x.pkt.path == r.pkt.path)

/-- What came for one pass of a load. -/
def Gather.take (g : Gather) (p : Packet) (data : List (Nat × List PByte)) : Gather :=
  if g.pkts.contains p.id then
    { g with pkts := g.pkts.filter (· != p.id), got := g.got ++ data
             poisonFrom := if data.any (fun d => d.2.any Option.isNone) then some p.holder else g.poisonFrom }
  else g

/-- The values a complete pass lands with. -/
def Gather.writes (g : Gather) : List (Owed × UnitVal) :=
  g.got.flatMap (fun d => landWrites g.dest g.size g.signed d.1 d.2)

/-- A packet of an instruction is answered: passes whose lines have all come are on their way to the registers (R224). -/
def State.finishPacket (s : State) (p : Packet) (data : List (Nat × List PByte)) : State :=
  match s.op? p.op with
  | none => s
  | some o =>
    let gs := o.gathers.map (fun g => g.take p data)
    let s := (gs.filter (fun g => g.pkts.isEmpty)).foldl (fun s g =>
      if g.dest.isEmpty then s else s.addLanding p.op p.team g.writes (g.poisonFrom.map (BitVec.ofNat 8))) s
    s.modOp p.op (fun o => { o with outs := o.outs.filter (fun x => x.pkt != p.id), gathers := gs.filter (fun g => !g.pkts.isEmpty) })

/-- Poison for every lane of a packet. -/
def Packet.poison (p : Packet) : List (Nat × List PByte) := p.lanes.map (fun r => (r.lane, List.replicate p.laneSize none))

/-- A refused packet (R223): poison for what it was to load, and a trap at the team's next issue. -/
def State.refused (s : State) (p : Packet) (c : BitVec 8) : State :=
  ((s.finishPacket p p.poison).lateTrap p.team p.hdrVA { cause := c }).flushHeld p.src

/-- `REPLY_RECEIVE`. A poisoned completion of a write sets the crew's store-poison flag (R246). -/
def State.replyReceive (s : State) (id : Nat) : State :=
  match s.replies.find? (fun r => r.id == id) with
  | none => s
  | some r =>
    if !s.replyFirst r || r.ans.isNak then s
    else
      let p := r.pkt
      let s := { s with replies := s.replies.filter (fun x => x.id != id) }
      match r.ans with
      | .done data => (s.finishPacket p data).flushHeld p.src
      | .refused c => s.refused p c
      | _ =>
        let s := if p.kind.writes then s.modCrew p.crew (fun k => { k with storePoison := true }) else s
        (s.finishPacket p p.poison).flushHeld p.src

def execReplyReceive (id : Nat) (s : State) : Answered := .next (s.replyReceive id)

/-- A packet as it is sent again: a release that carried counts goes without the flag, after the wait of R228. -/
def State.resent (s : State) (p : Packet) : Packet :=
  { p with held := false, carried := none, ofFlag := false, unsent := true
           after := if p.ofFlag then (s.earlier p.team).filter (fun id => decide (id < p.op)) else p.after }

/-- Send a NAKed packet again to its holder, on a path in use; with none left it ends as R225 says. -/
def State.resend (s : State) (p : Packet) : State :=
  match s.pickPath p.src p.holder p.ordered with
  | none => s.refused p 0x0A
  | some path =>
    let p := { s.resent p with path := path }
    let (s, p) := if s.maySend p then s.sendPacket p else (s, p)
    { s with pkts := s.pkts ++ [p] }

/-- The lanes of a packet by the entry that R206 now chooses; none when a lane has none. -/
def State.rechoose (s : State) (p : Packet) : Option (List (Ann × List LaneReq)) :=
  let homeOnly := p.kind != ReqKind.load
  p.lanes.foldl (fun acc r =>
    match acc, s.choose p.src p.src p.world homeOnly r.pa with
    | some gs, some a =>
      if gs.any (fun g => g.1.holder == a.holder) then
        some (gs.map (fun g => if g.1.holder == a.holder then (g.1, g.2 ++ [r]) else g))
      else some (gs ++ [(a, [r])])
    | _, _ => none) (some [])

/-- The packets a moved one becomes: one for each holder now chosen, the first under its old number. -/
def State.splitMoved (s : State) (p : Packet) : List (Ann × List LaneReq) → State × List Packet
  | [] => (s, [])
  | (a, ls) :: rest =>
    let (id, s) := if ls.head? == p.lanes.head? then (p.id, s) else s.fresh
    let q := { p with id := id, holder := a.holder, lanes := ls
                      stamp := { base := a.base, len := a.len, holder := a.holder, world := a.world, gen := a.gen } }
    let (s, qs) := s.splitMoved p rest
    (s, q :: qs)

/-- "Moved" (R212): the die installs the HOME it names and sends the packet again. -/
def State.resendMoved (s : State) (p : Packet) (a : Ann) : State :=
  let newer := match (s.node p.src).table.find? (fun e => e.sameKey a) with
    | some e => newerGen a.gen e.gen
    | none => true
  let s := if newer then s.modNode p.src (fun x => x.install a) else s
  match s.rechoose p with
  | none => s.refused p 0x0A
  | some gs =>
    let (s, qs) := s.splitMoved p gs
    let s := s.modOp p.op (fun o =>
      { o with outs := o.outs.filter (fun x => x.pkt != p.id) ++ qs.map Packet.out
               gathers := o.gathers.map (fun g => if g.pkts.contains p.id then { g with pkts := g.pkts.filter (· != p.id) ++ qs.map Packet.id } else g) })
    (qs.foldl (fun s q => s.resend q) s).flushHeld p.src

/-- `NAK_RECEIVE` (R212): the 64th NAK of one request ends its retries. -/
def State.nakReceive (s : State) (id : Nat) : State :=
  match s.replies.find? (fun r => r.id == id) with
  | none => s
  | some r =>
    if !s.replyFirst r || !r.ans.isNak then s
    else
      let p := { r.pkt with naks := r.pkt.naks + 1 }
      let s := { s with replies := s.replies.filter (fun x => x.id != id) }
      if 64 ≤ p.naks then s.refused p 0x0A
      else match r.ans with
        | .nakMoved a => s.resendMoved p a
        | _ => s.resend p

def execNakReceive (id : Nat) (s : State) : Answered := .next (s.nakReceive id)

/-! ## Landing (R78, R134, R245) -/

/-- A write that lands brings poison into a register. -/
def Team.landsPoison (t : Team) (ws : List (Owed × UnitVal)) : Bool := anyPoison (ws.filter (fun w => t.gen w.1.unit == w.1.gen))

/-- `LANDING`: each value is written if its generation is still the unit's, and goes to every entry that awaits it. -/
def State.landing (s : State) (id : Nat) : State :=
  match s.lands.find? (fun l => l.id == id) with
  | none => s
  | some l =>
    let s := { s with lands := s.lands.filter (fun x => x.id != id) }
    let s := s.modTeam l.team (fun t =>
      let t1 := l.writes.foldl (fun t w => (t.land w.1 w.2).deliver w.1 w.2) t
      match l.holder with
      | some h => if t.landsPoison l.writes then { t1 with poisonHolder := h } else t1
      | none => t1)
    s.modOp l.op (fun o => { o with owed := o.owed.filter (fun w => !(l.writes.any (fun x => x.1 == w))) })

def execLanding (id : Nat) (s : State) : Answered := .next (s.landing id)

/-! ## The quad window at its target port (R156) -/

/-- The crew that a window request reaches, or the trap it fails with; the fault VA of check 4 is the scratchpad address (R148, R156). -/
def State.windowTarget (s : State) (r : WinReq) : Except Trap (Nat × Crew) :=
  match s.ticketCrew (r.core / 144) (r.core % 144) r.ticket with
  | none => .error { cause := 0x0B }
  | some (cid, k) => match r.lanes.find? (fun l => k.spadBad l.pa r.size) with
    | some l => .error { cause := 0x09, va := some (BitVec.ofNat 64 l.pa) }
    | none => .ok (cid, k)

/-- `WINDOW_REQUEST_ARRIVE`: requests of a team to one port come in order (R153). -/
def State.windowArrive (s : State) (id : Nat) : State :=
  match s.wins.find? (fun r => r.id == id) with
  | none => s
  | some r =>
    if (s.wins.takeWhile (fun x => x.id != id)).any (fun x => x.team == r.team && x.core == r.core) then s
    else
      let s := { s with wins := s.wins.filter (fun x => x.id != id) }
      let land := fun (s : State) (bytes : LaneReq → List PByte) =>
        let ws := r.lanes.flatMap (fun l => landWrites r.dest r.size r.signed l.lane (bytes l))
        if r.dest.isEmpty then s else s.addLanding r.op r.team ws (if anyPoison ws then some 0xFF else none)
      let s := match s.windowTarget r with
        | .error tr => (land s (fun _ => List.replicate r.size none)).lateTrap r.team r.hdrVA tr
        | .ok (cid, k) =>
          if r.write then s.modCrew cid (fun k => k.spadPut (storedBytes r.lanes))
          else land s (fun l => k.spadBytes l.pa r.size)
      s.modOp r.op (fun o => { o with parts := o.parts - 1 })

def execWindowRequestArrive (id : Nat) (s : State) : Answered := .next (s.windowArrive id)

end Sys2Proof.Machine
end

