-- ==== Sys2Proof/Machine/Links.lean ====
section
/-! DEFINITION. Links and what happens when they or their ends fail: flits and replay (spec/12 R231), flow control (R230), a failed link
(R360), the silence of dies and piers (R239 to R243), and the transfers and announcements it ends (spec/11 R212, R215). -/

namespace Sys2Proof.Machine

/-! ## Ends of links -/

/-- The count of a link's end: of a die, a pier or an abutment (R10, R22). -/
def State.endDcc (s : State) (n : Nat) : BitVec 64 := if n < 16 then s.nodeDcc n else s.abutDcc (n - 16)

/-- The node that sends, and the one that receives, in a direction. -/
def linkSender (l : Nat) (toB : Bool) : Nat := if toB then (linkEnds l).1 else (linkEnds l).2
def linkReceiver (l : Nat) (toB : Bool) : Nat := if toB then (linkEnds l).2 else (linkEnds l).1

/-- The path of a packet crosses a link. -/
def Packet.crosses (p : Packet) (l : Nat) : Bool := p.src != p.holder && (pathLinks p.src p.holder p.path).contains l

/-! ## Packets that a failed link leaves behind (R360, R240) -/

/-- A request that will never be sent on: its requester gets the poisoned reply of its kind, its holder a void notice for a write. -/
def State.voidPacket (s : State) (p : Packet) : State :=
  let s := if p.kind.writes && !s.holderSilent p.holder then
      let (id, s) := s.fresh
      { s with notices := s.notices ++ [(id, .void p.holder p.src p.path p.pos)] }
    else s
  s.answer p .poisoned

/-- What crosses a failed link: of the requests on their way and of the replies, those past a cut have not left its sender. Where
the cut lies is a free value (notes/assumptions/27.md); with `all` nothing has left. -/
def State.voidCrossing (s : State) (l : Nat) (all : Bool) : State :=
  let ps := s.pkts.filter (fun p => !p.unsent && !p.held && p.crosses l)
  let rs := s.replies.filter (fun r => r.pkt.crosses l)
  let cut := fun (n len : Nat) => if all then 0 else Config.linkCut n % (len + 1)
  let lostR := (rs.drop (cut (s.free + 1) rs.length)).map Reply.id
  let s1 := (ps.drop (cut s.free ps.length)).foldl (fun s p => s.voidPacket p) { s with free := s.free + 2 }
  { s1 with replies := s1.replies.map (fun r => if lostR.contains r.id then { r with ans := .poisoned } else r) }

/-- A link taken out of use. -/
def State.downLink (s : State) (l : Nat) (all : Bool) : State :=
  if (s.link l).failed then s else (s.modLink l (fun x => { x with failed := true })).voidCrossing l all

/-! ## What silence ends (R208, R211, R212, R241) -/

/-- A transfer whose old or new holder has fallen silent ends with status 0x07. Before step 5 the SNAP is withdrawn: by the new holder when the
old home fell silent (R241), else by the old home, which unfreezes (R212). -/
def State.endTransfer (s : State) (t : Transfer) (h : Nat) : State :=
  let early := decide (t.step < 5)
  let s := { s with campaigns := s.campaigns.filter (fun c => match c.purpose with
    | .hmoveSnap id => id != t.cmd
    | .hmoveHome id => id != t.cmd || t.new != h
    | _ => true) }
  let s := (s.dropTransfer t.cmd).endRoute t.cmd 0x07 0 (if early then t.gen else t.gen + 1)
  if early then (s.withdraw { t.newHome with kind := .snap, gen := t.gen } .plain (if h = t.old then t.new else t.old)).1 else s

/-- Announcements and withdrawals that a silent holder had under way; a command that waits for one ends with status 0x07. -/
def State.endCampaigns (s : State) (h : Nat) : State :=
  (s.campaigns.filter (fun c => c.ann.holder == h)).foldl (fun s c =>
    match c.purpose with
    | .silence _ => s
    | .cmd id => ({ s with campaigns := s.campaigns.filter (fun x => x.id != c.id) }).endRoute id 0x07 0 c.ann.gen
    | .undo id => ({ s with campaigns := s.campaigns.filter (fun x => x.id != c.id) }).endRoute id 0x07 0 c.ann.gen
    | _ => { s with campaigns := s.campaigns.filter (fun x => x.id != c.id) }) s

/-- What waits on a silent holder's memory or on its answer. -/
def State.silenceHolder (s : State) (h : Nat) : State :=
  let s := { s with pkts := s.pkts.map (fun (p : Packet) => if p.holder == h then { p with held := false } else p)
                    prepares := s.prepares.filter (fun m => m.mirror != h), prepAcks := s.prepAcks.filter (fun m => m.home != h)
                    commits := s.commits.filter (fun m => m.mirror != h), prepared := s.prepared.filter (fun x => x.mirror != h)
                    chanJobs := s.chanJobs.filter (fun j => 8 + j.pier != h) }
  let s := (s.mirrors.filter (fun w => w.home == h)).foldl (fun s w =>
    ({ s with mirrors := s.mirrors.filter (fun x => x.id != w.id) }).answer w.pkt .poisoned) s
  let s := (s.mirrors.filter (fun w => w.waiting.contains h)).foldl (fun s w => s.mirrorAcked w.id h) s
  let s := (s.transfers.filter (fun t => t.old == h || t.new == h)).foldl (fun s t => s.endTransfer t h) s
  (s.endCampaigns h).checkCampaigns

/-- A silence notice to every node (R239). -/
def State.sendSilence (s : State) (subject : Nat) : State :=
  (List.range 16).foldl (fun s n =>
    let (id, s) := s.fresh
    { s with notices := s.notices ++ [(id, .silence n subject)] }) s

/-- The die stops: its teams issue nothing more, its queues and what it had under way are dropped. Of its requests, those still held
in an attach pier are discarded — how many is a free value (notes/assumptions/27.md). -/
def State.stopDie (s : State) (d : Nat) : State :=
  let mine := s.crewsWhere (fun k => k.die == d)
  let uids := s.teams.filterMap (fun t => match t.2 with | some x => if mine.contains x.crew then some t.1 else none | none => none)
  let s := uids.foldl (fun s u => s.modTeam u Team.stopForGood) s
  let sent := s.pkts.filter (fun p => p.src == d && !p.unsent && !p.held && p.holder != d)
  let keep := (sent.take (Config.linkCut s.free % (sent.length + 1))).map Packet.id
  { s with free := s.free + 1
           pkts := s.pkts.filter (fun p => p.src != d || p.held || keep.contains p.id)
           replies := s.replies.filter (fun r => r.pkt.src != d)
           ops := s.ops.filter (fun o => !uids.contains o.team), lands := s.lands.filter (fun l => !uids.contains l.team)
           wins := s.wins.filter (fun w => !uids.contains w.team), copies := s.copies.filter (fun c => !uids.contains c.team)
           net := { s.net with cmds := s.net.cmds.filter (fun c => !uids.contains c.team) } }

/-- Both attach piers have fenced a die: it takes no further part in the fabric (R239). -/
def State.fenceDie (s : State) (d : Nat) : State :=
  if (s.die d).silent then s
  else
    let s := s.modDie d (fun x => { x with silent := true, declared := none, routes := [], q8 := [] })
    ((s.stopDie d).silenceHolder d).voidDieBars d

/-- What a die has put on its span to the declaring pier is discarded there, but for what has left that pier — how much is a free value
(notes/assumptions/27.md). -/
def State.dropSpan (s : State) (d pier : Nat) : State :=
  let mine := s.pkts.filter (fun p => p.src == d && !p.unsent && !p.held && p.crosses (spanLink d pier))
  let lost := (mine.drop (Config.linkCut s.free % (mine.length + 1))).map Packet.id
  { s with free := s.free + 1, pkts := s.pkts.filter (fun p => !lost.contains p.id) }

/-- The other attach pier of a die. -/
def otherAttach (d p : Nat) : Nat := if attach d 0 = p then attach d 1 else attach d 0

/-- An attach pier declares a die silent (R239): it fences its own span and tells every node. The other attach pier acts when the notice
reaches it, or at once if it is out of service itself. -/
def State.declareDie (s : State) (d by_ : Nat) : State :=
  if (s.die d).silent ∨ (s.die d).declared.isSome then s.fenceDie d
  else
    let s := { (s.modDie d (fun x => { x with declared := some by_ })) with capDies := s.capDies &&& ~~~(1#8 <<< d) }
    let s := (s.sendSilence d).modPier by_ (fun x => { x with toWithdraw := x.toWithdraw ++ [d] })
    let s := s.dropSpan d by_
    if s.pierUp (otherAttach d by_) then s else s.fenceDie d

/-- A neighbour declares a pier silent (R243): the notice, the withdrawals at its next round, its links and its package barrier. -/
def State.declarePier (s : State) (k by_ : Nat) : State :=
  if (s.pier k).silent then s
  else
    let left := (s.pier k).toWithdraw
    let s := s.modPier k (fun x => { x with silent := true, toWithdraw := [], declared := some (by_, (s.pier by_).dcc) })
    let s := (s.sendSilence (8 + k)).modPier by_ (fun x => { x with toWithdraw := x.toWithdraw ++ [8 + k] ++ left })
    let links := ((pierNbrs k).map (pierLink k)) ++ [spanLink k k, spanLink ((k + 7) % 8) k, 28 + k]
    let s := links.foldl (fun s l => s.downLink l true) s
    let s := (s.silenceHolder (8 + k)).voidBar (barKey 4 0 k)
    ((List.range 8).filter (fun d => match (s.die d).declared with | some p => otherAttach d p == k | none => false)).foldl (fun s d => s.fenceDie d) s

/-! ## Links lost (R243) -/

/-- Two neighbours record the second lost link in one DCC cycle: the lower-numbered one declares (R243), so it makes the withdrawals that the
other was about to make. -/
def State.redeclare (s : State) (at_ subject : Nat) : State :=
  match (s.pier subject).declared with
  | some (by_, at_dcc) =>
    if at_ < by_ ∧ (s.pier by_).dcc = at_dcc then
      let left := (s.pier by_).toWithdraw
      let s := s.modPier by_ (fun x => { x with toWithdraw := [] })
      (s.modPier at_ (fun x => { x with toWithdraw := x.toWithdraw ++ left })).modPier subject (fun x => { x with declared := some (at_, (s.pier at_).dcc) })
    else s
  | none => s

/-- A pier records that a link of a pier is lost; the second one of three makes a neighbour declare that pier. -/
def State.recordLost (s : State) (at_ teller subject : Nat) : State :=
  if (s.pier at_).lost.contains (teller, subject) then s
  else
    let s := s.modPier at_ (fun x => { x with lost := x.lost ++ [(teller, subject)] })
    if (s.pier at_).silent then s
    else
      let s := if 2 ≤ ((s.pier at_).lost.filter (fun x => x.1 == at_)).length then s.modPier at_ (fun x => { x with fenced := true }) else s
      if 2 ≤ ((s.pier at_).lost.filter (fun x => x.2 == subject)).length ∧ (s.pier at_).fenced = false then
        if (s.pier subject).silent then s.redeclare at_ subject else s.declarePier subject at_
      else s

/-- Pier n marks its link to pier k lost, takes it out of use, and tells k's other neighbours. -/
def State.markLost (s : State) (n k : Nat) : State :=
  if (s.pier n).lost.contains (n, k) then s
  else
    let s := s.downLink (pierLink n k) false
    let s := ((pierNbrs k).filter (· != n)).foldl (fun s m =>
      let (id, s) := s.fresh
      { s with notices := s.notices ++ [(id, .linkLost m n k)] }) s
    s.recordLost n n k

/-- `LINK_LOST_TIMEOUT`: the link has failed, or no flit has come on it for 4 of the neighbour's rounds. -/
def State.linkLostTimeout (s : State) (n k : Nat) : State :=
  if n < 8 ∧ k < 8 ∧ (pierNbrs n).contains k ∧ (s.pier n).silent = false then
    let l := s.link (pierLink n k)
    if l.failed || decide (4 ≤ (l.toward (pierIsA k n)).quiet) then s.markLost n k else s
  else s

def execLinkLostTimeout (nbr pier : Nat) (s : State) : Answered := .next (s.linkLostTimeout nbr pier)

/-- `LINK_LOST_NOTICE`. -/
def State.linkLostNotice (s : State) (id : Nat) : State :=
  match s.notices.find? (fun n => n.1 == id) with
  | some (_, .linkLost m teller subject) => ({ s with notices := s.notices.filter (fun n => n.1 != id) }).recordLost m teller subject
  | _ => s

def execLinkLostNotice (id : Nat) (s : State) : Answered := .next (s.linkLostNotice id)

/-! ## Failure of a link (R231, R239, R243) -/

/-- A link is failed: a span makes its die silent unless the pier is; a pier–pier link is marked lost by both its ends. -/
def State.failLink (s : State) (l : Nat) : State :=
  if l < 16 then
    let d := l / 2
    let p := attach d (l % 2)
    let s := s.modLink l (fun x => { x with failed := true })
    if (s.pier p).silent then s else s.declareDie d p
  else if l < 28 then
    let i := (linkEnds l).1 - 8
    let j := (linkEnds l).2 - 8
    ((s.downLink l false).markLost i j).markLost j i
  else s.downLink l false

/-- A replay fails: after 16 in a row the link is failed, else it is replayed again. -/
def State.replayFails (s : State) (l : Nat) (toB : Bool) : State :=
  let n := ((s.link l).toward toB).failedReplays + 1
  let till := s.endDcc (linkSender l toB) + 512
  let s := s.modLink l (fun x => x.setToward toB { (x.toward toB) with failedReplays := n, replaying := true, replayTill := till })
  if 16 ≤ n then s.failLink l else s

/-- The sender has sent a flit: a new one is kept with the 255 before it; one kept already is sent again (R231). Another sequence number is on
no flit of the link. -/
def LinkDir.sends (d : LinkDir) (seq : BitVec 12) : Option LinkDir :=
  if seq = d.send then some { d with send := d.send + 1, kept := if d.kept < 256 then d.kept + 1 else 256 }
  else if (d.send - seq).toNat ≤ d.kept then some d
  else none

/-- `FLIT_RECEIVE` (R231): a flit of another sequence number than the one expected is discarded; one that fails its CRC starts a replay from it,
or fails the one under way; a good one is acknowledged, which ends both. -/
def State.flitReceive (s : State) (l : Nat) (toB : Bool) (seq : BitVec 12) (crcOk : Bool) : State :=
  if 36 ≤ l ∨ (s.link l).failed = true then s
  else match ((s.link l).toward toB).sends seq with
  | none => s
  | some d =>
    let s := s.modLink l (fun x => x.setToward toB { d with quiet := 0 })
    if seq ≠ d.expect then s
    else if crcOk then
      s.modLink l (fun x => x.setToward toB { d with quiet := 0, expect := d.expect + 1, replaying := false, failedReplays := 0 })
    else if d.replaying then s.replayFails l toB
    else s.modLink l (fun x => x.setToward toB { d with quiet := 0, replaying := true, replayTill := s.endDcc (linkSender l toB) + 512 })

def execFlitReceive (link : Nat) (toB : Bool) (seq : BitVec 12) (crcOk : Bool) (s : State) : Answered :=
  .next (s.flitReceive link toB seq crcOk)

/-- `REPLAY_TIMEOUT`: 512 DCC of the sender's count after the replay began. -/
def State.replayTimeout (s : State) (l : Nat) (toB : Bool) : State :=
  let d := (s.link l).toward toB
  let due := !(s.endDcc (linkSender l toB)).ult d.replayTill
  if 36 ≤ l ∨ (s.link l).failed = true then s else if d.replaying && due then s.replayFails l toB else s

def execReplayTimeout (link : Nat) (toB : Bool) (s : State) : Answered := .next (s.replayTimeout link toB)

/-- `FLOW_CONTROL_SIGNAL` (R230): the sender stops or resumes a class of a direction. -/
def State.flowSignal (s : State) (l : Nat) (toB : Bool) (cls : BitVec 2) (off : Bool) : State :=
  if 36 ≤ l then s
  else s.modLink l (fun x =>
    let d := x.toward toB
    let m : BitVec 4 := 1#4 <<< cls.toNat
    x.setToward toB { d with off := if off then d.off ||| m else d.off &&& ~~~m })

def execFlowControlSignal (link : Nat) (toB : Bool) (cls : BitVec 2) (off : Bool) (s : State) : Answered :=
  .next (s.flowSignal link toB cls off)

end Sys2Proof.Machine
end

