-- ==== Sys2Proof/Machine/Cards.lean ====
section
/-! DEFINITION. Job cards: their image (spec/14 R272, R273), its checks (R274), the release count and what a release does (R277,
R361), the ready pool's places and identifiers (R281), and completion (R285, R286). -/

namespace Sys2Proof.Machine

/-! ## The image (R272, R273) -/

/-- A field of some bytes, all of them data. -/
def leField (bs : List PByte) (off n : Nat) : Nat := (leNat ((bs.drop off).take n)).getD 0

/-- Entry i of a team table. -/
def CardImage.team (c : CardImage) (i : Nat) : Word := c.teams.getD i 0

def teamW (e : Word) : Nat := (fld e 0 6).toNat
def teamVec (e : Word) : Nat := (fld e 8 8).toNat
def teamAcc (e : Word) : Nat := 4 * (fld e 16 4).toNat
def teamRes (e : Word) : Nat := (fld e 20 8).toNat

/-- The entries that name a team, with their numbers. -/
def CardImage.present (c : CardImage) : List (Nat × Word) :=
  (List.range 8).filterMap (fun i => if teamW (c.team i) = 0 then none else some (i, c.team i))

/-- Parse the 128 bytes of a card; none when a byte is poisoned. -/
def CardImage.parse (bs : List PByte) : Option CardImage :=
  if bs.any Option.isNone || bs.length != 128 then none
  else
    let f := leField bs
    let ts := (List.range 8).map (fun i => BitVec.ofNat 32 (f (0x18 + 4 * i) 4))
    let hs := (List.range 4).map (fun i => BitVec.ofNat 64 (f (0x50 + 8 * i) 8))
    some { entry := BitVec.ofNat 64 (f 0 8), arg := BitVec.ofNat 64 (f 8 8), crews := f 0x10 2, gang := f 0x12 1
           prio := f 0x13 1 % 8, tprio := f 0x13 1 / 16 % 8, flags := BitVec.ofNat 32 (f 0x14 4), teams := ts
           spadWord := BitVec.ofNat 32 (f 0x38 4), poolWord := BitVec.ofNat 32 (f 0x3C 4), count := BitVec.ofNat 32 (f 0x40 4)
           est := BitVec.ofNat 32 (f 0x44 4), succ := BitVec.ofNat 64 (f 0x48 8), hints := hs, done := BitVec.ofNat 64 (f 0x70 8)
           world := f 0x78 1, asn := BitVec.ofNat 16 (f 0x7A 2)
           reservedSet := f 0x13 1 / 8 % 2 != 0 || f 0x13 1 / 128 != 0 || f 0x14 4 / 256 != 0 || f 0x79 1 != 0 || f 0x7C 4 != 0
             || f 0x38 4 / 2 ^ 21 % 2 != 0 || f 0x3C 4 / 2 ^ 20 != 0 || ts.any (fun e => fld e 28 4 != 0)
             || hs.any (fun h => h.toNat / 2 ^ 48 != 0) }

def CardImage.idem (c : CardImage) : Bool := c.flags.getLsbD 0
def CardImage.conf (c : CardImage) : Bool := c.flags.getLsbD 3
def CardImage.retry (c : CardImage) : Nat := (fld c.flags 4 4).toNat
def CardImage.gangs (c : CardImage) : Nat := if c.gang = 0 then 0 else c.crews / c.gang

/-- The scratchpad and tag word (R145). -/
def CardImage.spk (c : CardImage) : Nat := (fld c.spadWord 0 9).toNat
def CardImage.tsz (c : CardImage) : Nat := (fld c.spadWord 9 3).toNat
def CardImage.tent (c : CardImage) : Nat := (fld c.spadWord 12 9).toNat
def CardImage.bkey (c : CardImage) : BitVec 10 := fld c.spadWord 22 10

/-- The extended pools (R72): KiB units of vector storage, granules of the other two. -/
def CardImage.pools (c : CardImage) : Pools :=
  { vec := (fld c.poolWord 0 8).toNat, acc := (fld c.poolWord 8 4).toNat, res := (fld c.poolWord 12 8).toNat / 4 }

/-! ## What a crew needs of a core (R71 to R73, R146) -/

structure Needs where
  vec : Nat := 0
  acc : Nat := 0
  res : Nat := 0
  spk : Nat := 0
  tags : Nat := 0
  deriving DecidableEq, Repr

def Needs.add (a b : Needs) : Needs :=
  { vec := a.vec + b.vec, acc := a.acc + b.acc, res := a.res + b.res, spk := a.spk + b.spk, tags := a.tags + b.tags }

/-- It fits an empty core. -/
def Needs.fits (n : Needs) : Bool :=
  decide (n.vec ≤ 320) && decide (n.acc ≤ 64) && decide (n.res ≤ 256) && decide (n.spk ≤ 448) && decide (n.tags ≤ 2048)

def CardImage.needs (c : CardImage) : Needs :=
  c.present.foldl (fun n e => n.add { vec := teamW e.2 * (teamVec e.2 / 8), acc := teamAcc e.2, res := teamRes e.2 })
    { vec := c.pools.vec, acc := 4 * c.pools.acc, res := 4 * c.pools.res, spk := c.spk, tags := 8 * c.tent }

/-- An entry breaks R71 or names more than 32 mask words (R273). -/
def entryBad (e : Word) : Bool :=
  decide (32 < teamW e) || decide (teamVec e < 8) || decide (128 < teamVec e) || teamVec e % 8 != 0
  || decide (327680 < 128 * teamW e * teamVec e)

/-- The card is malformed of itself (R274). -/
def CardImage.malformed (c : CardImage) : Bool :=
  c.reservedSet || c.crews == 0 || c.gang == 0 || decide (4 < c.gang) || c.crews % c.gang != 0 || c.present.isEmpty
  || c.present.any (fun e => entryBad e.2)
  || decide (4 < c.tsz) || decide (448 < c.spk) || decide (256 < c.tent) || decide (1024 * c.spk < 8 * c.tent * (256 * 2 ^ c.tsz))
  || (fld c.poolWord 12 8).toNat % 4 != 0 || !c.needs.fits

/-- A world's cards are accepted: world 0, and a confidential world in RUN that is not being stopped (R305); in minimal mode world
0 alone (R314). -/
def State.worldRuns (s : State) (w : Nat) : Bool :=
  w == 0 || ((s.world w).state == Tdisp.run && (s.world w).stopping.isNone && !s.boot.minimal)

/-- The status a card that enters a pool completes with at once (R4, R274): 0 when none. -/
def State.cardStatus (s : State) (c : CardImage) (dieAbsent : Bool) : BitVec 6 :=
  if dieAbsent then 0x02
  else if c.malformed || (s.rootOf c.world c.asn).isNone then 0x01
  else if !s.worldRuns c.world then 0x07 else 0

/-! ## Access to cards (R361) -/

/-- n bytes from a physical address, each 8 bytes where they are served; n a multiple of 8. -/
def State.readSpan (s : State) (src world : Nat) : Nat → Nat → Except (BitVec 8) (List PByte)
  | 0, _ => .ok []
  | n + 1, pa =>
    match s.readOwn src world pa 8 with
    | .error c => .error c
    | .ok bs =>
      match s.readSpan src world n (pa + 8) with
      | .error c => .error c
      | .ok rest => .ok (bs ++ rest)

/-- Bytes written from a physical address, in pieces of n; the first that is refused ends it. -/
def State.writePieces (s : State) (src world n : Nat) : Nat → Nat → List PByte → Except (BitVec 8) State
  | 0, _, _ => .ok s
  | fuel + 1, pa, bs =>
    if bs.isEmpty then .ok s
    else match s.writeOwn src world pa (bs.take n) with
      | .error c => .error c
      | .ok s => s.writePieces src world n fuel (pa + n) (bs.drop n)

/-- Some 16-byte granule of a span has a write of the package wait (R208, R211). -/
def State.spanBusy (s : State) (src world pa n : Nat) : Bool := (List.range ((n + 15) / 16)).any (fun i => s.ownBusy src world (pa + 16 * i))

/-- What reading a span in pieces of n leaves (R301, R309). -/
def State.spanNoted (s : State) (src world n count pa : Nat) : State :=
  (List.range count).foldl (fun s i => s.readNoted src world (pa + n * i) n) s

/-- The image of the card at a VA, read in a context. -/
def State.cardAt (s : State) (src world : Nat) (asn : BitVec 16) (r : Rights) (va : Nat) :
    Except (BitVec 8) (Nat × CardImage) :=
  if va % 128 ≠ 0 then .error 0x09
  else match s.translateOwn src world asn r va with
    | .error c => .error c
    | .ok pa => match s.readSpan src world 16 pa with
      | .error c => .error c
      | .ok bs => match CardImage.parse bs with
        | none => .error 0x10
        | some img => .ok (pa, img)

/-- What reading a card leaves: the walk's reads and the card's own (R301, R309). -/
def State.cardNoted (s : State) (src world : Nat) (asn : BitVec 16) (r : Rights) (va : Nat) : State :=
  if va % 128 ≠ 0 then s
  else
    let s1 := s.walkNoted src world asn va
    match s.translateOwn src world asn r va with
    | .error _ => s1
    | .ok pa => s1.readNoted src world pa 128

/-- A handler's or sampler's card, read in the context of its own ASN: the first of the world's contexts in which the VA holds a
well-formed card of the world that names that ASN (DEDUCED, notes/assumptions/31.md). -/
def State.templateAt (s : State) (src world va : Nat) : Option CardImage :=
  (s.world world).ctxs.findSome? (fun c =>
    match s.cardAt src world c.1 { rd := true } va with
    | .error _ => none
    | .ok (_, img) => if img.asn = c.1 ∧ img.world = world ∧ !img.malformed then some img else none)

/-! ## The pool (R281) -/

/-- The ordinary cards in a die's pool. -/
def State.poolCount (s : State) (d : Nat) : Nat :=
  (s.cards.filter (fun c => c.die == d && c.inPool && c.kind == CrewKind.ordinary)).length

/-- A place for an ordinary card is free. -/
def State.poolRoom (s : State) (d : Nat) : Bool := decide (s.poolCount d < 960)

/-- A place kept for handler cards is free. -/
def State.handlerRoom (s : State) (d : Nat) : Bool :=
  decide ((s.cards.filter (fun c => c.die == d && c.inPool && c.kind != CrewKind.ordinary)).length < 64)

def State.card? (s : State) (tid : BitVec 32) : Option Card := s.cards.find? (fun c => c.tid == tid)

def State.modCard (s : State) (tid : BitVec 32) (f : Card → Card) : State :=
  { s with cards := s.cards.map (fun c => if c.tid == tid then f c else c) }

def State.imageOf (s : State) (tid : BitVec 32) : CardImage := match s.card? tid with | some c => c.image | none => {}


/-! ## The world whose slice runs (R288) -/

/-- A world has ready cards, crews queued to be placed again, or saved crews on a die. -/
def State.worldReady (s : State) (d w : Nat) : Bool :=
  s.cards.any (fun c => c.die == d && c.kind == CrewKind.ordinary && c.image.world == w && c.inPool)
  || (s.die d).relaunch.any (fun r => (s.imageOf r.tid).world == w)
  || (s.die d).savedOrder.any (fun id => match s.crew? id with | some k => k.world == w && k.status == CrewSt.saved | none => false)

/-- A world has crews on cores of a die, handler and sampler crews apart. -/
def State.worldResident (s : State) (d w : Nat) : Bool :=
  !(s.crewsWhere (fun k => k.die == d && k.world == w && k.kind == CrewKind.ordinary && (k.status == CrewSt.resident || k.status == CrewSt.draining
    || k.status == CrewSt.saving))).isEmpty

def State.worldWork (s : State) (d w : Nat) : Bool := s.worldReady d w || s.worldResident d w

/-- The next world with work above the present one, wrapping round. -/
def State.nextWorld (s : State) (d : Nat) (work : Nat → Bool) : Option Nat :=
  ((List.range 16).map (fun i => ((s.die d).world + 1 + i) % 16)).find? work

/-- Begin a world's slice: its length is the one set for it now (R306 SLICE_SET). -/
def State.startSlice (s : State) (d w : Nat) : State :=
  s.modDie d (fun x => { x with world := w, sliceStart := x.dcc, sliceLen := (s.world w).slice })

/-- A die without work serves no world: the first card that comes begins its world's slice (R288). -/
def State.wakeSlice (s : State) (d w : Nat) : State := if (List.range 16).any (s.worldWork d) then s else s.startSlice d w

/-- The next identifier of a die's task unit (R281). A unit that was reset starts again from 1; an identifier that a card taken over from it
still carries is passed over, so that no two cards share one (R296, R297; DEDUCED, notes/assumptions/30.md). -/
def State.nextTid (s : State) (d : Nat) : BitVec 28 :=
  let n := (s.die d).tids + 1
  match ((List.range (s.cards.length + 1)).map (fun i => n + BitVec.ofNat 28 i)).find? (fun m =>
      !s.cards.any (fun c => c.tid == BitVec.ofNat 4 d ++ m)) with
  | some m => m
  | none => n

/-- The priority that a card's teams issue at: the trap priority for a handler's or sampler's card, which is the level it enters at (R50, R292,
R331). -/
def issuePrio (kind : CrewKind) (img : CardImage) (level : Nat) : Nat := if kind = CrewKind.ordinary then img.prio else level

/-- A card taken by a die's task unit, with its identifier; one with an error status is never placed. -/
def State.takeCard (s : State) (d : Nat) (va : VA) (img : CardImage) (kind : CrewKind) (level : Nat) (status : BitVec 6)
    (token : BitVec 64) (vector : Option Nat) : State × BitVec 32 :=
  let n := s.nextTid d
  let tid : BitVec 32 := BitVec.ofNat 4 d ++ n
  let s := if status = 0 ∧ kind = CrewKind.ordinary then s.wakeSlice d img.world else s
  let s := s.modDie d (fun x => { x with tids := n })
  let c : Card :=
    { tid := tid, va := va, die := d, image := img, kind := kind, inPool := status == 0, prio := issuePrio kind img level, level := level, order := s.nextId
      nextGang := if status = 0 then 0 else img.gangs, status := status, token := token, vector := vector }
  ({ s with nextId := s.nextId + 1, cards := s.cards ++ [c] }, tid)

/-! ## Releases (R277, R361, R4, R315) -/

/-- Who releases which card, and where to: a die 0 to 7, or 8 and above for a successor entry that names none. -/
structure Releaser where
  src : Nat
  world : Nat
  asn : BitVec 16
  va : Nat
  die : Nat
  unit : Nat
  token : BitVec 64
  vector : Option Nat := none
  deriving DecidableEq, Repr

/-- What came of a release. -/
inductive Released where
  | refused (cause : BitVec 8)
  | waits
  | atZero
  | lowered
  | taken (tid : BitVec 32) (err : Bool)
  deriving DecidableEq, Repr

/-- The next die in service above one that is not, wrapping round (R4). -/
def State.nextDie (s : State) (d : Nat) : Option Nat :=
  ((List.range 8).map (fun i => (d + 1 + i) % 8)).find? (fun i => s.dieUp i)

/-- The task unit that takes a card, and whether its die is absent; none while it must wait. -/
def State.takerOf (s : State) (r : Releaser) : Option (Nat × Bool) :=
  if 8 ≤ r.die then some (r.unit, true)
  else if s.dieUp r.die then some (r.die, false)
  else if s.boot.up then (s.nextDie r.die).map (fun d => (d, true))
  else none

/-- One release: the count is read and lowered at its HOME, as one atomic; the last one reserves a place first and enters the card, unless the
card completes at once with an error status and needs none (R4, R361). Until UP a release to a die not in service waits whatever the count
(R315). -/
def State.release (s : State) (r : Releaser) : State × Released :=
  match s.takerOf r with
  | none => (s, .waits)
  | some (d, absent) =>
    match s.cardAt r.src r.world r.asn { rd := true, wr := true } r.va with
    | .error c => (s.cardNoted r.src r.world r.asn { rd := true, wr := true } r.va, .refused c)
    | .ok (pa, img) =>
      let s1 := s.cardNoted r.src r.world r.asn { rd := true, wr := true } r.va
      let low := s1.writeOwn r.src r.world (pa + 0x40) (leBytes 4 (img.count.toNat - 1)) 2
      let st := s.cardStatus img absent
      if s.ownBusy r.src r.world (pa + 0x40) then (s, .waits)
      else if img.count = 0 then (s1, .atZero)
      else if img.count = 1 && st == 0 && !s.poolRoom d then (s, .waits)
      else match low with
        | .error c => (s1, .refused c)
        | .ok s2 =>
          if img.count ≠ 1 then (s2, .lowered)
          else
            let (s3, tid) := s2.takeCard d (BitVec.ofNat 64 r.va) img .ordinary img.prio st r.token r.vector
            (s3, .taken tid (st != 0))

/-- The token of a submission (R286, R287). -/
def submitToken (tid : BitVec 32) : BitVec 64 := (0x3F#32) ++ tid

/-! ## Completion (R285, R286) -/

/-- A card's completion token. -/
def Card.completion (c : Card) : BitVec 64 :=
  c.code ++ BitVec.ofNat 4 c.relaunches ++ c.cause ++ c.status ++ c.tid

/-- Every crew the card will ever have placed is gone. -/
def State.cardOver (s : State) (c : Card) : Bool :=
  decide (c.image.gangs ≤ c.nextGang) && (s.die c.die).relaunch.all (fun r => r.tid != c.tid)
  && (s.crewsWhere (fun k => k.tid == c.tid && k.status != CrewSt.gone)).isEmpty

/-- Step 2: the completion word; a failure is logged with kind 0x30. -/
def State.writeToken (s : State) (c : Card) : State :=
  let va := c.image.done.toNat
  if va = 0 then s
  else
    let bad := s.logDie c.die 0x30 0 0 11 0
    if va % 8 ≠ 0 then bad
    else match s.translateOwn c.die c.image.world c.image.asn { wr := true } va with
      | .error _ => bad
      | .ok pa => match (s.walkNoted c.die c.image.world c.image.asn va).writeOwn c.die c.image.world pa (leBytes 8 c.completion.toNat) with
        | .error _ => bad
        | .ok s => s

/-- The completion word has to wait: its home is frozen or a mirrored write of its granule is under way (R208, R212). -/
def State.tokenWaits (s : State) (c : Card) : Bool :=
  c.image.done.toNat % 8 == 0 && c.image.done != 0
  && (match s.translateOwn c.die c.image.world c.image.asn { wr := true } c.image.done.toNat with
    | .error _ => false
    | .ok pa => s.ownBusy c.die c.image.world pa)

/-- An entry of the successor list. -/
def State.succEntry (s : State) (c : Card) (i : Nat) : Option (BitVec 64) :=
  let va := c.image.succ.toNat + 8 * i
  match s.translateOwn c.die c.image.world c.image.asn { rd := true } va with
  | .error _ => none
  | .ok pa => match s.readOwn c.die c.image.world pa 8 with
    | .error _ => none
    | .ok bs => (leNat bs).map (BitVec.ofNat 64)

/-- What reading the entry leaves (R301, R309). -/
def State.entryNoted (s : State) (c : Card) (i : Nat) : State :=
  let va := c.image.succ.toNat + 8 * i
  let s1 := s.walkNoted c.die c.image.world c.image.asn va
  match s.translateOwn c.die c.image.world c.image.asn { rd := true } va with
  | .error _ => s1
  | .ok pa => s1.readNoted c.die c.image.world pa 8

/-- Step 3 from entry i: one release per entry; the entry reached, when a release has to wait. -/
def State.successors (s : State) (c : Card) : Nat → Nat → State × Option Nat
  | 0, _ => (s, none)
  | fuel + 1, i =>
    match s.succEntry c i with
    | none => ((s.entryNoted c i).logDie c.die 0x30 0 0 11 0, none)
    | some e =>
      let s := s.entryNoted c i
      let r : Releaser :=
        { src := c.die, world := c.image.world, asn := c.image.asn, va := (e.extractLsb' 0 48).toNat, die := (e.extractLsb' 48 4).toNat
          unit := c.die, token := c.completion }
      let go := fun (s : State) => if e.getLsbD 63 then (s, none) else s.successors c fuel (i + 1)
      match s.release r with
      | (s, .waits) => (s, some i)
      | (s, .refused _) => go (s.logDie c.die 0x30 0 0 11 0)
      | (s, .atZero) => go (s.logDie c.die 0x31 0 0 11 0)
      | (s, _) => go s

/-- An MSI-X vector raised. -/
def State.raise (s : State) (v : Nat) : State := { s with host := { s.host with msix := s.host.msix ++ [v] } }

/-- `CARD_COMPLETE` (R285): the steps from the first not yet done; it stops at a successor whose release must wait. -/
def State.cardComplete (s : State) (tid : BitVec 32) : State :=
  match s.card? tid with
  | none => s
  | some c =>
    if !s.cardOver c || (s.die c.die).silent || (c.stage == 0 && s.tokenWaits c) then s
    else
      let s := s.modCard tid (fun c => { c with inPool := false })
      let s := if c.stage = 0 then (s.writeToken c).modCard tid (fun c => { c with stage := 1 }) else s
      let (s, stop) := if c.image.succ = 0 then (s, none) else s.successors c (64 - c.succIdx) c.succIdx
      match stop with
      | some i => s.modCard tid (fun c => { c with succIdx := i })
      | none =>
        let s := match c.vector with | some v => s.raise v | none => s
        { s with cards := s.cards.filter (fun x => x.tid != tid) }

def execCardComplete (tid : Nat) (s : State) : Answered := .next (s.cardComplete (BitVec.ofNat 32 tid))

end Sys2Proof.Machine
end

