-- ==== Sys2Proof/Machine/Place.lean ====
section
/-! DEFINITION. Dispatch and the life of a placed crew: what a core has free, the choice of a quad, launch (spec/14 R276, R282, R283), the
world whose slice runs (R288), relaunch and the loss of crews (R294, R296, R354), and retirement (R284, R307). -/

namespace Sys2Proof.Machine

/-! ## What a core holds (R44, R73, R146) -/

/-- The crews that occupy a core. -/
def State.crewsOn (s : State) (d c : Nat) : List Nat :=
  s.crewsWhere (fun k => k.die == d && k.core == c && k.status != CrewSt.gone && !k.offCore)

/-- The teams of a crew that have not ended. -/
def State.liveTeams (s : State) (k : Crew) : List Nat :=
  k.teams.filter (fun u => match s.team? u with | some t => t.status != TeamSt.ended | none => false)

def State.teamsOn (s : State) (d c : Nat) : List Nat :=
  (s.crewsOn d c).flatMap (fun id => match s.crew? id with | some k => s.liveTeams k | none => [])

/-- What the crews of a core take. -/
def State.taken (s : State) (d c : Nat) : Needs :=
  (s.crewsOn d c).foldl (fun n id => match s.crew? id with | some k => n.add (s.imageOf k.tid).needs | none => n) {}

/-- A crew of a card has room on a core. -/
def State.coreRoom (s : State) (d c : Nat) (img : CardImage) : Bool :=
  decide ((s.crewsOn d c).length < 8) && decide ((s.teamsOn d c).length + img.present.length ≤ 16)
  && ((s.taken d c).add img.needs).fits

/-! ## The choice of a quad (R283) -/

/-- Crossbars of the shortest path of index a = side to a holder (R17). -/
def sideCost (d h side : Nat) : Nat :=
  if h = d then 0
  else if h < 8 then leastOf [(pathPiers d h (2 * side)).length, (pathPiers d h (2 * side + 1)).length]
  else (pathPiers d h side).length

/-- The holder of a hint's operand; none when the hint is not usable. -/
def State.hintHolder (s : State) (d : Nat) (img : CardImage) (h : BitVec 64) : Option Nat :=
  let va := (h.extractLsb' 6 42).toNat * 64
  if va = 0 then none
  else match s.translateOwn d img.world img.asn {} va with
    | .error _ => none
    | .ok pa => (s.choose d d img.world false pa).map Ann.holder

/-- The cost of a side: the sum over the hints. -/
def State.sideScore (s : State) (d side : Nat) (img : CardImage) : Nat :=
  img.hints.foldl (fun n h => match s.hintHolder d img h with
    | some x => n + 2 ^ (h.extractLsb' 0 6).toNat * sideCost d x side
    | none => n) 0

/-- The quads of a die, lowest score first, ties to the lower number. -/
def State.quadOrder (s : State) (d : Nat) (img : CardImage) : List Nat :=
  if s.sideScore d 1 img < s.sideScore d 0 img then (List.range 18).map (· + 18) ++ List.range 18 else List.range 36

/-- The crews that occupy a quad. -/
def State.quadCrews (s : State) (d q : Nat) : List Crew :=
  ((List.range 4).flatMap (fun i => s.crewsOn d (4 * q + i))).filterMap s.crew?

/-- CONF: no crew of another world beside a confidential gang. -/
def State.confOk (s : State) (d q : Nat) (img : CardImage) : Bool :=
  (s.quadCrews d q).all (fun k => k.world == img.world || (!img.conf && !(s.imageOf k.tid).conf))

/-- The cores of a quad with room for a crew of the card, lowest first, without some. -/
def State.quadRoom (s : State) (d q : Nat) (img : CardImage) (not : List Nat) : List Nat :=
  ((List.range 4).map (fun i => 4 * q + i)).filter (fun c => s.coreRoom d c img && !not.contains c)

/-- The crews of a card's gang that are on cores. -/
def State.mates (s : State) (tid : BitVec 32) (gang : Nat) : List Crew :=
  (s.crewsWhere (fun k => k.tid == tid && k.gang == gang && (k.status == CrewSt.resident || k.status == CrewSt.draining))).filterMap s.crew?

/-- Cores for n crews of a gang: in the quad of those of its crews that are on cores already, else in the best quad. -/
def State.findCores (s : State) (d : Nat) (tid : BitVec 32) (img : CardImage) (gang n : Nat) : Option (List Nat) :=
  let ms := s.mates tid gang
  let qs := match ms with | m :: _ => [m.core / 4] | [] => s.quadOrder d img
  (qs.find? (fun q => s.confOk d q img && decide (n ≤ (s.quadRoom d q img (ms.map Crew.core)).length))).map
    (fun q => (s.quadRoom d q img (ms.map Crew.core)).take n)

/-- A 16-bit ticket neither 0 nor in use on the die. Which, is a free value as far as that allows (notes/assumptions/32.md). -/
def State.newTicket (s : State) (d : Nat) : BitVec 16 :=
  let used := (s.crewsWhere (fun k => k.die == d && k.status != CrewSt.gone)).filterMap (fun c => (s.crew? c).map Crew.ticket)
  let x : BitVec 16 := (Config.freeWord s.free).setWidth 16
  if x ≠ 0 ∧ !used.contains x then x
  else match ((List.range used.length).map (fun i => BitVec.ofNat 16 (i + 1))).find? (fun t => !used.contains t) with
    | some t => t
    | none => BitVec.ofNat 16 (used.length + 1)

/-- The gang's ticket: that of its crews on cores, else a new one. -/
def State.gangTicket (s : State) (d : Nat) (tid : BitVec 32) (gang : Nat) : BitVec 16 :=
  match s.mates tid gang with | m :: _ => m.ticket | [] => s.newTicket d

/-! ## Launch (R276, R46) -/

/-- The lowest numbers below n not used, as many as asked. -/
def freeSlotsOf (used : List Nat) (n want : Nat) : List Nat := ((List.range n).filter (fun i => !used.contains i)).take want

def State.crewSlots (s : State) (d c : Nat) : List Nat := ((s.crewsOn d c).filterMap s.crew?).map Crew.slot

def State.teamSlots (s : State) (d c : Nat) : List Nat := ((s.teamsOn d c).filterMap s.team?).map Team.slot

/-- The uniform registers at launch. -/
def launchU (idx num : Nat) (arg va : VA) : Table VUnit :=
  let put := fun (t : Table VUnit) (r : Nat) (w : Word) => tset {} t r { val := .word w }
  put (put (put (put (put (put [] 1 (BitVec.ofNat 32 idx)) 2 (BitVec.ofNat 32 num)) 4 (arg.extractLsb' 0 32)) 5 (arg.extractLsb' 32 32))
    6 (va.extractLsb' 0 32)) 7 (va.extractLsb' 32 32)

/-- A team at launch. -/
def launchTeam (crew idx num slot : Nat) (e : Word) (img : CardImage) (va : VA) : Team :=
  { crew := crew, num := num, slot := slot, role := fld e 6 2, width := teamW e, status := .running, pc := img.entry, regionVA := img.entry
    defOn := img.flags.getLsbD 1, strict := img.flags.getLsbD 2, u := launchU idx num img.arg va
    vN := teamVec e, aN := teamAcc e, rN := teamRes e, vBase := teamVec e, aBase := teamAcc e, rBase := teamRes e }

/-- Place crew idx of a card on a core. -/
def State.launchCrew (s : State) (c : Card) (idx gang core : Nat) (ticket : BitVec 16) : State :=
  let (cid, s) := s.fresh
  let img := c.image
  let slots := freeSlotsOf (s.teamSlots c.die core) 16 16
  let port := s.core (coreKey c.die core)
  let ts := (img.present.zip (List.range 8)).map (fun e =>
    (cid + 1 + e.2, { launchTeam cid idx e.1.1 (slots.getD e.2 0) e.1.2 img c.va with lastA := port.portA, lastB := port.portB }))
  let k : Crew :=
    { tid := c.tid, index := idx, gang := gang, slot := (freeSlotsOf (s.crewSlots c.die core) 8 1).headD 0, die := c.die, core := core
      quad := quadOf c.die core, ticket := ticket, status := .resident, kind := c.kind, world := img.world, asn := img.asn, teams := ts.map Prod.fst
      spk := img.spk, bkey := img.bkey, tsz := img.tsz, tent := 8 * img.tent, pool := img.pools, poolAll := img.pools }
  { s with nextId := s.nextId + ts.length
           teams := ts.foldl (fun m t => tset none m t.1 (some t.2)) s.teams
           crews := tset none s.crews cid (some k) }

/-- Place crews of a gang on cores, whole or not at all. -/
def State.placeGang (s : State) (c : Card) (gang : Nat) (idxs : List Nat) : Option State :=
  match s.findCores c.die c.tid c.image gang idxs.length with
  | none => none
  | some cores =>
    let t := s.gangTicket c.die c.tid gang
    some ((idxs.zip cores).foldl (fun s x => s.launchCrew c x.1 gang x.2 t) { s with free := s.free + 1 })

/-- Every other card of the pool has seen one more dispatch (R282). -/
def State.aged (s : State) (d : Nat) (tid : BitVec 32) : State :=
  { s with cards := s.cards.map (fun c =>
      if c.die == d && c.inPool && c.tid != tid then
        if 63 ≤ c.age then { c with age := 0, level := if c.level < 7 then c.level + 1 else 7 } else { c with age := c.age + 1 }
      else c) }

/-! ## The world whose slice runs (R288) -/

/-- The slice of a world without work ends, and the next one's begins. -/
def State.turnWorld (s : State) (d : Nat) : State :=
  if s.worldWork d (s.die d).world then s
  else match s.nextWorld d (s.worldWork d) with
    | some w => s.startSlice d w
    | none => s

/-! ## Dispatch (R282) -/

/-- The cards of a die's pool in the order they are tried: level, then age in the pool. -/
def State.poolOrder (s : State) (d : Nat) : List Card :=
  ((List.range 8).reverse).flatMap (fun l => s.cards.filter (fun c => c.die == d && c.inPool && c.level == l))

/-- Place the next gang of a card; its last one takes it out of the pool (R281). A sampler's crew goes on its own core (R331). -/
def State.placeNext (s : State) (c : Card) : Option State :=
  let idxs := (List.range c.image.gang).map (fun i => c.nextGang * c.image.gang + i)
  let done := fun (s : State) => (s.modCard c.tid (fun x =>
    { x with nextGang := x.nextGang + 1, inPool := decide (x.nextGang + 1 < x.image.gangs) })).aged c.die c.tid
  match c.kind with
  | .sampler _ core =>
    if s.coreRoom c.die core c.image && s.confOk c.die (core / 4) c.image then
      some (done (s.launchCrew c 0 0 core (s.newTicket c.die)))
    else none
  | _ => (s.placeGang c c.nextGang idxs).map done

/-- Killed crews of a relaunch that have not retired: their accesses come before the restart (R249). -/
def State.awaited (s : State) (r : Relaunch) : Bool :=
  !(s.crewsWhere (fun k => k.tid == r.tid && k.gang == r.gang && r.crews.contains k.index && k.status != CrewSt.gone)).isEmpty

/-- The first relaunch of the running world that is not held and can be placed. -/
def State.placeRelaunch (s : State) (d : Nat) : List Relaunch → Option State
  | [] => none
  | r :: rest =>
    match s.card? r.tid with
    | none => s.placeRelaunch d rest
    | some c =>
      if !r.held.isEmpty ∨ s.awaited r = true ∨ c.image.world ≠ (s.die d).world ∨ !s.worldRuns c.image.world then s.placeRelaunch d rest
      else match s.placeGang c r.gang r.crews with
        | some s => some ((s.modDie d (fun x => { x with relaunch := x.relaunch.erase r })).aged d c.tid)
        | none => s.placeRelaunch d rest

/-- A handler's card: neither the running world nor what is held back concerns it (R282). -/
def Card.isHandler (c : Card) : Bool := match c.kind with | .handler _ _ => true | _ => false

/-- The first card that can be placed. `blocked`: the oldest card at level 7 holds back all but handler cards. -/
def State.placeCard (s : State) (d : Nat) (quiet : Bool) : List Card → Bool → Option State
  | [], _ => none
  | c :: rest, blocked =>
    if !c.isHandler && ((quiet && c.kind == CrewKind.ordinary) || blocked || c.image.world != (s.die d).world || !s.worldRuns c.image.world) then
      s.placeCard d quiet rest blocked
    else match s.placeNext c with
      | some s => some s
      | none => s.placeCard d quiet rest (blocked || c.level == 7)

/-! ## Killing for a relaunch (R294, R289) -/

/-- The live crews of a gang. -/
def State.gangCrews (s : State) (tid : BitVec 32) (gang : Nat) : List Nat :=
  s.crewsWhere (fun k => k.tid == tid && k.gang == gang && k.live)

/-- R271: re-execution withdraws the arrivals of a crew's teams from open phases. -/
def State.withdrawCrew (s : State) (cid : Nat) : State :=
  match s.crew? cid with
  | some k => k.teams.foldl (fun s u => s.withdrawAll u) s
  | none => s

/-- Queue crews of a gang to be placed again, behind the silent holders whose notice has come (R354). -/
def State.queueAgain (s : State) (d : Nat) (tid : BitVec 32) (gang : Nat) (crews : List Nat) (lost : Bool) : State :=
  s.modDie d (fun x => { x with relaunch := x.relaunch ++ [{ tid := tid, gang := gang, crews := crews, held := if lost then x.holds.map Prod.fst else [] }] })

/-- `trelaunch` (R294): the gang is killed; the card relaunches it, or fails. -/
def State.relaunchGang (s : State) (cid : Nat) (cause : BitVec 6) : State :=
  match s.crew? cid with
  | none => s
  | some k =>
    match s.card? k.tid with
    | none => s.killCrew cid 0x04 cause
    | some c =>
      let ids := s.gangCrews k.tid k.gang
      let s := ids.foldl (fun s i => (s.withdrawCrew i).killCrew i 0 0) s
      if s.worldRuns c.image.world && c.image.idem && decide (c.relaunches < c.image.retry) then
        (s.modCard k.tid (fun c => { c with relaunches := c.relaunches + 1 })).queueAgain c.die k.tid k.gang
          ((List.range c.image.gang).map (fun i => k.gang * c.image.gang + i)) true
      else s.failCard k.tid (if c.image.idem then 0x05 else 0x04) cause

/-- Flush-and-restart (R289): the crew is killed, its card is not failed, no relaunch is counted. -/
def State.flushCrew (s : State) (cid : Nat) : State :=
  match s.crew? cid with
  | none => s
  | some k => ((s.withdrawCrew cid).killCrew cid 0 0).queueAgain k.die k.tid k.gang [k.index] false

/-! ## Retirement (R284 steps 5 and 6, R307) -/

/-- What a crew's zeroing counts (R307, R308): vector, uniform, predicate and tile words, accumulator elements, scratchpad bytes, tag
entries and residual entries of its allotments (DEDUCED, notes/assumptions/33.md). -/
def State.zeroCounts (s : State) (k : Crew) : Zeroed :=
  (k.teams.filterMap s.team?).foldl (fun z t =>
      { z with words := z.words + t.vN * 32 * t.width + 128 + 8 * t.width + 32, accs := z.accs + 512 * t.aN, resid := z.resid + t.rN })
    { bytes := 1024 * k.spk, tags := k.tent }

def Zeroed.add (a b : Zeroed) : Zeroed :=
  { words := a.words + b.words, accs := a.accs + b.accs, bytes := a.bytes + b.bytes, tags := a.tags + b.tags, resid := a.resid + b.resid }

/-- The storage of a crew and its teams is emptied; of a confidential world's the zeroing is counted. -/
def State.zeroCrew (s : State) (cid : Nat) : State :=
  match s.crew? cid with
  | none => s
  | some k =>
    let z := s.zeroCounts k
    let s := if k.world = 0 then s else s.modWorld k.world (fun w => { w with zeroed := w.zeroed.add z })
    let s := k.teams.foldl (fun s u => s.modTeam u (fun t =>
      { t with v := [], u := [], p := [], t := [], a := [], fifo := [], results := [] })) s
    s.modCrew cid (fun k => { k with spad := [], spadPoison := [], tags := [] })

/-- Commands of a team accepted and not completed; a half pair on q8 is none. -/
def State.commandsOf (s : State) (u : Nat) : Bool :=
  s.copies.any (fun c => c.team == u) || s.net.cmds.any (fun c => c.team == u && c.result.isNone)
  || s.dies.any (fun d => d.2.routes.any (fun r => r.team == u) || decide (2 ≤ (d.2.q8.filter (fun x => x.team == u)).length))

/-- An outstanding instruction that waits only for passes of its own that have not issued. -/
def OpRec.unissued (o : OpRec) : Bool := o.kind.byPass && o.outs.isEmpty && o.gathers.isEmpty && o.owed.isEmpty

/-- A write or command of some teams is still under way. -/
def State.crewBusy (s : State) (uids : List Nat) : Bool := uids.any (fun u => (s.opsOf u).any (fun o => !o.unissued) || s.commandsOf u)

/-- The crew is gone: its resources, save place and slot return, and a handler crew's open handles are decided (R292). -/
def State.crewGone (s : State) (cid : Nat) : State :=
  match s.crew? cid with
  | none => s
  | some k =>
    let s := (s.zeroCrew cid).modCrew cid (fun k => { k with status := .gone, savedAt := none })
    let s := { s with ops := s.ops.filter (fun o => !k.teams.contains o.team) }
    let s := s.modWorld k.world (fun w => { w with saved := w.saved.filter (fun x => x.2.2 != cid) })
    let s := s.modDie k.die (fun d => { d with q8 := d.q8.filter (fun x => !k.teams.contains x.team), savedOrder := d.savedOrder.filter (· != cid) })
    match k.kind with
    | .ordinary => s
    | .handler _ _ => s.decideOpen k.tid
    | .sampler slot _ => (s.modWorld k.world (fun w => { w with trapTaken := w.trapTaken.filter (· != slot) })).modCore k.coreKey
        (fun c => { c with sampler := false })

/-- `CREW_RETIRE` (R284): once its writes are acknowledged and its commands complete. -/
def State.crewRetire (s : State) (cid : Nat) : State :=
  match s.crew? cid with
  | none => s
  | some k => if k.status ≠ .retiring ∨ s.crewBusy k.teams = true then s else s.crewGone cid

def execCrewRetire (crew : Nat) (s : State) : Answered := .next (s.crewRetire crew)

/-! ## Lost crews (R242, R296) -/

/-- A crew of a silent die ends with what it had under way. -/
def State.loseCrew (s : State) (cid : Nat) : State :=
  match s.crew? cid with
  | none => s
  | some k =>
    let s := (s.withdrawCrew cid).voidHandles k.teams
    let s := { s with ops := s.ops.filter (fun o => !k.teams.contains o.team), lands := s.lands.filter (fun l => !k.teams.contains l.team) }
    ((s.retireCrew cid).crewGone cid)

/-- The distinct gangs of some crews. -/
def State.gangsOf (s : State) (ids : List Nat) : List Nat := distinct (ids.filterMap (fun i => (s.crew? i).map Crew.gang))

/-- One card of a silent die, taken over by die n: its crews there are lost, those still retiring too, and all their gangs count as one relaunch.
Gangs queued already, and those of a card that has failed, are not counted again. -/
def State.adoptCard (s : State) (n d : Nat) (c : Card) : State :=
  let s := s.wakeSlice n c.image.world
  let ids := s.crewsWhere (fun k => k.tid == c.tid && k.die == d && k.status != CrewSt.gone)
  let queued := ((s.die d).relaunch.filter (fun r => r.tid == c.tid)).map Relaunch.gang
  let gangs := if c.status = 0 then (s.gangsOf ids).filter (fun g => !queued.contains g) else []
  let s := ids.foldl (fun s i => s.loseCrew i) s
  let old := (s.die d).relaunch.filter (fun r => r.tid == c.tid)
  let s := (s.modDie d (fun x => { x with relaunch := x.relaunch.filter (fun r => r.tid != c.tid) })).modDie n
    (fun x => { x with relaunch := x.relaunch ++ old })
  let s := s.modCard c.tid (fun c => { c with die := n })
  if gangs.isEmpty then s
  else if s.worldRuns c.image.world && c.image.idem && decide (c.relaunches < c.image.retry) then
    gangs.foldl (fun s g => s.queueAgain n c.tid g ((List.range c.image.gang).map (fun i => g * c.image.gang + i)) true)
      (s.modCard c.tid (fun c => { c with relaunches := c.relaunches + 1 }))
  else s.failCard c.tid (if c.image.idem then 0x05 else 0x04) 0x20

/-- Die n takes over what die d's task unit held (R296). -/
def State.adopt (s : State) (n d : Nat) : State := (s.cards.filter (fun c => c.die == d)).foldl (fun s c => s.adoptCard n d c) s

/-- `SILENCE_NOTICE_RECEIVE` (R242, R354): a die's task unit starts the hold of relaunches, and the next die in service takes over the
silent die's cards. The die's other attach pier fences it (R239); at the latest the adopting die's task unit finds it fenced
(notes/assumptions/28.md). -/
def State.silenceNotice (s : State) (id : Nat) : State :=
  match s.notices.find? (fun n => n.1 == id) with
  | some (_, .silence node subject) =>
    let s := { s with notices := s.notices.filter (fun n => n.1 != id) }
    let declared := decide (subject < 8) && (s.die subject).declared.isSome
    if declared && node == 8 + otherAttach subject ((s.die subject).declared.getD 0) then s.fenceDie subject
    else if 8 ≤ node ∨ s.dieUp node = false ∨ (s.die node).silent = true then s
    else
      let s := s.modDie node (fun x => { x with holds := (subject, 0) :: x.holds.filter (fun h => h.1 != subject) })
      if subject < 8 ∧ ((s.die subject).silent = true ∨ declared = true) ∧ s.nextDie subject = some node then
        (s.fenceDie subject).adopt node subject
      else s
  | _ => s

def execSilenceNoticeReceive (id : Nat) (s : State) : Answered := .next (s.silenceNotice id)

/-- `RELAUNCH_HOLD_RELEASE` (R354): the die's table holds no entry of the holder, or 16 of its rounds have passed. -/
def State.holdRelease (s : State) (d : Nat) : State :=
  let ended := ((s.die d).holds.filter (fun h => decide (16 ≤ h.2) || !((s.node d).table.any (fun a => a.holder == h.1)))).map Prod.fst
  s.modDie d (fun x =>
    { x with holds := x.holds.filter (fun h => !ended.contains h.1)
             relaunch := x.relaunch.map (fun (r : Relaunch) => { r with held := r.held.filter (fun h => !ended.contains h) }) })

def execRelaunchHoldRelease (die : Nat) (s : State) : Answered := .next (s.holdRelease die)

end Sys2Proof.Machine
end

