-- ==== Sys2Proof/Machine/Float.lean ====
section
/-! DEFINITION. Lane-class floating-point, packed, special-function, conversion, dot-product, scaling and FCMP instructions
(spec/06 R115 to R122, R124; spec/05). The arithmetic is Fp.lean's. -/

namespace Sys2Proof.Machine

/-! ## Shapes -/

/-- A 32-bit pattern of FP32 arithmetic with its flags. -/
def ofFp (r : Nat × Flags) : Word × Flags := (BitVec.ofNat 32 r.1, r.2)

/-- F(x) of an FP32 word. -/
def f32 (x : Word) : FVal := fp32.val x.toNat

/-- vd ← f(a, b) in FP32 under RM. -/
def fpBin (d a b : BitVec 7) (u : BitVec 1) (f : BitVec 2 → Word → Word → Nat × Flags) : Plan :=
  lanePlan d.toNat a.toNat (some (b.toNat, u)) false (fun rm xs => ofFp (f rm (xs.getD 0 0) (xs.getD 1 0)))

/-- vd ← f(a, b, old vd) in FP32 under RM. -/
def fpTri (d a b : BitVec 7) (u : BitVec 1) (f : BitVec 2 → Word → Word → Word → Nat × Flags) : Plan :=
  lanePlan d.toNat a.toNat (some (b.toNat, u)) true (fun rm xs => ofFp (f rm (xs.getD 0 0) (xs.getD 1 0) (xs.getD 2 0)))

/-- vd ← f(a). -/
def fpUn (d a : BitVec 7) (f : BitVec 2 → Word → Nat × Flags) : Plan :=
  lanePlan d.toNat a.toNat none false (fun rm xs => ofFp (f rm (xs.getD 0 0)))

/-- Element i of width w bits of a word (R92). -/
def elemOf (x : Word) (w i : Nat) : Nat := x.toNat / 2 ^ (w * i) % 2 ^ w

/-- Join two 16-bit results (R117). -/
def pack2 (lo hi : Nat × Flags) : Word × Flags := (BitVec.ofNat 32 (lo.1 + 2 ^ 16 * hi.1), lo.2 ||| hi.2)

/-- A packed operation of two sources (R117). -/
def packBin (d a b : BitVec 7) (u : BitVec 1) (f : BitVec 2 → Nat → Nat → Nat × Flags) : Plan :=
  lanePlan d.toNat a.toNat (some (b.toNat, u)) false (fun rm xs =>
    let g := fun i => f rm (elemOf (xs.getD 0 0) 16 i) (elemOf (xs.getD 1 0) 16 i)
    pack2 (g 0) (g 1))

/-- A packed fused multiply-add (R117). -/
def packFma (fmt : Fmt) (d a b : BitVec 7) (u : BitVec 1) : Plan :=
  lanePlan d.toNat a.toNat (some (b.toNat, u)) true (fun rm xs =>
    let g := fun i => fmt.fma rm (fmt.val (elemOf (xs.getD 0 0) 16 i)) (fmt.val (elemOf (xs.getD 1 0) 16 i))
      (fmt.val (elemOf (xs.getD 2 0) 16 i))
    pack2 (g 0) (g 1))

/-- Two FP32 values packed as 16-bit elements (R119). -/
def pack16 (fmt : Fmt) (d a b : BitVec 7) (u : BitVec 1) : Plan :=
  lanePlan d.toNat a.toNat (some (b.toNat, u)) false (fun rm xs =>
    pack2 (fmt.convert rm (f32 (xs.getD 0 0))) (fmt.convert rm (f32 (xs.getD 1 0))))

/-- Two FP32 values packed as bytes into the low or high half of vd, the other half kept (R119, R120). -/
def pack8 (fmt : Fmt) (high : Bool) (d a b : BitVec 7) (u : BitVec 1) : Plan :=
  lanePlan d.toNat a.toNat (some (b.toNat, u)) true (fun rm xs =>
    let x := fmt.convert rm (f32 (xs.getD 0 0))
    let y := fmt.convert rm (f32 (xs.getD 1 0))
    let h := x.1 + 2 ^ 8 * y.1
    let old := (xs.getD 2 0).toNat
    let w := if high then h * 2 ^ 16 + old % 2 ^ 16 else old / 2 ^ 16 * 2 ^ 16 + h
    (BitVec.ofNat 32 w, x.2 ||| y.2))

/-- Element e of a word widened to FP32 (R119); an element number past the word traps 0x01. -/
def widen (fmt : Fmt) (w top : Nat) (d a e : BitVec 7) : Plan :=
  { lanePlan d.toNat a.toNat none false (fun _ xs =>
      ofFp (fp32.convert 0 (fmt.val (elemOf (xs.getD 0 0) w e.toNat)))) with
    ill := illElement e top }

/-- To an integer with saturation (R102). -/
def toInt (lo hi : Int) (d a : BitVec 7) : Plan :=
  lanePlan d.toNat a.toNat none false (fun rm xs =>
    let r := toIntSat rm lo hi (f32 (xs.getD 0 0))
    (BitVec.ofInt 32 r.1, r.2))

/-- An element of a dot product (R121). -/
def dotElem (isSigned : Bool) (x : Word) (w i : Nat) : Int :=
  let n := elemOf x w i
  if isSigned && decide (2 ^ (w - 1) ≤ n) then (n : Int) - 2 ^ w else n

/-- An integer dot product of 32/w elements (R121). -/
def dotPlan (w : Nat) (sa sb : Bool) (d a b : BitVec 7) (u : BitVec 1) : Plan :=
  laneTri d a b u (fun x y z =>
    BitVec.ofInt 32 ((List.range (32 / w)).foldl (fun acc i => acc + dotElem sa x w i * dotElem sb y w i) z.toInt))

/-- A floating dot product of four bytes (R121). -/
def dotF (fmt : Fmt) (d a b : BitVec 7) (u : BitVec 1) : Plan :=
  fpTri d a b u (fun _ x y z =>
    dotFp ((List.range 4).map (fun i => fmt.val (elemOf x 8 i))) ((List.range 4).map (fun i => fmt.val (elemOf y 8 i))) (f32 z))

/-- The exponent that the used scale bytes give, and whether one of them is 0xFF (R105). -/
def scaleExp (y : Word) (two : Bool) : Int × Bool :=
  let e0 := elemOf y 8 0
  let e1 := elemOf y 8 1
  if two then ((e0 : Int) + e1 - 254, e0 == 0xFF || e1 == 0xFF) else ((e0 : Int) - 127, e0 == 0xFF)

/-- `scacc` and `scacc2` (R105, R122). -/
def scaccPlan (two : Bool) (d a b : BitVec 7) (u : BitVec 1) : Plan :=
  fpTri d a b u (fun rm x y z =>
    let e := scaleExp y two
    scaleFp rm x.toInt e.1 e.2 (some (f32 z)))

/-- An FCMP condition (R124): the relation of two numbers, the result with a NaN, and whether any NaN sets NV. -/
def fcmp (p : BitVec 3) (a b : BitVec 7) (u : BitVec 1) (c : BitVec 2) (rel : FVal → FVal → Bool) (withNan anyNan : Bool) : Plan :=
  cmpPlan p a b u c (fun x y =>
    let x := f32 x
    let y := f32 y
    if x.isNan || y.isNan then (withNan, flagIf (anyNan || x.isSnan || y.isSnan) flagNV) else (rel x y, 0))

/-- Equal as reals. -/
def FVal.same (x y : FVal) : Bool := !x.lt y && !y.lt x

/-! ## FALU (R115, R116) -/

/-- `FADD` (R115). Adds FP32 values per lane under RM. -/
def planFadd (d : BitVec 7) (a : BitVec 7) (b : BitVec 7) (u : BitVec 1) : Plan :=
  fpBin d a b u (fun rm x y => fp32.addV rm (f32 x) (f32 y))

def execFadd (d : BitVec 7) (a : BitVec 7) (b : BitVec 7) (u : BitVec 1) (s : State) : Answered := issue (.fadd d a b u) (planFadd d a b u) s

/-- `FSUB` (R115). Subtracts FP32 values per lane under RM. -/
def planFsub (d : BitVec 7) (a : BitVec 7) (b : BitVec 7) (u : BitVec 1) : Plan :=
  fpBin d a b u (fun rm x y => fp32.addV rm (f32 x) (f32 y).neg)

def execFsub (d : BitVec 7) (a : BitVec 7) (b : BitVec 7) (u : BitVec 1) (s : State) : Answered := issue (.fsub d a b u) (planFsub d a b u) s

/-- `FMUL` (R115). Multiplies FP32 values per lane under RM. -/
def planFmul (d : BitVec 7) (a : BitVec 7) (b : BitVec 7) (u : BitVec 1) : Plan :=
  fpBin d a b u (fun rm x y => fp32.mul rm (f32 x) (f32 y))

def execFmul (d : BitVec 7) (a : BitVec 7) (b : BitVec 7) (u : BitVec 1) (s : State) : Answered := issue (.fmul d a b u) (planFmul d a b u) s

/-- `FMIN` (R115). Writes the IEEE minimumNumber per lane. -/
def planFmin (d : BitVec 7) (a : BitVec 7) (b : BitVec 7) (u : BitVec 1) : Plan :=
  fpBin d a b u (fun _ x y => fp32.minMax false x.toNat y.toNat)

def execFmin (d : BitVec 7) (a : BitVec 7) (b : BitVec 7) (u : BitVec 1) (s : State) : Answered := issue (.fmin d a b u) (planFmin d a b u) s

/-- `FMAX` (R115). Writes the IEEE maximumNumber per lane. -/
def planFmax (d : BitVec 7) (a : BitVec 7) (b : BitVec 7) (u : BitVec 1) : Plan :=
  fpBin d a b u (fun _ x y => fp32.minMax true x.toNat y.toNat)

def execFmax (d : BitVec 7) (a : BitVec 7) (b : BitVec 7) (u : BitVec 1) (s : State) : Answered := issue (.fmax d a b u) (planFmax d a b u) s

/-- `FMA` (R115). Writes va·vb + vd with one rounding per lane. -/
def planFma (d : BitVec 7) (a : BitVec 7) (b : BitVec 7) (u : BitVec 1) : Plan :=
  fpTri d a b u (fun rm x y z => fp32.fma rm (f32 x) (f32 y) (f32 z))

def execFma (d : BitVec 7) (a : BitVec 7) (b : BitVec 7) (u : BitVec 1) (s : State) : Answered := issue (.fma d a b u) (planFma d a b u) s

/-- `FNMA` (R115). Writes −(va·vb) + vd with one rounding per lane. -/
def planFnma (d : BitVec 7) (a : BitVec 7) (b : BitVec 7) (u : BitVec 1) : Plan :=
  fpTri d a b u (fun rm x y z => fp32.fnma rm (f32 x) (f32 y) (f32 z))

def execFnma (d : BitVec 7) (a : BitVec 7) (b : BitVec 7) (u : BitVec 1) (s : State) : Answered := issue (.fnma d a b u) (planFnma d a b u) s

/-- `FCOPYSIGN` (R115). Copies a with the sign bit of b per lane. -/
def planFcopysign (d : BitVec 7) (a : BitVec 7) (b : BitVec 7) (u : BitVec 1) : Plan :=
  fpBin d a b u (fun _ x y =>
    if (f32 x).isNan then (fp32.canon, flagIf (f32 x).isSnan flagNV) else (x.toNat % 2 ^ 31 + y.toNat / 2 ^ 31 * 2 ^ 31, 0))

def execFcopysign (d : BitVec 7) (a : BitVec 7) (b : BitVec 7) (u : BitVec 1) (s : State) : Answered := issue (.fcopysign d a b u) (planFcopysign d a b u) s

/-! ## HALU (R117) -/

/-- `HADD2` (R117). Adds packed FP16 pairs. -/
def planHadd2 (d : BitVec 7) (a : BitVec 7) (b : BitVec 7) (u : BitVec 1) : Plan :=
  packBin d a b u (fun rm x y => fp16.addV rm (fp16.val x) (fp16.val y))

def execHadd2 (d : BitVec 7) (a : BitVec 7) (b : BitVec 7) (u : BitVec 1) (s : State) : Answered := issue (.hadd2 d a b u) (planHadd2 d a b u) s

/-- `HMUL2` (R117). Multiplies packed FP16 pairs. -/
def planHmul2 (d : BitVec 7) (a : BitVec 7) (b : BitVec 7) (u : BitVec 1) : Plan :=
  packBin d a b u (fun rm x y => fp16.mul rm (fp16.val x) (fp16.val y))

def execHmul2 (d : BitVec 7) (a : BitVec 7) (b : BitVec 7) (u : BitVec 1) (s : State) : Answered := issue (.hmul2 d a b u) (planHmul2 d a b u) s

/-- `HFMA2` (R117). Fused multiply-adds packed FP16 pairs. -/
def planHfma2 (d : BitVec 7) (a : BitVec 7) (b : BitVec 7) (u : BitVec 1) : Plan :=
  packFma fp16 d a b u

def execHfma2 (d : BitVec 7) (a : BitVec 7) (b : BitVec 7) (u : BitVec 1) (s : State) : Answered := issue (.hfma2 d a b u) (planHfma2 d a b u) s

/-- `BADD2` (R117). Adds packed BF16 pairs. -/
def planBadd2 (d : BitVec 7) (a : BitVec 7) (b : BitVec 7) (u : BitVec 1) : Plan :=
  packBin d a b u (fun rm x y => bf16.addV rm (bf16.val x) (bf16.val y))

def execBadd2 (d : BitVec 7) (a : BitVec 7) (b : BitVec 7) (u : BitVec 1) (s : State) : Answered := issue (.badd2 d a b u) (planBadd2 d a b u) s

/-- `BMUL2` (R117). Multiplies packed BF16 pairs. -/
def planBmul2 (d : BitVec 7) (a : BitVec 7) (b : BitVec 7) (u : BitVec 1) : Plan :=
  packBin d a b u (fun rm x y => bf16.mul rm (bf16.val x) (bf16.val y))

def execBmul2 (d : BitVec 7) (a : BitVec 7) (b : BitVec 7) (u : BitVec 1) (s : State) : Answered := issue (.bmul2 d a b u) (planBmul2 d a b u) s

/-- `BFMA2` (R117). Fused multiply-adds packed BF16 pairs. -/
def planBfma2 (d : BitVec 7) (a : BitVec 7) (b : BitVec 7) (u : BitVec 1) : Plan :=
  packFma bf16 d a b u

def execBfma2 (d : BitVec 7) (a : BitVec 7) (b : BitVec 7) (u : BitVec 1) (s : State) : Answered := issue (.bfma2 d a b u) (planBfma2 d a b u) s

/-- `HMIN2` (R117). Writes the packed FP16 minimum. -/
def planHmin2 (d : BitVec 7) (a : BitVec 7) (b : BitVec 7) (u : BitVec 1) : Plan :=
  packBin d a b u (fun _ x y => fp16.minMax false x y)

def execHmin2 (d : BitVec 7) (a : BitVec 7) (b : BitVec 7) (u : BitVec 1) (s : State) : Answered := issue (.hmin2 d a b u) (planHmin2 d a b u) s

/-- `HMAX2` (R117). Writes the packed FP16 maximum. -/
def planHmax2 (d : BitVec 7) (a : BitVec 7) (b : BitVec 7) (u : BitVec 1) : Plan :=
  packBin d a b u (fun _ x y => fp16.minMax true x y)

def execHmax2 (d : BitVec 7) (a : BitVec 7) (b : BitVec 7) (u : BitVec 1) (s : State) : Answered := issue (.hmax2 d a b u) (planHmax2 d a b u) s

/-! ## FSPEC (R118) -/

/-- `FRCP` (R118). Writes the approximate FP32 reciprocal per lane. -/
def planFrcp (d : BitVec 7) (a : BitVec 7) : Plan :=
  fpUn d a (fun _ x => frcp32 x (f32 x))

def execFrcp (d : BitVec 7) (a : BitVec 7) (s : State) : Answered := issue (.frcp d a) (planFrcp d a) s

/-- `FRSQ` (R118). Writes the approximate reciprocal square root per lane. -/
def planFrsq (d : BitVec 7) (a : BitVec 7) : Plan :=
  fpUn d a (fun _ x => frsq32 x (f32 x))

def execFrsq (d : BitVec 7) (a : BitVec 7) (s : State) : Answered := issue (.frsq d a) (planFrsq d a) s

/-- `FSQRT` (R118). Writes the correctly rounded square root per lane. -/
def planFsqrt (d : BitVec 7) (a : BitVec 7) : Plan :=
  fpUn d a (fun _ x => fsqrt32 (f32 x))

def execFsqrt (d : BitVec 7) (a : BitVec 7) (s : State) : Answered := issue (.fsqrt d a) (planFsqrt d a) s

/-- `FEXP2` (R118). Writes the approximate base-2 exponential per lane. -/
def planFexp2 (d : BitVec 7) (a : BitVec 7) : Plan :=
  fpUn d a (fun _ x => fexp2_32 x (f32 x))

def execFexp2 (d : BitVec 7) (a : BitVec 7) (s : State) : Answered := issue (.fexp2 d a) (planFexp2 d a) s

/-- `FLOG2` (R118). Writes the approximate base-2 logarithm per lane. -/
def planFlog2 (d : BitVec 7) (a : BitVec 7) : Plan :=
  fpUn d a (fun _ x => flog2_32 x (f32 x))

def execFlog2 (d : BitVec 7) (a : BitVec 7) (s : State) : Answered := issue (.flog2 d a) (planFlog2 d a) s

/-! ## CVT (R119, R120) -/

/-- `CVT_F_I` (R119). Converts a signed integer to FP32. -/
def planCvtFI (d : BitVec 7) (a : BitVec 7) : Plan :=
  fpUn d a (fun rm x => roundInt fp32 rm false x.toInt 0)

def execCvtFI (d : BitVec 7) (a : BitVec 7) (s : State) : Answered := issue (.cvtFI d a) (planCvtFI d a) s

/-- `CVT_F_U` (R119). Converts an unsigned integer to FP32. -/
def planCvtFU (d : BitVec 7) (a : BitVec 7) : Plan :=
  fpUn d a (fun rm x => roundInt fp32 rm false x.toNat 0)

def execCvtFU (d : BitVec 7) (a : BitVec 7) (s : State) : Answered := issue (.cvtFU d a) (planCvtFU d a) s

/-- `CVT_I_F` (R119). Converts FP32 to a saturated INT32. -/
def planCvtIF (d : BitVec 7) (a : BitVec 7) : Plan :=
  toInt (-2 ^ 31) (2 ^ 31 - 1) d a

def execCvtIF (d : BitVec 7) (a : BitVec 7) (s : State) : Answered := issue (.cvtIF d a) (planCvtIF d a) s

/-- `CVT_U_F` (R119). Converts FP32 to a saturated UINT32. -/
def planCvtUF (d : BitVec 7) (a : BitVec 7) : Plan :=
  toInt 0 (2 ^ 32 - 1) d a

def execCvtUF (d : BitVec 7) (a : BitVec 7) (s : State) : Answered := issue (.cvtUF d a) (planCvtUF d a) s

/-- `CVT_BFP` (R119). Packs two FP32 values as BF16. -/
def planCvtBfp (d : BitVec 7) (a : BitVec 7) (b : BitVec 7) (u : BitVec 1) : Plan :=
  pack16 bf16 d a b u

def execCvtBfp (d : BitVec 7) (a : BitVec 7) (b : BitVec 7) (u : BitVec 1) (s : State) : Answered := issue (.cvtBfp d a b u) (planCvtBfp d a b u) s

/-- `CVT_F_BF` (R119). Widens a BF16 element to FP32. -/
def planCvtFBf (d : BitVec 7) (a : BitVec 7) (e : BitVec 7) : Plan :=
  widen bf16 16 1 d a e

def execCvtFBf (d : BitVec 7) (a : BitVec 7) (e : BitVec 7) (s : State) : Answered := issue (.cvtFBf d a e) (planCvtFBf d a e) s

/-- `CVT_HP` (R119). Packs two FP32 values as FP16. -/
def planCvtHp (d : BitVec 7) (a : BitVec 7) (b : BitVec 7) (u : BitVec 1) : Plan :=
  pack16 fp16 d a b u

def execCvtHp (d : BitVec 7) (a : BitVec 7) (b : BitVec 7) (u : BitVec 1) (s : State) : Answered := issue (.cvtHp d a b u) (planCvtHp d a b u) s

/-- `CVT_F_H` (R119). Widens an FP16 element to FP32. -/
def planCvtFH (d : BitVec 7) (a : BitVec 7) (e : BitVec 7) : Plan :=
  widen fp16 16 1 d a e

def execCvtFH (d : BitVec 7) (a : BitVec 7) (e : BitVec 7) (s : State) : Answered := issue (.cvtFH d a e) (planCvtFH d a e) s

/-- `CVT_E4L` (R119). Packs two FP32 values into the low bytes as E4M3. -/
def planCvtE4l (d : BitVec 7) (a : BitVec 7) (b : BitVec 7) (u : BitVec 1) : Plan :=
  pack8 e4m3 false d a b u

def execCvtE4l (d : BitVec 7) (a : BitVec 7) (b : BitVec 7) (u : BitVec 1) (s : State) : Answered := issue (.cvtE4l d a b u) (planCvtE4l d a b u) s

/-- `CVT_E4H` (R119). Packs two FP32 values into the high bytes as E4M3. -/
def planCvtE4h (d : BitVec 7) (a : BitVec 7) (b : BitVec 7) (u : BitVec 1) : Plan :=
  pack8 e4m3 true d a b u

def execCvtE4h (d : BitVec 7) (a : BitVec 7) (b : BitVec 7) (u : BitVec 1) (s : State) : Answered := issue (.cvtE4h d a b u) (planCvtE4h d a b u) s

/-- `CVT_F_E4` (R119). Widens an E4M3 element to FP32. -/
def planCvtFE4 (d : BitVec 7) (a : BitVec 7) (e : BitVec 7) : Plan :=
  widen e4m3 8 3 d a e

def execCvtFE4 (d : BitVec 7) (a : BitVec 7) (e : BitVec 7) (s : State) : Answered := issue (.cvtFE4 d a e) (planCvtFE4 d a e) s

/-- `CVT_E5L` (R119). Packs two FP32 values into the low bytes as E5M2. -/
def planCvtE5l (d : BitVec 7) (a : BitVec 7) (b : BitVec 7) (u : BitVec 1) : Plan :=
  pack8 e5m2 false d a b u

def execCvtE5l (d : BitVec 7) (a : BitVec 7) (b : BitVec 7) (u : BitVec 1) (s : State) : Answered := issue (.cvtE5l d a b u) (planCvtE5l d a b u) s

/-- `CVT_E5H` (R119). Packs two FP32 values into the high bytes as E5M2. -/
def planCvtE5h (d : BitVec 7) (a : BitVec 7) (b : BitVec 7) (u : BitVec 1) : Plan :=
  pack8 e5m2 true d a b u

def execCvtE5h (d : BitVec 7) (a : BitVec 7) (b : BitVec 7) (u : BitVec 1) (s : State) : Answered := issue (.cvtE5h d a b u) (planCvtE5h d a b u) s

/-- `CVT_F_E5` (R119). Widens an E5M2 element to FP32. -/
def planCvtFE5 (d : BitVec 7) (a : BitVec 7) (e : BitVec 7) : Plan :=
  widen e5m2 8 3 d a e

def execCvtFE5 (d : BitVec 7) (a : BitVec 7) (e : BitVec 7) (s : State) : Answered := issue (.cvtFE5 d a e) (planCvtFE5 d a e) s

/-! ## DOT and SCALE (R121, R122) -/

/-- `DP4_S8` (R121). Accumulates a signed INT8 four-element dot product. -/
def planDp4S8 (d : BitVec 7) (a : BitVec 7) (b : BitVec 7) (u : BitVec 1) : Plan :=
  dotPlan 8 true true d a b u

def execDp4S8 (d : BitVec 7) (a : BitVec 7) (b : BitVec 7) (u : BitVec 1) (s : State) : Answered := issue (.dp4S8 d a b u) (planDp4S8 d a b u) s

/-- `DP4_N8` (R121). Accumulates an unsigned INT8 dot product. -/
def planDp4N8 (d : BitVec 7) (a : BitVec 7) (b : BitVec 7) (u : BitVec 1) : Plan :=
  dotPlan 8 false false d a b u

def execDp4N8 (d : BitVec 7) (a : BitVec 7) (b : BitVec 7) (u : BitVec 1) (s : State) : Answered := issue (.dp4N8 d a b u) (planDp4N8 d a b u) s

/-- `DP4_SN8` (R121). Accumulates a signed-by-unsigned INT8 dot product. -/
def planDp4Sn8 (d : BitVec 7) (a : BitVec 7) (b : BitVec 7) (u : BitVec 1) : Plan :=
  dotPlan 8 true false d a b u

def execDp4Sn8 (d : BitVec 7) (a : BitVec 7) (b : BitVec 7) (u : BitVec 1) (s : State) : Answered := issue (.dp4Sn8 d a b u) (planDp4Sn8 d a b u) s

/-- `DP8_S4` (R121). Accumulates a signed INT4 eight-element dot product. -/
def planDp8S4 (d : BitVec 7) (a : BitVec 7) (b : BitVec 7) (u : BitVec 1) : Plan :=
  dotPlan 4 true true d a b u

def execDp8S4 (d : BitVec 7) (a : BitVec 7) (b : BitVec 7) (u : BitVec 1) (s : State) : Answered := issue (.dp8S4 d a b u) (planDp8S4 d a b u) s

/-- `DP8_N4` (R121). Accumulates an unsigned INT4 dot product. -/
def planDp8N4 (d : BitVec 7) (a : BitVec 7) (b : BitVec 7) (u : BitVec 1) : Plan :=
  dotPlan 4 false false d a b u

def execDp8N4 (d : BitVec 7) (a : BitVec 7) (b : BitVec 7) (u : BitVec 1) (s : State) : Answered := issue (.dp8N4 d a b u) (planDp8N4 d a b u) s

/-- `DP8_SN4` (R121). Accumulates a signed-by-unsigned INT4 dot product. -/
def planDp8Sn4 (d : BitVec 7) (a : BitVec 7) (b : BitVec 7) (u : BitVec 1) : Plan :=
  dotPlan 4 true false d a b u

def execDp8Sn4 (d : BitVec 7) (a : BitVec 7) (b : BitVec 7) (u : BitVec 1) (s : State) : Answered := issue (.dp8Sn4 d a b u) (planDp8Sn4 d a b u) s

/-- `DP4_E4` (R121). Accumulates an E4M3 dot product into FP32 with one RNE rounding. -/
def planDp4E4 (d : BitVec 7) (a : BitVec 7) (b : BitVec 7) (u : BitVec 1) : Plan :=
  dotF e4m3 d a b u

def execDp4E4 (d : BitVec 7) (a : BitVec 7) (b : BitVec 7) (u : BitVec 1) (s : State) : Answered := issue (.dp4E4 d a b u) (planDp4E4 d a b u) s

/-- `DP4_E5` (R121). Accumulates an E5M2 dot product into FP32 with one RNE rounding. -/
def planDp4E5 (d : BitVec 7) (a : BitVec 7) (b : BitVec 7) (u : BitVec 1) : Plan :=
  dotF e5m2 d a b u

def execDp4E5 (d : BitVec 7) (a : BitVec 7) (b : BitVec 7) (u : BitVec 1) (s : State) : Answered := issue (.dp4E5 d a b u) (planDp4E5 d a b u) s

/-- `SCACC` (R122). Adds an integer scaled by one E8M0 byte into FP32. -/
def planScacc (d : BitVec 7) (a : BitVec 7) (b : BitVec 7) (u : BitVec 1) : Plan :=
  scaccPlan false d a b u

def execScacc (d : BitVec 7) (a : BitVec 7) (b : BitVec 7) (u : BitVec 1) (s : State) : Answered := issue (.scacc d a b u) (planScacc d a b u) s

/-- `SCACC2` (R122). Adds an integer scaled by two E8M0 bytes into FP32. -/
def planScacc2 (d : BitVec 7) (a : BitVec 7) (b : BitVec 7) (u : BitVec 1) : Plan :=
  scaccPlan true d a b u

def execScacc2 (d : BitVec 7) (a : BitVec 7) (b : BitVec 7) (u : BitVec 1) (s : State) : Answered := issue (.scacc2 d a b u) (planScacc2 d a b u) s

/-- `SCMUL` (R122). Writes an integer scaled by one E8M0 byte as FP32. -/
def planScmul (d : BitVec 7) (a : BitVec 7) (b : BitVec 7) (u : BitVec 1) : Plan :=
  fpBin d a b u (fun rm x y =>
    let e := scaleExp y false
    scaleFp rm x.toInt e.1 e.2 none)

def execScmul (d : BitVec 7) (a : BitVec 7) (b : BitVec 7) (u : BitVec 1) (s : State) : Answered := issue (.scmul d a b u) (planScmul d a b u) s

/-! ## FCMP (R124) -/

/-- `FCMP_EQ` (R124). Writes the FP32 equal test into a predicate. -/
def planFcmpEq (p : BitVec 3) (a : BitVec 7) (b : BitVec 7) (u : BitVec 1) (c : BitVec 2) : Plan :=
  fcmp p a b u c FVal.same false false

def execFcmpEq (p : BitVec 3) (a : BitVec 7) (b : BitVec 7) (u : BitVec 1) (c : BitVec 2) (s : State) : Answered := issue (.fcmpEq p a b u c) (planFcmpEq p a b u c) s

/-- `FCMP_NE` (R124). Writes the FP32 not-equal test. -/
def planFcmpNe (p : BitVec 3) (a : BitVec 7) (b : BitVec 7) (u : BitVec 1) (c : BitVec 2) : Plan :=
  fcmp p a b u c (fun x y => !x.same y) true false

def execFcmpNe (p : BitVec 3) (a : BitVec 7) (b : BitVec 7) (u : BitVec 1) (c : BitVec 2) (s : State) : Answered := issue (.fcmpNe p a b u c) (planFcmpNe p a b u c) s

/-- `FCMP_LT` (R124). Writes the FP32 ordered less-than test. -/
def planFcmpLt (p : BitVec 3) (a : BitVec 7) (b : BitVec 7) (u : BitVec 1) (c : BitVec 2) : Plan :=
  fcmp p a b u c FVal.lt false true

def execFcmpLt (p : BitVec 3) (a : BitVec 7) (b : BitVec 7) (u : BitVec 1) (c : BitVec 2) (s : State) : Answered := issue (.fcmpLt p a b u c) (planFcmpLt p a b u c) s

/-- `FCMP_LE` (R124). Writes the FP32 ordered less-or-equal test. -/
def planFcmpLe (p : BitVec 3) (a : BitVec 7) (b : BitVec 7) (u : BitVec 1) (c : BitVec 2) : Plan :=
  fcmp p a b u c (fun x y => !y.lt x) false true

def execFcmpLe (p : BitVec 3) (a : BitVec 7) (b : BitVec 7) (u : BitVec 1) (c : BitVec 2) (s : State) : Answered := issue (.fcmpLe p a b u c) (planFcmpLe p a b u c) s

/-- `FCMP_GT` (R124). Writes the FP32 ordered greater-than test. -/
def planFcmpGt (p : BitVec 3) (a : BitVec 7) (b : BitVec 7) (u : BitVec 1) (c : BitVec 2) : Plan :=
  fcmp p a b u c (fun x y => y.lt x) false true

def execFcmpGt (p : BitVec 3) (a : BitVec 7) (b : BitVec 7) (u : BitVec 1) (c : BitVec 2) (s : State) : Answered := issue (.fcmpGt p a b u c) (planFcmpGt p a b u c) s

/-- `FCMP_GE` (R124). Writes the FP32 ordered greater-or-equal test. -/
def planFcmpGe (p : BitVec 3) (a : BitVec 7) (b : BitVec 7) (u : BitVec 1) (c : BitVec 2) : Plan :=
  fcmp p a b u c (fun x y => !x.lt y) false true

def execFcmpGe (p : BitVec 3) (a : BitVec 7) (b : BitVec 7) (u : BitVec 1) (c : BitVec 2) (s : State) : Answered := issue (.fcmpGe p a b u c) (planFcmpGe p a b u c) s

/-- `FCMP_UN` (R124). Writes 1 where either operand is NaN. -/
def planFcmpUn (p : BitVec 3) (a : BitVec 7) (b : BitVec 7) (u : BitVec 1) (c : BitVec 2) : Plan :=
  fcmp p a b u c (fun _ _ => false) true false

def execFcmpUn (p : BitVec 3) (a : BitVec 7) (b : BitVec 7) (u : BitVec 1) (c : BitVec 2) (s : State) : Answered := issue (.fcmpUn p a b u c) (planFcmpUn p a b u c) s

/-- `FCMP_ORD` (R124). Writes 1 where neither operand is NaN. -/
def planFcmpOrd (p : BitVec 3) (a : BitVec 7) (b : BitVec 7) (u : BitVec 1) (c : BitVec 2) : Plan :=
  fcmp p a b u c (fun _ _ => true) false false

def execFcmpOrd (p : BitVec 3) (a : BitVec 7) (b : BitVec 7) (u : BitVec 1) (c : BitVec 2) (s : State) : Answered := issue (.fcmpOrd p a b u c) (planFcmpOrd p a b u c) s

end Sys2Proof.Machine
end

