-- ==== Sys2Proof/Machine/Net.lean ====
section
/-! DEFINITION. The network engine (spec/16): commands of the teams, packets and their delivery in sequence, results, retransmission,
rates and the record cache. The messages that set connections up stand in Manage.lean. -/

namespace Sys2Proof.Machine

/-! ## Connections -/

/-- Where a world's table in host memory has a record, if it reaches that far (R318, NET_TABLE_SET). -/
def World.recordTable (w : World) (c : Nat) : Option PA :=
  match w.netTable with
  | some (pa, n) => if c < n then some pa else none
  | none => none

/-- A record written back to a table in host memory. -/
def State.hostRecord (s : State) (c : Nat) : Option Conn :=
  s.worlds.findSome? (fun w => match w.2.recordTable c with
    | some pa => (s.net.hostTable.find? (fun e => e.1 == pa && e.2.1 == c)).map (fun e => e.2.2)
    | none => none)

/-- A connection's record: the engine's, else the one in host memory. -/
def State.conn? (s : State) (c : Nat) : Option Conn :=
  match tget none s.net.conns c with
  | some x => some x
  | none => s.hostRecord c

def State.modConn (s : State) (c : Nat) (f : Conn → Conn) : State :=
  match s.conn? c with
  | some x => { s with net := { s.net with conns := tset none s.net.conns c (some (f x)) } }
  | none => s

/-- A record leaves the cache: it is written back to its world's table in host memory (R318). One for which no table has a place stays with
the engine (DEDUCED, notes/assumptions/51.md). -/
def State.evict (s : State) (c : Nat) : State :=
  match tget none s.net.conns c with
  | none => s
  | some x =>
    match (s.world x.world).recordTable c with
    | none => s
    | some pa =>
      { s with net := { s.net with conns := tset none s.net.conns c none
                                   hostTable := s.net.hostTable.filter (fun e => e.2.1 != c) ++ [(pa, c, x)] } }

/-- A record is used: it is cached as the latest, and the least recently used leaves a full cache (R318). -/
def State.touch (s : State) (c : Nat) : State :=
  let s := s.modConn c id
  let cached := c :: s.net.cached.filter (· != c)
  let s := { s with net := { s.net with cached := cached.take 4096 } }
  match cached[4096]? with
  | some v => s.evict v
  | none => s

/-- The count by which a connection's port measures time (R10, R22). -/
def State.portDcc (s : State) (x : Conn) : BitVec 64 := s.abutDcc (x.port / 8)

/-! ## Sending (R317, R323) -/

/-- The 24 bytes of a header (R317). -/
def headerBytes (version opcode : BitVec 8) (flags : BitVec 16) (conn seq iv : BitVec 32) (offset : BitVec 64) : List PByte :=
  leBytes 1 version.toNat ++ leBytes 1 opcode.toNat ++ leBytes 2 flags.toNat ++ leBytes 4 conn.toNat ++ leBytes 4 seq.toNat ++ leBytes 4 iv.toNat
  ++ leBytes 8 offset.toNat

/-- A datagram leaves: the IV counter advances first. One that would pass 0xFFFFFFFF is not sent, and the management core reports
the key exhausted once. -/
def State.emit (s : State) (c : Nat) (opcode : BitVec 8) (flags : BitVec 16) (seq : BitVec 32) (offset : BitVec 64)
    (payload : List PByte) : State × Bool :=
  match s.conn? c with
  | none => (s, false)
  | some x =>
    match x.key with
    | none => (s, false)
    | some key =>
      if x.iv = 0xFFFFFFFF then
        if x.exhausted then (s, false)
        else
          let r : Response := { request := "KEY_EXHAUSTED", sess := 0, error := false, status := 0, words := [BitVec.ofNat 64 c] }
          ((s.respond r).modConn c (fun x => { x with exhausted := true }), false)
      else
        let iv := x.iv + 1
        let d : Sent :=
          { port := x.port, peer := x.peer, udp := x.udp, version := 1, opcode := opcode, flags := flags, conn := x.peerConn, seq := seq, iv := iv
            offset := offset, payload := payload, nonce := x.salt ++ iv
            tag := Config.gcmTag key (x.salt ++ iv) (headerBytes 1 opcode flags (x.peerConn.setWidth 32) seq iv offset) payload }
        let s := (s.modConn c (fun x => { x with iv := iv })).touch c
        ({ s with net := { s.net with sent := s.net.sent ++ [d] } }, true)

/-- Answers that waited for a key are sent (R323). -/
def State.sendAnswers (s : State) (c : Nat) : List HeldAnswer → State
  | [] => s
  | a :: rest =>
    let (s, ok) := s.emit c a.opcode a.flags a.seq 0 a.payload
    if ok then (s.modConn c (fun x => { x with answers := x.answers.tail })).sendAnswers c rest else s

/-- Send what a connection holds to be sent, in sequence, until one may not be sent. -/
def State.sendHeld (s : State) (c : Nat) : List NetPkt → State
  | [] => s
  | p :: rest =>
    if p.sent || p.rnr.isSome then s.sendHeld c rest
    else
      let (s, ok) := s.emit c p.opcode (if p.last then 2 else 0) p.seq p.offset p.payload
      if ok then
        (s.modConn c (fun x => { x with unackd := x.unackd.map (fun (q : NetPkt) =>
          if q.seq == p.seq then { q with sent := true, sentAt := s.portDcc x } else q) })).sendHeld c rest
      else s

/-- What a connection holds: answers, then packets. -/
def State.sendConn (s : State) (c : Nat) : State :=
  match s.conn? c with
  | some x => (s.sendAnswers c x.answers).sendHeld c x.unackd
  | none => s

/-- Append packets of a command with the next sequence numbers. -/
def State.queuePkts (s : State) (c cmd : Nat) (opcode : BitVec 8) : List (BitVec 64 × List PByte) → State
  | [] => s
  | (off, pay) :: rest =>
    let s := s.modConn c (fun x =>
      { x with sendSeq := x.sendSeq + 1
               unackd := x.unackd ++ [{ seq := x.sendSeq, cmd := cmd, opcode := opcode, offset := off, payload := pay, last := rest.isEmpty }] })
    s.queuePkts c cmd opcode rest

/-- Chunks of at most n bytes with the offset of each; fuel is the number of bytes. -/
def chunksOf (n : Nat) : Nat → Nat → List PByte → List (Nat × List PByte)
  | _, _, [] => []
  | 0, _, _ => []
  | fuel + 1, off, bs => (off, bs.take n) :: chunksOf n fuel (off + n) (bs.drop n)

/-- Bytes cut at 16-byte boundaries of their address; fuel is the number of bytes. -/
def granulesOf : Nat → Nat → List PByte → List (Nat × List PByte)
  | _, _, [] => []
  | 0, _, _ => []
  | fuel + 1, a, bs => let n := 16 - a % 16; (a, bs.take n) :: granulesOf fuel (a + n) (bs.drop n)

/-! ## Commands (R324 to R327) -/

def State.netCmd? (s : State) (id : Nat) : Option NetCmd := s.net.cmds.find? (fun c => c.id == id)

def State.modCmd (s : State) (id : Nat) (f : NetCmd → NetCmd) : State :=
  { s with net := { s.net with cmds := s.net.cmds.map (fun c => if c.id == id then f c else c) } }

/-- A command is complete with a status, and with its last packet's sequence number, or a flush with the connection's next one (R327). A
command that sent no packet, or a flush whose connection has no record, has none: a free value (notes/assumptions/29.md). -/
def State.netDone (s : State) (id : Nat) (status : BitVec 8) : State :=
  match s.netCmd? id with
  | none => s
  | some c =>
    if c.result.isSome then s
    else
      let seq : BitVec 32 := if c.fn = 3 then (match s.conn? c.conn with | some x => x.sendSeq | none => Config.freeWord s.free)
        else if c.state = 2 then c.lastSeq else Config.freeWord s.free
      ({ s with free := s.free + 1 }).modCmd id (fun c => { c with status := status, result := some (seq ++ status.setWidth 32) })

/-- Results go to the team in the order its commands on the register issued (R327). -/
def State.netDeliver (s : State) : State :=
  s.net.cmds.foldl (fun s c =>
    match s.netCmd? c.id with
    | none => s
    | some x =>
      match x.result with
      | none => s
      | some r =>
        if (s.net.cmds.takeWhile (fun y => y.id != c.id)).any (fun y => y.team == c.team && y.q == c.q) then s
        else
          let s := { s with net := { s.net with cmds := s.net.cmds.filter (fun y => y.id != c.id) } }
          (s.pushResult c.team c.q r).modOp c.op (fun o => { o with parts := o.parts - 1 })) s

/-- A local fault (R326, R188): the command stops, the team's later waiting network commands go, and the team traps late; after
its end the card takes status 0x06. -/
def State.netFault (s : State) (c : NetCmd) (tr : Trap) : State :=
  let gone := s.net.cmds.filter (fun x => x.id == c.id || (x.team == c.team && x.state == 0 && decide (c.id < x.id)))
  let s := gone.foldl (fun s x => s.modOp x.op (fun o => { o with parts := o.parts - 1 }))
    { s with net := { s.net with cmds := s.net.cmds.filter (fun x => !gone.any (fun y => y.id == x.id)) } }
  let s := s.violated c.team tr
  match s.team? c.team, s.crew? c.crew with
  | some t, some k => if t.status = .ended then s.failCard k.tid 0x06 (tr.cause.setWidth 6) else s.lateTrap c.team c.hdrVA tr
  | _, _ => s

/-- n bytes from a VA in a command's context, by pieces of 16. -/
def State.netRead (s : State) (k : Crew) : Nat → Nat → Except Trap (State × List PByte)
  | 0, _ => .ok (s, [])
  | n + 1, va =>
    match s.copyRead k va 16 with
    | .error t => .error t
    | .ok (s, bs) => match s.netRead k n (va + 16) with
      | .error t => .error t
      | .ok (s, rest) => .ok (s, bs ++ rest)

/-- Bytes written at a VA in a command's context. -/
def State.netWrite (s : State) (k : Crew) (pieces : List (Nat × List PByte)) : Except Trap State :=
  pieces.foldl (fun acc p => match acc with
    | .error t => .error t
    | .ok s => s.copyWrite k p.1 p.2) (.ok s)

def NetCmd.localVA (c : NetCmd) : Nat := (c.block.getD 0 0).toNat + blk c.block 1 0 16 * 2 ^ 32
def NetCmd.length (c : NetCmd) : Nat := blk c.block 1 16 16
def NetCmd.remote (c : NetCmd) : Nat := (c.block.getD 2 0).toNat + blk c.block 3 0 16 * 2 ^ 32

/-- Why a command's connection does not take it: 1 when it is not established or of another world, 4 when it stopped (R321). -/
def State.connBad (s : State) (c : NetCmd) : Option (BitVec 8) :=
  match s.conn? c.conn with
  | none => some 1
  | some x => if x.world ≠ c.world then some 1 else if x.unreachable then some 4 else if x.up then none else some 1

/-- A command's packets are in sequence; the data of a get or an atomic are to come (R326). -/
def State.netStarted (s : State) (c : NetCmd) (pkts : List (BitVec 64 × List PByte)) (opcode : BitVec 8) : State :=
  let first := match s.conn? c.conn with | some x => x.sendSeq | none => 0
  let s := s.modCmd c.id (fun c => { c with state := 2, lastSeq := first + BitVec.ofNat 32 pkts.length - 1 })
  let s := if c.fn = 0 then s else s.modConn c.conn (fun x => { x with expects := x.expects ++ [c.id] })
  (s.queuePkts c.conn c.id opcode pkts).sendConn c.conn

/-- Start a command: put (0) reads its bytes and sends them, get (1) and at (2) send a request, flush (3) waits. -/
def State.netStart (s : State) (c : NetCmd) : State :=
  if c.fn ≤ 1 ∧ c.length = 0 then (s.modCmd c.id (fun c => { c with state := 1 })).netDone c.id 0
  else match s.connBad c with
  | some st => (s.modCmd c.id (fun c => { c with state := 1 })).netDone c.id st
  | none =>
    if c.fn = 0 then
      match s.crew? c.crew with
      | none => s.netDone c.id 4
      | some k =>
        match s.netRead k c.length c.localVA with
        | .error t => s.netFault c t
        | .ok (s, bs) => s.netStarted c ((chunksOf 4096 bs.length c.remote bs).map (fun p => (BitVec.ofNat 64 p.1, p.2))) 0
    else if c.fn = 1 then s.netStarted c [(BitVec.ofNat 64 c.remote, Config.netGetReq c.length)] 1
    else if c.fn = 2 then
      let w := fun (i : Nat) => (c.block.getD (i + 1) 0) ++ (c.block.getD i 0)
      s.netStarted c [(BitVec.ofNat 64 c.remote, Config.netAtReq c.cas (w 4) (w 6))] 3
    else s.modCmd c.id (fun c => { c with state := 1 })

/-- Bytes that a put reads have a mirrored write under way (R208). -/
def State.netHeld (s : State) (c : NetCmd) : Bool :=
  c.fn == 0 && (match s.crew? c.crew with
    | some k => (List.range c.length).any (fun i => s.copyWaits k (c.localVA + 16 * i, false))
    | none => false)

/-- A command may start: the team's earlier commands on the register have started, and its earlier accesses are performed (R182,
R257). -/
def State.netMayStart (s : State) (c : NetCmd) : Bool :=
  c.state == 0 && s.allDone c.earlier && !s.netHeld c
  && !(s.net.cmds.takeWhile (fun y => y.id != c.id)).any (fun y => y.team == c.team && y.q == c.q && y.state == 0)

/-- A flush is complete: every earlier command of the team on the register's connection is. -/
def State.flushDone (s : State) (c : NetCmd) : Bool :=
  c.fn == 3 && c.state == 1 && c.result.isNone
  && !(s.net.cmds.takeWhile (fun y => y.id != c.id)).any (fun y => y.team == c.team && y.conn == c.conn && y.result.isNone)

/-- The commands go on: they start, flushes end, and results are delivered. -/
def State.cmdsAdvance (s : State) : State :=
  let s := s.net.cmds.foldl (fun s c => match s.netCmd? c.id with
    | some x => if s.netMayStart x then s.netStart x else s
    | none => s) s
  let s := s.net.cmds.foldl (fun s c => match s.netCmd? c.id with
    | some x => if s.flushDone x then (s.modCmd x.id (fun y => { y with state := 2 })).netDone x.id 0 else s
    | none => s) s
  s.netDeliver

/-- Commands that have not completed on a connection end with a status. -/
def State.netEndAll (s : State) (conn : Nat) (status : BitVec 8) : State :=
  (s.net.cmds.filter (fun c => c.conn == conn && c.state != 0)).foldl (fun s c => s.netDone c.id status) s

/-! ## Acknowledgements at the sender (R320, R321) -/

/-- a is not after b in sequence. -/
def seqLe (a b : BitVec 32) : Bool := decide ((b - a).toNat < 2 ^ 31)

/-- Packets up to a sequence number are answered; a put whose packets all are is complete. -/
def State.netAcked (s : State) (c : Nat) (seq : BitVec 32) : State :=
  let s := s.modConn c (fun x => { x with timeouts := 0, unackd := x.unackd.filter (fun p => !seqLe p.seq seq) })
  let left := match s.conn? c with | some x => x.unackd | none => []
  (s.net.cmds.filter (fun y => y.conn == c && y.fn == 0 && y.state == 2 && y.result.isNone && !left.any (fun p => p.cmd == y.id))).foldl
    (fun s y => s.netDone y.id y.status) s

/-- An ACK: it measures the round trip of its packet, and its echo is counted (R321, R322), before it answers. -/
def State.netAcking (s : State) (c : Nat) (seq : BitVec 32) (mark : Bool) : State :=
  (s.modConn c (fun x => { x with
    rtt := match x.unackd.find? (fun p => p.seq == seq) with | some p => (s.portDcc x - p.sentAt).toNat | none => x.rtt
    backTotal := x.backTotal + 1, backMarked := x.backMarked + if mark then 1 else 0 })).netAcked c seq

/-- A packet was refused at the peer: its command has that status, and the packet is answered. -/
def State.netRefused (s : State) (c : Nat) (seq : BitVec 32) (status : BitVec 8) : State :=
  match (s.conn? c).bind (fun x => x.unackd.find? (fun p => p.seq == seq)) with
  | none => s
  | some p =>
    match s.netCmd? p.cmd with
    | none => s.netAcked c seq
    | some y =>
      if y.fn = 0 then (s.modCmd y.id (fun y => { y with status := status })).netAcked c seq
      else ((s.modConn c (fun x => { x with expects := x.expects.filter (· != y.id) })).netDone y.id status).netAcked c seq

/-- Send again from a sequence number. -/
def State.netResend (s : State) (c : Nat) (seq : BitVec 32) : State :=
  (s.modConn c (fun x => { x with unackd := x.unackd.map (fun p => if seqLe seq p.seq then { p with sent := false, rnr := none } else p) })).sendConn c

/-! ## Delivery at the receiver (R320) -/

/-- Answer a packet: an ACK, which echoes the packet's mark (R322), a NAK or a receiver-not-ready NAK. With the key exhausted it waits for a
new one (R323). -/
def State.netAnswer (s : State) (c : Nat) (opcode : BitVec 8) (d : Datagram) (seq : BitVec 32) (payload : List PByte) : State :=
  let flags : BitVec 16 := if opcode = 5 ∧ d.mark = true then 1 else 0
  let (s, ok) := s.emit c opcode flags seq 0 payload
  if ok then s
  else s.modConn c (fun x => { x with answers := x.answers ++ [{ opcode := opcode, flags := flags, seq := seq, payload := payload }] })

/-- The abutment whose engine serves a connection, as the source of its accesses. -/
def Conn.source (x : Conn) : Nat := 16 + x.port / 8

/-- A VA of a connection's window, translated in its world and ASN. -/
def State.windowPA (s : State) (x : Conn) (r : Rights) (va : Nat) : Except (BitVec 8) Nat := s.translateOwn x.source x.world x.asn r va

/-- Bytes read from a connection's window. -/
def State.windowRead (s : State) (x : Conn) (pieces : List (Nat × Nat)) : Except (BitVec 8) (List PByte) :=
  pieces.foldl (fun acc p => match acc with
    | .error e => .error e
    | .ok bs => match s.windowPA x { rd := true } p.1 with
      | .error e => .error e
      | .ok pa => match s.readOwn x.source x.world pa p.2 with
        | .error e => .error e
        | .ok more => .ok (bs ++ more)) (.ok [])

/-- What such reads leave (R301, R309). -/
def State.windowNoted (s : State) (x : Conn) (pieces : List (Nat × Nat)) : State :=
  pieces.foldl (fun s p => match s.windowPA x { rd := true } p.1 with
    | .error _ => s
    | .ok pa => (s.walkNoted x.source x.world x.asn p.1).readNoted x.source x.world pa p.2) s

/-- The HOME of a window address takes no poison (R223, R247). -/
def State.windowClean (s : State) (x : Conn) (pa : Nat) : Bool :=
  match s.choose (s.sideNode x.source) x.source x.world true pa with
  | some a => a.noPoison
  | none => false

/-- Bytes written into a connection's window as ordered stores at their HOME (with `kind` 2, as an atomic); poison is refused where the HOME
takes none. -/
def State.windowWrite (s : State) (x : Conn) (pieces : List (Nat × List PByte)) (kind : Nat := 1) : Except (BitVec 8) State :=
  pieces.foldl (fun acc p => match acc with
    | .error e => .error e
    | .ok s => match s.windowPA x { wr := true } p.1 with
      | .error e => .error e
      | .ok pa =>
        if p.2.any Option.isNone && s.windowClean x pa then .error 0x10
        else (s.walkNoted x.source x.world x.asn p.1).writeOwn x.source x.world pa p.2 kind) (.ok s)

/-- The VA at a remote offset; none outside the window. -/
def Conn.windowVA (x : Conn) (off n : Nat) : Option Nat := if x.winSize < off + n then none else some (x.winBase.toNat + off)

/-- The command whose data come next on a connection, if it still waits for them (R326). -/
def State.awaiting (s : State) (x : Conn) : Option NetCmd :=
  match x.expects with
  | id :: _ => match s.netCmd? id with
    | some y => if y.state = 2 ∧ y.result.isNone = true then some y else none
    | none => none
  | [] => none

/-- The local pieces that data for a command go to. -/
def NetCmd.dataPieces (y : NetCmd) (d : Datagram) : List (Nat × List PByte) :=
  if d.opcode = 2 then granulesOf d.payload.length (y.localVA + (d.offset.toNat - y.remote)) d.payload else [(y.localVA, d.payload.take 8)]

/-- A packet's writes have to wait: some place of theirs has a write of the package under way or is frozen (R208, R211). -/
def State.netBusy (s : State) (x : Conn) (d : Datagram) : Bool :=
  let op := d.opcode.toNat
  if op = 0 ∨ op = 3 then
    let bs := if op = 3 then List.replicate 8 none else d.payload
    match x.windowVA d.offset.toNat bs.length with
    | none => false
    | some va => ((granulesOf bs.length va bs).map Prod.fst).any (fun a =>
        match s.windowPA x { wr := true } a with | .error _ => false | .ok pa => s.ownBusy x.source x.world pa)
  else if op = 1 then false
  else match s.awaiting x with
    | none => false
    | some y => match s.crew? y.crew with
      | none => false
      | some k => (y.dataPieces d).any (fun p => s.copyWaits k (p.1, true))

/-- A packet at its turn is performed: the state after it, or the status of the NAK that answers it. -/
def State.netPerform (s : State) (c : Nat) (x : Conn) (d : Datagram) : Except (BitVec 8) State :=
  let off := d.offset.toNat
  let refuse := fun (r : Except (BitVec 8) State) => match r with
    | .ok s => (.ok s : Except (BitVec 8) State)
    | .error _ => .error 2
  let op := d.opcode.toNat
  if op = 0 then
    match x.windowVA off d.payload.length with
    | none => .error 3
    | some va => refuse (s.windowWrite x (granulesOf d.payload.length va d.payload))
  else if op = 1 then
    let n := 16 * Config.netGetLen d.payload
    match x.windowVA off n with
    | none => .error 3
    | some va =>
      let pieces := (granulesOf n va (List.replicate n none)).map (fun p => (p.1, p.2.length))
      match s.windowRead x pieces with
      | .error _ => .error 2
      | .ok bs => .ok (((s.windowNoted x pieces).queuePkts c 0 2 ((chunksOf 4096 bs.length off bs).map (fun p => (BitVec.ofNat 64 p.1, p.2)))).sendConn c)
  else if op = 3 then
    let (cas, opnd, swap) := Config.netAtArgs d.payload
    match x.windowVA off 8 with
    | none => .error 3
    | some va =>
      match s.windowRead x [(va, 8)] with
      | .error _ => .error 2
      | .ok bs =>
        let new : List PByte := match leNat bs with
          | none => List.replicate 8 none
          | some o =>
            let o := BitVec.ofNat 64 o
            leBytes 8 (if cas then (if o = opnd then swap else o) else o + opnd).toNat
        match s.windowWrite x [(va, new)] 2 with
        | .error _ => .error 2
        | .ok s => .ok ((s.queuePkts c 0 4 [(d.offset, bs)]).sendConn c)
  else
    let ends := op = 4 ∨ d.flags.getLsbD 1 = true
    let s1 := if ends then s.modConn c (fun x => { x with expects := x.expects.tail }) else s
    match s.awaiting x with
    | none => .ok s1
    | some y =>
      match s.crew? y.crew with
      | none => .ok (s1.netDone y.id 4)
      | some k =>
        match s1.netWrite k (y.dataPieces d) with
        | .error t => .ok (s1.netFault y t)
        | .ok s => .ok (if ends then s.netDone y.id 0 else s)

/-- Perform a packet, answer it, and expect the next. -/
def State.netTake (s : State) (c : Nat) (d : Datagram) : State :=
  match s.conn? c with
  | none => s
  | some x =>
    match s.netPerform c x d with
    | .error st => (s.modConn c (fun x => { x with expSeq := x.expSeq + 1 })).netAnswer c 6 d d.seq (Config.netNakBody st)
    | .ok s => (s.modConn c (fun x => { x with expSeq := x.expSeq + 1 })).netAnswer c 5 d d.seq []

/-- Buffered packets whose turn has come, while none has to wait; fuel is their number. -/
def State.netDrain (c : Nat) : Nat → State → State
  | 0, s => s
  | n + 1, s =>
    match s.conn? c with
    | none => s
    | some x =>
      match x.buffered.find? (fun d => d.seq == x.expSeq) with
      | none => s
      | some d =>
        if s.netBusy x d then s
        else State.netDrain c n ((s.modConn c (fun x => { x with buffered := x.buffered.filter (fun e => e.seq != d.seq) })).netTake c d)

/-- A sequenced packet: performed in its turn, for which it may have to wait; above it buffered, up to 64, else dropped and NAKed; below it
acknowledged again. -/
def State.netSequenced (s : State) (c : Nat) (x : Conn) (d : Datagram) : State :=
  if d.seq = x.expSeq then
    if x.buffered.any (fun e => e.seq == d.seq) then s
    else if s.netBusy x d then s.modConn c (fun x => { x with buffered := x.buffered ++ [d] })
    else State.netDrain c x.buffered.length (s.netTake c d)
  else if seqLe x.expSeq d.seq then
    if x.buffered.any (fun e => e.seq == d.seq) then s
    else if x.buffered.length < 64 then s.modConn c (fun x => { x with buffered := x.buffered ++ [d] })
    else s.netAnswer c 6 d x.expSeq (Config.netNakBody 0)
  else s.netAnswer c 5 d d.seq []

/-- A datagram dropped and counted (R317, R337). -/
def State.netDrop (s : State) (d : Datagram) : State :=
  ({ s with net := { s.net with drops := tmod 0 s.net.drops d.port (fun n => n + 1) } }).logAbut (d.port / 8) 0x28 d.port 0 11 0

/-- R317: its version, opcode or a reserved bit is wrong. -/
def datagramBad (d : Datagram) : Bool :=
  d.version != 1 || decide (7 < d.opcode.toNat) || (d.flags >>> 2) != 0 || (d.conn >>> 20) != 0 || decide (4096 < d.payload.length)

/-- Its tag is that of its header and payload under the connection's key, salt and its IV counter (R317). -/
def Conn.authentic (x : Conn) (d : Datagram) : Bool :=
  match x.key with
  | none => false
  | some key => d.tag == Config.gcmTag key (x.salt ++ d.iv) (headerBytes d.version d.opcode d.flags d.conn d.seq d.iv d.offset) d.payload

/-- A datagram of a cached connection. -/
def State.netServe (s : State) (c : Nat) (d : Datagram) : State :=
  let s := s.touch c
  match s.conn? c with
  | none => s.netDrop d
  | some x =>
    if !x.up || !x.authentic d then s.netDrop d
    else
      let op := d.opcode.toNat
      if op ≤ 4 then s.netSequenced c x d
      else if op = 5 then s.netAcking c d.seq (d.flags.getLsbD 0)
      else if op = 6 then
        let st := Config.netNakStatus d.payload
        if st = 2 ∨ st = 3 then s.netRefused c d.seq st else s.netResend c d.seq
      else s.modConn c (fun x => { x with unackd := x.unackd.map (fun (p : NetPkt) => if p.seq == d.seq then { p with rnr := some (s.portDcc x) } else p) })

/-- Bytes of a datagram in a park buffer. -/
def datagramSize (d : Datagram) : Nat := 24 + d.payload.length + 16

/-- `DATAGRAM_RECEIVE`: checked, then served if its record is cached, else parked; with no room the sender is told to come again
(R319). -/
def State.datagramReceive (s : State) (d : Datagram) : State :=
  let c := d.conn.toNat
  if !s.capNet || decide (16 ≤ d.port) then s
  else if datagramBad d then s.netDrop d
  else if s.net.cached.contains c && !s.net.parked.any (fun e => e.conn == d.conn) then s.netServe c d
  else
    let used := (s.net.parked.filter (fun e => e.port == d.port)).foldl (fun n e => n + datagramSize e) 0
    if 262144 < used + datagramSize d then s.netAnswer c 7 d d.seq []
    else { s with net := { s.net with parked := s.net.parked ++ [d] } }

def execDatagramReceive (d : Datagram) (s : State) : Answered := .next (s.datagramReceive d)

/-- `CONN_RECORD_FETCH`: the record is cached and serves what is parked for it, in arrival order. -/
def State.recordFetch (s : State) (c : Nat) : State :=
  let mine := s.net.parked.filter (fun d => d.conn.toNat == c)
  if mine.isEmpty then s
  else
    let s := s.touch c
    mine.foldl (fun s d => s.netServe c d) { s with net := { s.net with parked := s.net.parked.filter (fun d => d.conn.toNat != c) } }

def execConnRecordFetch (conn : Nat) (s : State) : Answered := .next (s.recordFetch conn)

/-- The oldest packet sent has waited for twice the measured round trip, and for 8,192 DCC (R321). -/
def Conn.timeoutDue (x : Conn) (now : BitVec 64) : Bool :=
  x.up && (match x.unackd.find? (fun p => p.sent) with
    | some p => let n := (now - p.sentAt).toNat; decide (2 * x.rtt ≤ n) && decide (8192 ≤ n)
    | none => false)

/-- `NET_RETRANSMIT_TIMEOUT` (R321): after 16 in a row the connection stops and its commands complete with status 4. -/
def State.netTimeout (s : State) (c : Nat) : State :=
  match s.conn? c with
  | none => s
  | some x =>
    if !x.timeoutDue (s.portDcc x) then s
    else if 16 ≤ x.timeouts + 1 then
      (s.modConn c (fun x => { x with up := false, unreachable := true, timeouts := 16, unackd := [], expects := [], answers := [] })).netEndAll c 4
    else
      let s := s.modConn c (fun x => { x with timeouts := x.timeouts + 1 })
      match x.unackd.head? with
      | some p => s.netResend c p.seq
      | none => s

def execNetRetransmitTimeout (conn : Nat) (s : State) : Answered := .next (s.netTimeout conn)

/-- A packet that its receiver was not ready for is due 8,192 DCC later (R319). -/
def NetPkt.rnrDue (p : NetPkt) (now : BitVec 64) : Bool := match p.rnr with | some t => decide (8192 ≤ (now - t).toNat) | none => false

/-- `RNR_RETRANSMIT` (R319): the packets that are due are sent again. -/
def State.rnrRetransmit (s : State) (c : Nat) : State :=
  match s.conn? c with
  | none => s
  | some x =>
    if !x.unackd.any (fun p => p.rnrDue (s.portDcc x)) then s
    else (s.modConn c (fun x => { x with unackd := x.unackd.map (fun (p : NetPkt) =>
      if p.rnrDue (s.portDcc x) then { p with rnr := none, sent := false } else p) })).sendConn c

def execRnrRetransmit (conn : Nat) (s : State) : Answered := .next (s.rnrRetransmit conn)

/-- R322: the rate after a round trip of `total` packets of which `marked` came back marked, between 1 and 1600 Gb/s. -/
def newRate (r : Nat × Nat) (marked total : Nat) : Nat × Nat :=
  let r := if marked = 0 then (r.1 + r.2, r.2) else (r.1 * (2 * total - marked), r.2 * (2 * total))
  let g := Nat.gcd r.1 r.2
  let r := (r.1 / g, r.2 / g)
  if r.1 < r.2 then (1, 1) else if 1600 * r.2 < r.1 then (1600, 1) else r

/-- A measured round trip has passed since the last update, and packets came back (R322). -/
def Conn.rateDue (x : Conn) (now : BitVec 64) : Bool := x.backTotal != 0 && decide (x.rtt ≤ (now - x.rateAt).toNat)

/-- `RATE_UPDATE`: by the packets that came back since the last one. The event names how many came back and how many of them were marked; it is
not due with other counts than those the connection has. -/
def State.rateUpdate (s : State) (c marked total : Nat) : State :=
  match s.conn? c with
  | none => s
  | some x =>
    if !x.rateDue (s.portDcc x) ∨ x.backMarked ≠ marked ∨ x.backTotal ≠ total then s
    else s.modConn c (fun x =>
      { x with rate := newRate x.rate marked total, backMarked := 0, backTotal := 0, rateAt := s.portDcc x })

def execRateUpdate (conn marked total : Nat) (s : State) : Answered := .next (s.rateUpdate conn marked total)

/-! ## What the engine does of its own -/

/-- Packets that waited for their turn, or for their places, are performed when they may be. -/
def State.connsDrain (s : State) : State :=
  s.net.conns.foldl (fun s e => match e.2 with
    | some x => if x.buffered.isEmpty then s else State.netDrain e.1 x.buffered.length s
    | none => s) s

/-- It is part of every step of the package (Step.lean). -/
def State.netAdvance (s : State) : State :=
  let s := s.connsDrain
  if s.net.cmds.isEmpty then s else s.cmdsAdvance

/-! ## Issue (R325) -/

/-- The blocks of a command: one for a uniform form, one for each acting lane for a vector form. -/
def Env.blocks (e : Env) (r : BitVec 7) (u : BitVec 1) (n : Nat) : List (Option Nat × List Val) :=
  if u = 1 then [(none, (groupRegs r.toNat n).map e.u)]
  else (Mask.lanes e.mask).map (fun l => (some l, (groupRegs r.toNat n).map (fun i => e.v i l)))

/-- R325 check 6 on a block: a local VA out of line, or reserved bits set. -/
def netBad (fn : Nat) (b : List Word) : Bool :=
  if fn = 2 then
    (b.getD 0 0).toNat % 8 != 0 || blk b 1 16 16 != 0 || (b.getD 2 0).toNat % 8 != 0 || blk b 3 16 16 != 0
  else (b.getD 0 0).toNat % 16 != 0 || blk b 3 16 16 != 0

/-- The engine accepts some commands of one instruction. -/
def State.netAccept (s : State) (e : Env) (t : Team) (k : Crew) (q fn : Nat) (cas : Bool) (bs : List (List Word)) : Done :=
  if s.acquiring e.uid then .wait 21 s
  else if s.resultsFull e.uid q (if 16 < bs.length then 16 else bs.length) then .wait 5 s
  else if s.freeSlots k q < bs.length ∧ s.freeSlots k q < 64 then .wait 5 s
  else
    let gate := s.earlierAccesses e.uid
    let (op, s) := s.fresh
    let s := s.addOp { id := op, team := e.uid, kind := .net, w := 7, hdrVA := e.hdrVA, parts := bs.length }
    let s := bs.foldl (fun s b =>
      let (id, s) := s.fresh
      let c : NetCmd := { id := id, op := op, team := e.uid, crew := t.crew, hdrVA := e.hdrVA, world := k.world, asn := k.asn, q := q
                          conn := (tget 0 t.conn q).toNat, fn := fn, block := b, cas := cas, earlier := gate }
      { s with net := { s.net with cmds := s.net.cmds ++ [c] } }) s
    .ok { s := s.modTeam e.uid (fun t => t.decW e.w) }

/-- `net.put`, `net.get` and `net.at` (R325): the checks in order. A queue outside 10 to 13 traps when the word has its effect (R140), before its
block is looked at. -/
def netPlan (fn : Nat) (q : BitVec 4) (r : BitVec 7) (u : BitVec 1) (w : BitVec 3) (cas : Bool) : Plan :=
  let n := if fn = 2 then 8 else 4
  { whole := u == 1
    ill := illWait w
    absent := fun s => !s.capNet
    regs := fun t _ =>
      if q.toNat < 10 ∨ 13 < q.toNat then none
      else if r.toNat % 4 ≠ 0 ∨ (if u = 1 then 128 else t.vN) < r.toNat + n then some .illegalOperand else none
    srcs := fun _ m => if q.toNat < 10 ∨ 13 < q.toNat then [] else [if u = 1 then uGroupSrc r.toNat n else gSrc r.toNat n m]
    w := w
    act := fun e s =>
      let bs := e.blocks r u n
      if q.toNat < 10 ∨ 13 < q.toNat then .trap .queueMisuse
      else match s.crewOf e.uid, bs.find? (fun b => b.2.any Val.isPoison), bs.find? (fun b => netBad fn (b.2.map Val.bits)) with
      | none, _, _ => .ok { s := s }
      | _, some b, _ => .trap { cause := 0x10, lane := b.1 }
      | _, none, some b => .trap { cause := 0x09, lane := b.1 }
      | some (t, k), none, none => s.netAccept e t k q.toNat fn cas (bs.map (fun b => b.2.map Val.bits)) }

/-- `net.flush`. -/
def netFlushPlan (q : BitVec 4) (w : BitVec 3) : Plan where
  whole := true
  ill := illWait w
  absent := fun s => !s.capNet
  w := w
  act := fun e s => if q.toNat < 10 ∨ 13 < q.toNat then .trap .queueMisuse else match s.crewOf e.uid with
    | none => .ok { s := s }
    | some (t, k) => s.netAccept e t k q.toNat 3 false [[]]

/-! ## The instructions -/

/-- `NET_PUT` (R326). Queues a remote write of local bytes on the selected connection. -/
def planNetPut (q : BitVec 4) (r : BitVec 7) (u : BitVec 1) (w : BitVec 3) : Plan :=
  netPlan 0 q r u w false

def execNetPut (q : BitVec 4) (r : BitVec 7) (u : BitVec 1) (w : BitVec 3) (s : State) : Answered := issue (.netPut q r u w) (planNetPut q r u w) s

/-- `NET_GET` (R326). Queues a remote read into local memory. -/
def planNetGet (q : BitVec 4) (r : BitVec 7) (u : BitVec 1) (w : BitVec 3) : Plan :=
  netPlan 1 q r u w false

def execNetGet (q : BitVec 4) (r : BitVec 7) (u : BitVec 1) (w : BitVec 3) (s : State) : Answered := issue (.netGet q r u w) (planNetGet q r u w) s

/-- `NET_AT` (R326). Queues a remote 64-bit fetch-add or compare-and-swap. -/
def planNetAt (q : BitVec 4) (r : BitVec 7) (u : BitVec 1) (w : BitVec 3) (o : BitVec 1) : Plan :=
  netPlan 2 q r u w (o == 1)

def execNetAt (q : BitVec 4) (r : BitVec 7) (u : BitVec 1) (w : BitVec 3) (o : BitVec 1) (s : State) : Answered := issue (.netAt q r u w o) (planNetAt q r u w o) s

/-- `NET_FLUSH` (R326). Completes when earlier commands on the connection have completed. -/
def planNetFlush (q : BitVec 4) (w : BitVec 3) : Plan :=
  netFlushPlan q w

def execNetFlush (q : BitVec 4) (w : BitVec 3) (s : State) : Answered := issue (.netFlush q w) (planNetFlush q w) s

end Sys2Proof.Machine
end

