-- ==== Sys2Proof/Machine/Xlane.lean ====
section
/-! DEFINITION. Exchanges within a mask word (spec/06 R128, R129). -/

namespace Sys2Proof.Machine

/-- A shuffle (R128): `pick j n` is the lane j′ of the same word that lane j copies; all 32 lanes of an executed word are read. -/
def shflPlan (d a b : BitVec 7) (u : BitVec 1) (pick : Nat → Nat → Nat) : Plan where
  regs := checkV (vregs d.toNat a.toNat b.toNat u)
  srcs := fun _ m =>
    [{ units := (Mask.words m).flatMap (fun k => (List.range 32).map (fun j => UnitRef.vec a.toNat (32 * k + j)))
       words := 32 * (Mask.words m).length },
     bSrc b.toNat u m]
  dsts := fun _ m => vDst d.toNat m
  act := fun e s => .ok { s := s, writes := (Mask.lanes e.mask).map (fun l =>
    let r := match e.opnd b.toNat u l with
      | .poison => Val.poison
      | .word n => e.v a.toNat (l / 32 * 32 + pick (l % 32) (shAmt n))
    (.vec d.toNat l, .w r)) }

/-- A vote, ballot or reduction (R128): `f` of the acting lanes of a word and their values, in lane order. -/
def votePlan (d a : BitVec 7) (f : List (Nat × Word) → Word) : Plan where
  regs := checkV [d.toNat, a.toNat]
  srcs := fun _ m => [vSrc a.toNat m]
  dsts := fun _ m => vDst d.toNat m
  act := fun e s => .ok { s := s, writes := (Mask.words e.mask).flatMap (fun k =>
    let ls := (Mask.lanes e.mask).filter (fun l => l / 32 == k)
    let r := if ls.any (fun l => (e.v a.toNat l).isPoison) then Val.poison
      else Val.word (f (ls.map (fun l => (l % 32, (e.v a.toNat l).bits))))
    ls.map (fun l => (UnitRef.vec d.toNat l, UnitVal.w r))) }

/-- `SHFL_IDX` (R128). Copies va from an indexed lane of the mask word. -/
def planShflIdx (d : BitVec 7) (a : BitVec 7) (b : BitVec 7) (u : BitVec 1) : Plan :=
  shflPlan d a b u (fun _ n => n)

def execShflIdx (d : BitVec 7) (a : BitVec 7) (b : BitVec 7) (u : BitVec 1) (s : State) : Answered := issue (.shflIdx d a b u) (planShflIdx d a b u) s

/-- `SHFL_UP` (R128). Copies va from a lower lane of the mask word. -/
def planShflUp (d : BitVec 7) (a : BitVec 7) (b : BitVec 7) (u : BitVec 1) : Plan :=
  shflPlan d a b u (fun j n => if n ≤ j then j - n else j)

def execShflUp (d : BitVec 7) (a : BitVec 7) (b : BitVec 7) (u : BitVec 1) (s : State) : Answered := issue (.shflUp d a b u) (planShflUp d a b u) s

/-- `SHFL_DN` (R128). Copies va from a higher lane of the mask word. -/
def planShflDn (d : BitVec 7) (a : BitVec 7) (b : BitVec 7) (u : BitVec 1) : Plan :=
  shflPlan d a b u (fun j n => if j + n ≤ 31 then j + n else j)

def execShflDn (d : BitVec 7) (a : BitVec 7) (b : BitVec 7) (u : BitVec 1) (s : State) : Answered := issue (.shflDn d a b u) (planShflDn d a b u) s

/-- `SHFL_XOR` (R128). Copies va from the lane at j XOR n. -/
def planShflXor (d : BitVec 7) (a : BitVec 7) (b : BitVec 7) (u : BitVec 1) : Plan :=
  shflPlan d a b u (fun j n => j ^^^ n)

def execShflXor (d : BitVec 7) (a : BitVec 7) (b : BitVec 7) (u : BitVec 1) (s : State) : Answered := issue (.shflXor d a b u) (planShflXor d a b u) s

/-- `VOTE_ANY` (R128). Writes 1 if any contributing lane is nonzero. -/
def planVoteAny (d : BitVec 7) (a : BitVec 7) : Plan :=
  votePlan d a (fun xs => boolWord (xs.any (fun x => x.2 != 0)))

def execVoteAny (d : BitVec 7) (a : BitVec 7) (s : State) : Answered := issue (.voteAny d a) (planVoteAny d a) s

/-- `VOTE_ALL` (R128). Writes 1 if every contributing lane is nonzero. -/
def planVoteAll (d : BitVec 7) (a : BitVec 7) : Plan :=
  votePlan d a (fun xs => boolWord (xs.all (fun x => x.2 != 0)))

def execVoteAll (d : BitVec 7) (a : BitVec 7) (s : State) : Answered := issue (.voteAll d a) (planVoteAll d a) s

/-- `BALLOT` (R128). Writes the mask of contributing nonzero lanes. -/
def planBallot (d : BitVec 7) (a : BitVec 7) : Plan :=
  votePlan d a (fun xs => maskWord (fun j => xs.any (fun x => x.1 == j && x.2 != 0)))

def execBallot (d : BitVec 7) (a : BitVec 7) (s : State) : Answered := issue (.ballot d a) (planBallot d a) s

/-- `REDADD` (R128). Writes the wrapped sum over contributing lanes. -/
def planRedadd (d : BitVec 7) (a : BitVec 7) : Plan :=
  votePlan d a (fun xs => xs.foldl (fun acc x => acc + x.2) 0)

def execRedadd (d : BitVec 7) (a : BitVec 7) (s : State) : Answered := issue (.redadd d a) (planRedadd d a) s

/-- `REDMAX` (R128). Writes the signed maximum over contributing lanes. -/
def planRedmax (d : BitVec 7) (a : BitVec 7) : Plan :=
  votePlan d a (fun xs => xs.foldl (fun acc x => sMax acc x.2) 0x80000000)

def execRedmax (d : BitVec 7) (a : BitVec 7) (s : State) : Answered := issue (.redmax d a) (planRedmax d a) s

end Sys2Proof.Machine
end

