-- ==== Sys2Proof/Machine/Residual.lean ====
section
/-! DEFINITION. Deferring mode's own words and the running of residual entries (spec/07 R136, R140, R142, R143; spec/21 R351). Capture
stands in Ops.lean. -/

namespace Sys2Proof.Machine

/-! ## Running an entry (R136) -/

/-- What a captured instruction does when it runs: the plan it was captured under. Instructions that are never captured (R132) have
none. -/
def planOf : Instr → Option Plan
  | .clauseHeader _ _ _ _ _ _ _ _ => none
  | .add d a b u => some (planAdd d a b u)
  | .sub d a b u => some (planSub d a b u)
  | .mullo d a b u => some (planMullo d a b u)
  | .mulhi d a b u => some (planMulhi d a b u)
  | .mulhu d a b u => some (planMulhu d a b u)
  | .and d a b u => some (planAnd d a b u)
  | .or d a b u => some (planOr d a b u)
  | .xor d a b u => some (planXor d a b u)
  | .andn d a b u => some (planAndn d a b u)
  | .shl d a b u => some (planShl d a b u)
  | .shr d a b u => some (planShr d a b u)
  | .sra d a b u => some (planSra d a b u)
  | .min d a b u => some (planMin d a b u)
  | .max d a b u => some (planMax d a b u)
  | .minu d a b u => some (planMinu d a b u)
  | .maxu d a b u => some (planMaxu d a b u)
  | .adds d a b u => some (planAdds d a b u)
  | .subs d a b u => some (planSubs d a b u)
  | .addus d a b u => some (planAddus d a b u)
  | .subus d a b u => some (planSubus d a b u)
  | .rotl d a b u => some (planRotl d a b u)
  | .popc d a => some (planPopc d a)
  | .clz d a => some (planClz d a)
  | .brev d a => some (planBrev d a)
  | .absd d a b u => some (planAbsd d a b u)
  | .avgu d a b u => some (planAvgu d a b u)
  | .addi d a i => some (planAddi d a i)
  | .andi d a i => some (planAndi d a i)
  | .ori d a i => some (planOri d a i)
  | .xori d a i => some (planXori d a i)
  | .shli d a n => some (planShli d a n)
  | .shri d a n => some (planShri d a n)
  | .srai d a n => some (planSrai d a n)
  | .rotli d a n => some (planRotli d a n)
  | .fadd d a b u => some (planFadd d a b u)
  | .fsub d a b u => some (planFsub d a b u)
  | .fmul d a b u => some (planFmul d a b u)
  | .fmin d a b u => some (planFmin d a b u)
  | .fmax d a b u => some (planFmax d a b u)
  | .fma d a b u => some (planFma d a b u)
  | .fnma d a b u => some (planFnma d a b u)
  | .fcopysign d a b u => some (planFcopysign d a b u)
  | .hadd2 d a b u => some (planHadd2 d a b u)
  | .hmul2 d a b u => some (planHmul2 d a b u)
  | .hfma2 d a b u => some (planHfma2 d a b u)
  | .badd2 d a b u => some (planBadd2 d a b u)
  | .bmul2 d a b u => some (planBmul2 d a b u)
  | .bfma2 d a b u => some (planBfma2 d a b u)
  | .hmin2 d a b u => some (planHmin2 d a b u)
  | .hmax2 d a b u => some (planHmax2 d a b u)
  | .frcp d a => some (planFrcp d a)
  | .frsq d a => some (planFrsq d a)
  | .fsqrt d a => some (planFsqrt d a)
  | .fexp2 d a => some (planFexp2 d a)
  | .flog2 d a => some (planFlog2 d a)
  | .cvtFI d a => some (planCvtFI d a)
  | .cvtFU d a => some (planCvtFU d a)
  | .cvtIF d a => some (planCvtIF d a)
  | .cvtUF d a => some (planCvtUF d a)
  | .cvtBfp d a b u => some (planCvtBfp d a b u)
  | .cvtFBf d a e => some (planCvtFBf d a e)
  | .cvtHp d a b u => some (planCvtHp d a b u)
  | .cvtFH d a e => some (planCvtFH d a e)
  | .cvtE4l d a b u => some (planCvtE4l d a b u)
  | .cvtE4h d a b u => some (planCvtE4h d a b u)
  | .cvtFE4 d a e => some (planCvtFE4 d a e)
  | .cvtE5l d a b u => some (planCvtE5l d a b u)
  | .cvtE5h d a b u => some (planCvtE5h d a b u)
  | .cvtFE5 d a e => some (planCvtFE5 d a e)
  | .dp4S8 d a b u => some (planDp4S8 d a b u)
  | .dp4N8 d a b u => some (planDp4N8 d a b u)
  | .dp4Sn8 d a b u => some (planDp4Sn8 d a b u)
  | .dp8S4 d a b u => some (planDp8S4 d a b u)
  | .dp8N4 d a b u => some (planDp8N4 d a b u)
  | .dp8Sn4 d a b u => some (planDp8Sn4 d a b u)
  | .dp4E4 d a b u => some (planDp4E4 d a b u)
  | .dp4E5 d a b u => some (planDp4E5 d a b u)
  | .scacc d a b u => some (planScacc d a b u)
  | .scacc2 d a b u => some (planScacc2 d a b u)
  | .scmul d a b u => some (planScmul d a b u)
  | .cmpEq p a b u c => some (planCmpEq p a b u c)
  | .cmpNe p a b u c => some (planCmpNe p a b u c)
  | .cmpLt p a b u c => some (planCmpLt p a b u c)
  | .cmpLe p a b u c => some (planCmpLe p a b u c)
  | .cmpGt p a b u c => some (planCmpGt p a b u c)
  | .cmpGe p a b u c => some (planCmpGe p a b u c)
  | .cmpLtu p a b u c => some (planCmpLtu p a b u c)
  | .cmpLeu p a b u c => some (planCmpLeu p a b u c)
  | .cmpGtu p a b u c => some (planCmpGtu p a b u c)
  | .cmpGeu p a b u c => some (planCmpGeu p a b u c)
  | .fcmpEq p a b u c => some (planFcmpEq p a b u c)
  | .fcmpNe p a b u c => some (planFcmpNe p a b u c)
  | .fcmpLt p a b u c => some (planFcmpLt p a b u c)
  | .fcmpLe p a b u c => some (planFcmpLe p a b u c)
  | .fcmpGt p a b u c => some (planFcmpGt p a b u c)
  | .fcmpGe p a b u c => some (planFcmpGe p a b u c)
  | .fcmpUn p a b u c => some (planFcmpUn p a b u c)
  | .fcmpOrd p a b u c => some (planFcmpOrd p a b u c)
  | .pand p a b => some (planPand p a b)
  | .por p a b => some (planPor p a b)
  | .pxor p a b => some (planPxor p a b)
  | .pandn p a b => some (planPandn p a b)
  | .pnot p a => some (planPnot p a)
  | .pmov p a => some (planPmov p a)
  | .sel c n d a b u => some (planSel c n d a b u)
  | .mov d a => some (planMov d a)
  | .movs d a => some (planMovs d a)
  | .movix d b => some (planMovix d b)
  | .movixW a b => some (planMovixW a b)
  | .lane d => some (planLane d)
  | .lword d => some (planLword d)
  | .movsv d a => some (planMovsv d a)
  | .lim c d lit => some (planLim c d lit)
  | .sadd d a b => some (planSadd d a b)
  | .ssub d a b => some (planSsub d a b)
  | .smul d a b => some (planSmul d a b)
  | .sand d a b => some (planSand d a b)
  | .sor d a b => some (planSor d a b)
  | .sxor d a b => some (planSxor d a b)
  | .sshl d a b => some (planSshl d a b)
  | .sshr d a b => some (planSshr d a b)
  | .ssra d a b => some (planSsra d a b)
  | .smin d a b => some (planSmin d a b)
  | .smax d a b => some (planSmax d a b)
  | .sminu d a b => some (planSminu d a b)
  | .smaxu d a b => some (planSmaxu d a b)
  | .saddi d a i => some (planSaddi d a i)
  | .scmpEq d a b => some (planScmpEq d a b)
  | .scmpNe d a b => some (planScmpNe d a b)
  | .scmpLt d a b => some (planScmpLt d a b)
  | .scmpLe d a b => some (planScmpLe d a b)
  | .scmpGt d a b => some (planScmpGt d a b)
  | .scmpGe d a b => some (planScmpGe d a b)
  | .scmpLtu d a b => some (planScmpLtu d a b)
  | .scmpLeu d a b => some (planScmpLeu d a b)
  | .scmpGtu d a b => some (planScmpGtu d a b)
  | .scmpGeu d a b => some (planScmpGeu d a b)
  | .shflIdx d a b u => some (planShflIdx d a b u)
  | .shflUp d a b u => some (planShflUp d a b u)
  | .shflDn d a b u => some (planShflDn d a b u)
  | .shflXor d a b u => some (planShflXor d a b u)
  | .voteAny d a => some (planVoteAny d a)
  | .voteAll d a => some (planVoteAll d a)
  | .ballot d a => some (planBallot d a)
  | .redadd d a => some (planRedadd d a)
  | .redmax d a => some (planRedmax d a)
  | .ldG s d a f w => some (planLdG s d a f w)
  | .stG s d a f w => some (planStG s d a f w)
  | .stGx s d a f w => some (planStGx s d a f w)
  | .ldA s d a c w => some (planLdA s d a c w)
  | .stL s d a c w o => some (planStL s d a c w o)
  | .atAdd d a c w o => some (planAtAdd d a c w o)
  | .atAnd d a c w o => some (planAtAnd d a c w o)
  | .atOr d a c w o => some (planAtOr d a c w o)
  | .atXor d a c w o => some (planAtXor d a c w o)
  | .atMin d a c w o => some (planAtMin d a c w o)
  | .atMax d a c w o => some (planAtMax d a c w o)
  | .atMinu d a c w o => some (planAtMinu d a c w o)
  | .atMaxu d a c w o => some (planAtMaxu d a c w o)
  | .atXchg d a c w o => some (planAtXchg d a c w o)
  | .atCas d a c w o => some (planAtCas d a c w o)
  | .atFadd d a c w o => some (planAtFadd d a c w o)
  | .vatF32 d a c w o => some (planVatF32 d a c w o)
  | .vatBf16 d a c w o => some (planVatBf16 d a c w o)
  | .ldS s d a f w => some (planLdS s d a f w)
  | .stS s d a f w => some (planStS s d a f w)
  | .ldSq s d a f w => some (planLdSq s d a f w)
  | .stSq s d a f w => some (planStSq s d a f w)
  | .tlook d a => some (planTlook d a)
  | .tins d a b u => some (planTins d a b u)
  | .tinv d a => some (planTinv d a)
  | .tflush => some planTflush
  | .ldU s d a f w => some (planLdU s d a f w)
  | .stU s d a f w => some (planStU s d a f w)
  | .annc d a w => some (planAnnc d a w)
  | .wdrw d a w => some (planWdrw d a w)
  | .rlook d a h w => some (planRlook d a h w)
  | .hmove d a w => some (planHmove d a w)
  | .rstat d t w => some (planRstat d t w)
  | .qpush q r u w => some (planQpush q r u w)
  | .qpop q d w => some (planQpop q d w)
  | .qtry q d p => some (planQtry q d p)
  | .qfence q m => some (planQfence q m)
  | .qstat q d => some (planQstat q d)
  | .cpyG2s q r w c => some (planCpyG2s q r w c)
  | .cpyS2g q r w c => some (planCpyS2g q r w c)
  | .cpyG2g q r w k => some (planCpyG2g q r w k)
  | .cpyPln q r w p m c => some (planCpyPln q r w p m c)
  | .cpyS2sq q r w c => some (planCpyS2sq q r w c)
  | .cyc _ => none
  | .sleepc _ => none
  | .mma d a b t => some (planMma d a b t)
  | .mmaZ d a b t => some (planMmaZ d a b t)
  | .mmaB d a t => some (planMmaB d a t)
  | .mmaBz d a t => some (planMmaBz d a t)
  | .amov d n p => some (planAmov d n p)
  | .awr d n p => some (planAwr d n p)
  | .aclr n => some (planAclr n)
  | .aovf d n c => some (planAovf d n c)
  | .plnw d a p m => some (planPlnw d a p m)
  | .plnr d a p m => some (planPlnr d a p m)
  | .plnrS d a p m => some (planPlnrS d a p m)
  | .tset t a => some (planTset t a)
  | .tget d t => some (planTget d t)
  | .barArv _ _ _ => none
  | .barWait _ _ => none
  | .barSync _ _ _ => none
  | .barTo _ _ _ _ => none
  | .pbInit _ _ => none
  | .pbArv _ => none
  | .pbExp _ _ => none
  | .pbWait _ _ => none
  | .pbTest _ _ _ => none
  | .fenceAcq _ => none
  | .fenceRel _ => none
  | .fenceAr _ => none
  | .fenceQ _ => none
  | .br _ _ _ => none
  | .bra _ => none
  | .call _ _ _ => none
  | .exit _ _ => none
  | .bz _ _ _ => none
  | .bnz _ _ _ => none
  | .bpend _ _ _ => none
  | .bpendN _ _ _ => none
  | .jmps _ _ => none
  | .calls _ _ => none
  | .ret _ _ _ => none
  | .loop _ _ _ => none
  | .frmode _ => none
  | .fryld => none
  | .join _ => none
  | .mact _ _ => none
  | .deferOn => none
  | .deferOff => none
  | .deferStrict _ => none
  | .rdrain => none
  | .rfstat _ _ => none
  | .acqx _ _ => none
  | .relx _ _ => none
  | .allq _ _ => none
  | .ptst _ _ _ _ => none
  | .pchk _ _ => none
  | .pchks _ _ => none
  | .post _ _ => none
  | .done _ => none
  | .ctok _ => none
  | .tid _ => none
  | .trap _ => none
  | .tresume _ => none
  | .tkill _ => none
  | .trelaunch _ => none
  | .trecord _ _ _ => none
  | .rdsys _ _ => none
  | .wrsys _ _ => none
  | .smp _ _ => none
  | .netPut q r u w => some (planNetPut q r u w)
  | .netGet q r u w => some (planNetGet q r u w)
  | .netAt q r u w o => some (planNetAt q r u w o)
  | .netFlush q w => some (planNetFlush q w)
  | .landing _ => none
  | .replyReceive _ => none
  | .residualEntryRun _ => none
  | .arrayPass _ => none
  | .copyStart _ _ => none
  | .copyComplete _ _ => none
  | .q8Command _ => none
  | .routeCommandStart _ => none
  | .routeRound _ => none
  | .announcementReceive _ => none
  | .routeAckReceive _ => none
  | .requestArrive _ _ _ => none
  | .nakReceive _ => none
  | .ofReleasePerform _ => none
  | .voidNoticeReceive _ => none
  | .mirrorPrepareReceive _ => none
  | .prepareAckReceive _ => none
  | .mirrorCommitReceive _ => none
  | .flitReceive _ _ _ _ => none
  | .replayTimeout _ _ => none
  | .flowControlSignal _ _ _ _ => none
  | .linkLostTimeout _ _ => none
  | .linkLostNotice _ => none
  | .silenceNoticeReceive _ => none
  | .windowRequestArrive _ => none
  | .hostRingDoorbell _ _ => none
  | .hostRingEntry _ => none
  | .mgmtRequestTail _ => none
  | .mgmtResponseHead _ => none
  | .bar0IgnoredWrite _ _ => none
  | .getVersion _ => none
  | .getCapabilities _ => none
  | .negotiateAlgorithms _ => none
  | .getDigests _ => none
  | .getCertificate _ => none
  | .challenge _ => none
  | .getMeasurements _ => none
  | .keyExchange _ => none
  | .finish _ => none
  | .keyUpdate _ => none
  | .heartbeat _ => none
  | .endSession _ => none
  | .spdmUnsupportedRequest _ => none
  | .lockInterface _ _ => none
  | .startInterface _ _ => none
  | .stopInterface _ _ _ => none
  | .getDeviceInterfaceReport _ _ => none
  | .getDeviceInterfaceState _ _ => none
  | .worldCreate _ _ => none
  | .worldKey _ _ _ _ => none
  | .worldDestroy _ _ => none
  | .rangeAssign _ _ _ _ _ => none
  | .contextSet _ _ _ _ => none
  | .contextInval _ _ _ _ _ => none
  | .ringSet _ _ _ _ _ _ _ _ => none
  | .sliceSet _ _ _ => none
  | .handlerSet _ _ _ _ _ _ _ => none
  | .watchArm _ _ _ _ _ _ _ => none
  | .watchDisarm _ _ _ => none
  | .logExport _ _ _ => none
  | .mrExtend _ _ _ => none
  | .restartFull _ => none
  | .netTableSet _ _ _ _ => none
  | .netConnSet _ _ _ _ _ _ _ _ _ _ => none
  | .netKey _ _ _ _ => none
  | .netConnClose _ _ => none
  | .sampleSet _ _ _ _ _ _ _ _ => none
  | .sampleSetActivate _ _ => none
  | .errlogExport _ _ _ _ => none
  | .dispatch _ => none
  | .crewRetire _ => none
  | .cardComplete _ => none
  | .sliceExpiry _ => none
  | .drainLimitExpiry _ => none
  | .crewSave _ => none
  | .trapRecordWrite _ => none
  | .teamResume _ => none
  | .relaunchHoldRelease _ => none
  | .dieReset _ => none
  | .joinTimeout _ => none
  | .barrierTimeout _ => none
  | .barrierRelease _ => none
  | .phaseBarrierWake _ => none
  | .sleepWake _ => none
  | .promiseMissed _ => none
  | .allotmentGrant _ => none
  | .scrubVisit _ _ _ => none
  | .sampleTick _ _ => none
  | .sampleTimerExpiry _ => none
  | .stopctlArm _ => none
  | .stopReached _ => none
  | .stopTrap _ => none
  | .bootStart => none
  | .startWatchdogExpiry => none
  | .dieEnterService _ => none
  | .calibrationComplete => none
  | .bringUpEnd => none
  | .datagramReceive _ => none
  | .connRecordFetch _ => none
  | .netRetransmitTimeout _ => none
  | .rnrRetransmit _ => none
  | .rateUpdate _ _ _ => none
  | .powerLoss _ _ _ => none
  | .dramTrainingFailed _ => none
  | .dieCalibrationFailed _ => none
  | .pierReset _ => none

/-- Every operand slot of an entry is filled. -/
def Entry.ready (e : Entry) : Bool := (e.slots ++ e.base).all (fun x => x.got.isSome)

/-- A captured operand. A unit that has no slot reads as hard-wired (R70). -/
def Entry.read (e : Entry) (r : UnitRef) : UnitVal :=
  match (e.slots ++ e.base).find? (fun x => x.unit == r) with
  | some x => x.got.getD (.w (.word 0))
  | none => match r with
    | .pred _ _ => .p 0xFFFFFFFF 0
    | _ => .w (.word 0)

/-- The generation an entry recorded for a destination. -/
def Entry.genOf (e : Entry) (t : Team) (r : UnitRef) : BitVec 4 :=
  match e.dests.find? (fun o => o.unit == r) with
  | some o => o.gen
  | none => t.gen r

/-- What a captured instruction sees when it runs, over the mask words m of those still to issue, `rest`. -/
def Env.ofEntry (uid : Nat) (t : Team) (e : Entry) (m rest : Mask) : Env :=
  { uid := uid, mask := m, rest := rest, opId := e.opId, rm := e.rm, rd := e.read, gen := e.genOf t, hdrVA := e.hdrVA, w := e.w
    byEntry := true }

/-- The writes of an entry that has run: where the generation still matches into the register, and to every awaiting slot. A captured `awr`,
`aclr` or clearing `aovf` whose accumulator a later captured MMA owes by then loses its write, as the generation rule of R133 has it; R135
and the opening of spec/07, where results are as in normal mode, would keep it (DESIGN CHOICE, notes/assumptions/64.md). -/
def Team.entryWrites (t : Team) (e : Entry) (ws : List (UnitRef × UnitVal)) : Team :=
  ws.foldl (fun t w =>
    let o : Owed := { unit := w.1, gen := e.genOf t w.1 }
    (t.land o w.2).deliver o w.2) t

/-- An entry after some of its passes: gone when they were the last, else at the head with what is left of it. -/
def Entry.passed (e : Entry) (m : Mask) (more : Bool) (opId : Nat) (rest : List Entry) : List Entry :=
  if more then { e with issuedTo := match (Mask.words m).getLast? with | some k => k + 1 | none => e.issuedTo, opId := opId } :: rest
  else rest

/-- `RESIDUAL_ENTRY_RUN`: the head entry of a team, when it is ready; one whose passes issue one by one runs its next pass (R136). A trap
reported late is taken at it, as at any issue (R223). An entry that waits shows its reason where the team's own word is blocked too
(R137). -/
def State.entryRun (s : State) (uid : Nat) : State :=
  match s.crewOf uid with
  | none => s
  | some (t, k) =>
    match t.fifo with
    | [] => s
    | e :: rest =>
      if t.status ≠ .running ∨ e.ready = false then s
      else match t.late, planOf e.instr with
      | some info, _ => s.suspend uid info
      | none, none => s
      | none, some p =>
        let left := if p.whole then e.mask else Mask.from e.mask e.issuedTo
        let more := p.byPass && decide (1 < (Mask.words left).length)
        let m := if more then Mask.first left 1 else left
        match p.act (Env.ofEntry uid t e m left) s with
        | .trap tr => let tr := tr.atLane p.whole m; (s.violated uid tr).takeTrap uid e.hdrVA tr true
        | .fail s' tr => s'.takeTrap uid e.hdrVA tr true
        | .wait r _ => if t.stall = 0 then s else s.stallTeam uid r
        | .ok f =>
          let s := f.s.modTeam uid (fun t =>
            { (({ t with fifo := e.passed m more f.opId rest }).entryWrites e f.writes) with fpf := t.fpf ||| f.flags })
          s.issued uid k.coreKey (fld e.hdr 4 3 != 0) (if p.whole then 1 else (Mask.words m).length)

def execResidualEntryRun (team : Nat) (s : State) : Answered := .next (s.entryRun team)

/-! ## Mode and status (R142, R143) -/

/-- `defer.on`. -/
def deferOnPlan : Plan where
  whole := true
  how := .free
  act := fun e s => .ok { s := s.modTeam e.uid (fun t => { t with defOn := true }) }

/-- `defer.off`: once the FIFO is empty. -/
def deferOffPlan : Plan where
  whole := true
  how := .drain
  act := fun e s => .ok { s := s.modTeam e.uid (fun t => { t with defOn := false }) }

/-- `defer.strict`. -/
def deferStrictPlan (m : BitVec 8) : Plan where
  whole := true
  ill := illMax m 1
  how := .free
  act := fun e s => .ok { s := s.modTeam e.uid (fun t => { t with strict := m == 1 }) }

/-- `rdrain`: once the FIFO is empty, in either mode. -/
def rdrainPlan : Plan where
  whole := true
  how := .drain
  act := fun e s => match s.team? e.uid with
    | some t => if t.fifo.isEmpty then .ok { s := s } else .wait 11 s
    | none => .ok { s := s }

/-- The chain state of a FIFO (R141): bit 0 memory chain, bits 31:16 queue chains. -/
def chainState (es : List Entry) : Word :=
  let qs := es.flatMap (fun e => queuesOf e.word)
  BitVec.ofNat 32 ((if es.any (fun e => memChain e.word) then 1 else 0)
    + ((List.range 16).foldl (fun n q => n + if qs.contains q then 2 ^ (16 + q) else 0) 0))

/-- What `rfstat` reports. -/
def Team.residualCount (t : Team) (k : Nat) : Word :=
  if k = 0 then BitVec.ofNat 32 t.fifo.length
  else if k = 1 then BitVec.ofNat 32 t.rN
  else if k = 2 then BitVec.ofNat 32 t.laneWords
  else if k = 3 then BitVec.ofNat 32 (64 * t.rN)
  else chainState t.fifo

/-- `rfstat`. -/
def rfstatPlan (d : BitVec 7) (k : BitVec 8) : Plan where
  whole := true
  ill := illMax k 4
  dsts := fun _ _ => [.uni d.toNat]
  how := .park
  act := fun e s => match s.team? e.uid with
    | some t => .ok { s := s, writes := [(.uni d.toNat, .w (.word (t.residualCount k.toNat)))] }
    | none => .ok { s := s }

/-! ## The instructions -/

/-- `DEFER_ON` (R143). Turns deferring mode on from the next header. -/
def planDeferOn : Plan :=
  deferOnPlan

def execDeferOn (s : State) : Answered := issuePlain (planDeferOn ) s

/-- `DEFER_OFF` (R143). Drains the residual FIFO and turns deferring mode off. -/
def planDeferOff : Plan :=
  deferOffPlan

def execDeferOff (s : State) : Answered := issuePlain (planDeferOff ) s

/-- `DEFER_STRICT` (R143). Writes the strict residual overflow bit. -/
def planDeferStrict (m : BitVec 8) : Plan :=
  deferStrictPlan m

def execDeferStrict (m : BitVec 8) (s : State) : Answered := issuePlain (planDeferStrict m) s

/-- `RDRAIN` (R143). Waits until the residual FIFO is empty. -/
def planRdrain : Plan :=
  rdrainPlan

def execRdrain (s : State) : Answered := issuePlain (planRdrain ) s

/-- `RFSTAT` (R143). Writes one residual FIFO count into a uniform. -/
def planRfstat (d : BitVec 7) (k : BitVec 8) : Plan :=
  rfstatPlan d k

def execRfstat (d : BitVec 7) (k : BitVec 8) (s : State) : Answered := issuePlain (planRfstat d k) s

end Sys2Proof.Machine
end

