-- ==== Sys2Proof/Machine/Save.lean ====
section
/-! DEFINITION. Time slices, saves and restores: the save record (spec/04 R86 to R88; spec/07 R141), the crew image and its place (spec/14
R290), pre-emption (R288, R289) and the dispatcher's turn (R282). -/

namespace Sys2Proof.Machine

/-! ## Bytes of the record -/

/-- A word of a register: its bytes, or a poisoned word. -/
def valBytes (v : Val) : List PByte := match v with | .word w => leBytes 4 w.toNat | .poison => [none, none, none, none]

def zeros (n : Nat) : List PByte := List.replicate n (some 0)

/-- Up to the next 64-byte boundary. -/
def pad64 (bs : List PByte) : List PByte := bs ++ zeros ((64 - bs.length % 64) % 64)

/-- Bit 4 pending, bits [3:0] the generation. -/
def stateByte (pend : Bool) (gen : BitVec 4) : PByte := some (BitVec.ofNat 8 (gen.toNat + if pend then 16 else 0))

/-- A frontier lane word. -/
def LaneSt.word (x : LaneSt) : List PByte :=
  leBytes 8 (match x with
    | .active => 0
    | .waiting pc => pc.toNat / 4 * 4 + 1
    | .exited => 2
    | .held pc => pc.toNat / 4 * 4 + 3)

def laneOfWord (n : Nat) : LaneSt :=
  match n % 4 with
  | 0 => .active
  | 1 => .waiting (BitVec.ofNat 64 (n - 1))
  | 2 => .exited
  | _ => .held (BitVec.ofNat 64 (n - 3))

def LoopC.bytes (l : LoopC) (inner : Bool) : List PByte :=
  leBytes 4 l.count.toNat ++ leBytes 4 ((if l.active then 1 else 0) + (if inner then 2 else 0)) ++ leBytes 8 l.start.toNat ++ leBytes 8 l.stop.toNat

/-- Both loop counters. -/
def Frontier.loopBytes (f : Frontier) : List PByte :=
  f.l0.bytes (f.l0.active && !f.inner1) ++ f.l1.bytes (f.l1.active && f.inner1)

/-- TEAMCTL (R68). -/
def Team.teamctl (t : Team) : Word :=
  0#16 ++ BitVec.ofBool t.jto ++ BitVec.ofBool t.fr.rotate ++ BitVec.ofBool t.defOn ++ BitVec.ofBool t.strict ++ t.fpf ++ 0#5 ++ t.rm

/-- The control block (R87). `joinDeadline` of a saved team is what remains of it. -/
def Team.controlBlock (t : Team) : List PByte :=
  let w := (List.range 6).map (fun k => some (BitVec.ofNat 8 (tget 0 t.waits k).toNat))
  let va := fun (x : Option VA) => leBytes 8 ((x.map BitVec.toNat).getD 0)
  leBytes 8 t.pc.toNat ++ leBytes 8 t.regionVA.toNat ++ leBytes 8 t.passes.toNat ++ leBytes 4 t.regionCount.toNat ++ leBytes 4 t.teamctl.toNat
  ++ (w ++ zeros 2) ++ t.fr.loopBytes ++ leBytes 4 (t.fr.quantum % 128)
  ++ leBytes 4 (t.vN + 256 * t.aN + 65536 * t.rN + 2 ^ 25 * t.width) ++ va t.joinDeadline ++ va t.fr.joinVA ++ t.region.loopBytes
  ++ leBytes 4 (t.region.quantum % 128 + if t.region.rotate then 256 else 0) ++ zeros 4 ++ va t.region.joinVA ++ zeros 80

def Team.frontierBytes (t : Team) (f : Frontier) : List PByte := t.lanes.flatMap (fun l => (f.lane l).word)

def Team.uniformBytes (t : Team) : List PByte :=
  (List.range 128).flatMap (fun r => valBytes (t.unit (.uni r)).val)
  ++ (List.range 128).map (fun r => stateByte (t.pend (.uni r)) (t.gen (.uni r)))

def Team.predBytes (t : Team) : List PByte :=
  (List.range 8).flatMap (fun r => (List.range t.width).flatMap (fun k =>
    let u := UnitRef.pred r k
    let x := (t.unit u).preds
    leBytes 4 x.1.toNat ++ leBytes 4 x.2.toNat ++ leBytes 4 (if t.pend u then 0xFFFFFFFF else 0) ++ [stateByte false (t.gen u)] ++ zeros 3))

def Team.tileBytes (t : Team) : List PByte :=
  (List.range 16).flatMap (fun r => let x := (t.unit (.tile r)).tile; leBytes 8 x.1.toNat ++ leBytes 8 (if x.2 then 1 else 0))

def Team.vectorBytes (t : Team) : List PByte :=
  let rs := (List.range t.vN).flatMap (fun r => t.lanes.map (fun l => UnitRef.vec r l))
  rs.flatMap (fun u => valBytes (t.unit u).val) ++ rs.map (fun u => stateByte (t.pend u) (t.gen u))

def Team.accBytes (t : Team) : List PByte :=
  (List.range t.aN).flatMap (fun r => (List.range 512).flatMap (fun e => valBytes (tget (.word 0) (t.unit (.acc r)).accu.1 e)))
  ++ (List.range t.aN).flatMap (fun r =>
    leBytes 8 ((if t.pend (.acc r) then 1 else 0) + (if (t.unit (.acc r)).accu.2 then 2 else 0) + 16 * (t.gen (.acc r)).toNat))

/-- Sections 1 to 8 of a save record, each at a 64-byte boundary (R86). -/
def Team.recordHead (t : Team) : List PByte :=
  [t.controlBlock, t.frontierBytes t.fr, t.frontierBytes t.region, t.uniformBytes, t.predBytes, t.tileBytes, t.vectorBytes, t.accBytes].flatMap pad64

/-! ## The residual FIFO's section (R141) -/

/-- The first element of the accumulator part that an instruction reads (R165, R177); 0 for those that read none. -/
def partOf : Instr → Nat
  | .amov _ _ p => partKey p.toNat 0
  | _ => 0

/-- The words of one register of an operand in an entry: 32 to a mask word for a vector register, a word for a uniform, two for a tile, a word for
a predicate, the 32 elements of a part, the 512 of an old accumulator, or one (R131). `n` is how many it takes in all, `part` the element a part
begins at. -/
def slotWords (slots : List Slot) (n part : Nat) : List (Val × Bool × BitVec 4) :=
  let one := fun (x : Slot) (v : Val) => (v, x.got.isNone, x.want)
  let val := fun (x : Slot) => match x.got with | some (.w v) => v | _ => .word 0
  let words := match slots with
    | [] => []
    | x :: _ => match x.unit with
      | .vec r _ =>
        let ks := distinct (slots.filterMap (fun (x : Slot) => match x.unit with | .vec r' l => if r' = r then some (l / 32) else none | _ => none))
        ks.flatMap (fun k => (List.range 32).map (fun j =>
          match slots.find? (fun (x : Slot) => x.unit == UnitRef.vec r (32 * k + j)) with
          | some x => one x (val x)
          | none => (.word 0, false, 0)))
      | .uni _ => slots.map (fun (x : Slot) => one x (val x))
      | .pred _ _ => slots.map (fun (x : Slot) => one x (match x.got with
        | some (.p b q) => if q = 0 then .word b else .poison
        | _ => .word 0))
      | .tile _ => slots.flatMap (fun (x : Slot) => match x.got with
        | some (.t b q) => if q then [one x .poison, one x .poison] else [one x (.word (b.extractLsb' 0 32)), one x (.word (b.extractLsb' 32 32))]
        | _ => [one x (.word 0), one x (.word 0)])
      | .acc _ =>
        let per := n / slots.length
        slots.flatMap (fun (x : Slot) => match x.got with
          | some (.a es o) =>
            if per ≤ 1 then List.replicate per (one x (if es.any (fun y => y.2.isPoison) then .poison else .word (if o then 1 else 0)))
            else (List.range per).map (fun i => one x (tget (.word 0) es (part + i)))
          | _ => List.replicate per (one x (.word 0)))
  words.take n ++ List.replicate (n - words.length) (.word 0, false, 0)

/-- The register that a unit belongs to, as a kind and a number. -/
def UnitRef.register : UnitRef → Nat × Nat
  | .vec r _ => (0, r)
  | .uni r => (1, r)
  | .pred r _ => (2, r)
  | .acc _ => (3, 0)
  | .tile r => (4, r)

/-- The runs of slots that belong to one register of one operand, in field order. -/
def slotRuns : List Slot → List (List Slot)
  | [] => []
  | x :: rest =>
    match slotRuns rest with
    | (y :: ys) :: more =>
      if x.operand = y.operand ∧ x.unit.register = y.unit.register then (x :: y :: ys) :: more else [x] :: (y :: ys) :: more
    | more => [x] :: more

/-- Lane-words of a run in an entry. -/
def runWords (e : Entry) (r : List Slot) : Nat :=
  match r with
  | [] => 0
  | x :: _ => match x.unit with
    | .vec _ _ => 32 * (Mask.words e.mask).length
    | .uni _ => r.length
    | .pred _ _ => r.length
    | .tile _ => 2 * r.length
    | .acc _ => e.laneWords - (e.slots.filter (fun y => match y.unit with | .vec _ _ => false | .acc _ => false | _ => true)).length
        - 32 * (Mask.words e.mask).length * ((slotRuns e.slots).filter (fun q => match q with | y :: _ => (match y.unit with | .vec _ _ => true | _ => false) | [] => false)).length

/-- An entry's record. -/
def Entry.bytes (e : Entry) : List PByte :=
  let ws := ((slotRuns e.slots).flatMap (fun r => slotWords r (runWords e r) (partOf e.instr)))
  let base := if e.base.isEmpty then [] else
    e.base.flatMap (fun x => valBytes (match x.got with | some (.w v) => v | _ => .word 0)) ++ e.base.map (fun x => stateByte x.got.isNone x.want)
  leBytes 8 e.va.toNat ++ leBytes 4 e.word.toNat ++ leBytes 4 e.hdr.toNat
  ++ leBytes 4 (e.rm.toNat + 4 * e.w.toNat + if e.base.isEmpty then 0 else 32)
  ++ leBytes 4 ws.length ++ leBytes 4 e.dests.length ++ zeros 4 ++ e.mask.flatMap (fun m => leBytes 4 m.toNat)
  ++ ws.flatMap (fun x => valBytes x.1) ++ ws.map (fun x => stateByte x.2.1 x.2.2) ++ e.dests.map (fun o => stateByte false o.gen) ++ base

/-- Section 9. -/
def Team.fifoBytes (t : Team) : List PByte :=
  leBytes 4 t.fifo.length ++ leBytes 4 t.laneWords ++ leBytes 4 t.rN ++ leBytes 4 (chainState t.fifo).toNat ++ zeros 48
  ++ t.fifo.flatMap (fun e => pad64 e.bytes)

/-- A whole save record. -/
def Team.record (t : Team) : List PByte := t.recordHead ++ t.fifoBytes

/-! ## The crew image (R290) -/

/-- The teams of a crew that have a record: those that have not ended, by number. -/
def State.savedTeams (s : State) (k : Crew) : List (Nat × Team) :=
  (List.range 8).flatMap (fun n => (s.liveTeams k).filterMap (fun u => match s.team? u with
    | some t => if t.num = n then some (u, t) else none
    | none => none))

/-- Every team of a crew, those that have ended too: their arrivals stay counted. -/
def State.crewTeams (s : State) (k : Crew) : List (Nat × Team) := k.teams.filterMap (fun u => (s.team? u).map (fun t => (u, t)))

/-- A core barrier's 16 bytes. -/
def State.barBytes (s : State) (cid : Nat) (k : Crew) (n : Nat) : List PByte :=
  let key := barKey 1 cid n
  let b := s.bar key
  let ts := s.crewTeams k
  let bits := fun (p : Nat × Team → Bool) => ts.foldl (fun a t => if p t then a + 2 ^ t.2.num else a) 0
  leBytes 4 b.phase ++ leBytes 2 b.expected ++ leBytes 2 b.arrivals.length
  ++ leBytes 1 (bits (fun t => s.counted t.1 key)) ++ leBytes 1 (bits (fun t => (t.2.arrival key).made && (t.2.arrival key).waitedFor)) ++ zeros 6

/-- The barriers of section 5, in its order: quad, die, package. -/
def outerBars (k : Crew) : List Nat :=
  (List.range 16).map (barKey 2 k.quad) ++ (List.range 16).map (barKey 3 k.die) ++ (List.range 8).map (barKey 4 0)

/-- A team's result FIFOs and barrier arrivals. -/
def State.teamImage (s : State) (k : Crew) (uid : Nat) (t : Team) : List PByte :=
  let fifos := (List.range 16).flatMap (fun q =>
    let r := tget [] t.results q
    let conn := if 10 ≤ q ∧ q ≤ 13 then (tget 0 t.conn q).toNat else 0
    leBytes 8 (r.length + 256 * conn) ++ (List.range 16).flatMap (fun i => leBytes 8 (r.getD i 0).toNat))
  let pairs := (List.range 40).foldl (fun a i =>
    let key := (outerBars k).getD i 0
    a + (if s.counted uid key then 2 ^ (2 * i) else 0) + (if (t.arrival key).made && (t.arrival key).waitedFor then 2 ^ (2 * i + 1) else 0)) 0
  fifos ++ leBytes 16 pairs

/-- The offsets of the teams' save records in the image. -/
def recordOffsets (start : Nat) : List (Nat × Team) → List (Nat × Nat)
  | [] => []
  | (_, t) :: rest => (t.num, start) :: recordOffsets (start + (pad64 t.record).length) rest

/-- Sections 2 to 5. -/
def State.imageMiddle (s : State) (cid : Nat) (k : Crew) (ts : List (Nat × Team)) : List PByte :=
  let tags := (List.range k.tent).flatMap (fun i => match tget none k.tags i with | some va => leBytes 8 (va.toNat / 2 * 2 + 1) | none => zeros 8)
  [k.spadBytes 0 k.spadSize, tags, (List.range 32).flatMap (s.barBytes cid k), ts.flatMap (fun t => s.teamImage k t.1 t.2)].flatMap pad64

/-- The whole image of a crew. -/
def State.image (s : State) (cid : Nat) (k : Crew) : List PByte :=
  let ts := s.savedTeams k
  let mid := s.imageMiddle cid k ts
  let offs := recordOffsets (256 + mid.length) ts
  let recs := ts.flatMap (fun t => pad64 t.2.record)
  let card := s.card? k.tid
  let img := s.imageOf k.tid
  leBytes 8 (256 + mid.length + recs.length) ++ leBytes 8 ((card.map (fun c => c.va.toNat)).getD 0) ++ leBytes 4 k.tid.toNat ++ leBytes 2 k.index
  ++ leBytes 2 k.ticket.toNat ++ leBytes 4 img.spadWord.toNat ++ leBytes 4 (k.pool.vec + 256 * k.pool.acc + 4096 * (4 * k.pool.res))
  ++ leBytes 4 ((if k.storePoison then 1 else 0) + 256 * ts.foldl (fun a t => a + 2 ^ t.2.num) 0)
  ++ leBytes 4 ((card.map (fun c => c.relaunches)).getD 0) ++ zeros 24
  ++ (List.range 8).flatMap (fun n => leBytes 8 (((offs.find? (fun o => o.1 == n)).map Prod.snd).getD 0)) ++ zeros 128
  ++ mid ++ recs

/-! ## The save area (R290) -/

/-- The lowest 64-byte-aligned free place that can hold an image. -/
def World.place (w : World) (size : Nat) : Option Nat :=
  let up := fun n => (n + 63) / 64 * 64
  let cands := up w.saveBase :: w.saved.map (fun x => up (x.1 + x.2.1))
  let ok := cands.filter (fun a => decide (w.saveBase ≤ a) && decide (a + size ≤ w.saveBase + w.saveSize)
    && w.saved.all (fun x => decide (a + size ≤ x.1) || decide (x.1 + x.2.1 ≤ a)))
  match ok with
  | [] => none
  | _ => some (leastOf ok)

/-- Begin a save: the place is taken and the crew's teams stop. None when it does not fit. -/
def State.beginSave (s : State) (cid : Nat) : Option State :=
  match s.crew? cid with
  | none => none
  | some k =>
    let size := (s.image cid k).length
    match (s.world k.world).place size with
    | none => none
    | some a =>
      let s := s.modWorld k.world (fun w => { w with saved := w.saved ++ [(a, size, cid)] })
      let s := k.teams.foldl (fun s u => s.modTeam u (fun t => if t.status = .running then { t with status := .saved, stall := 16 } else t)) s
      some (s.modCrew cid (fun k => { k with status := .saving, savedAt := some a, drainTill := none }))

/-- Everything that a save waits for has come (R86, R191, R249). A word whose passes issue one by one stays where it is, with its passes still to
issue. -/
def State.saveReady (s : State) (k : Crew) : Bool := !s.crewBusy k.teams && !s.lands.any (fun l => k.teams.contains l.team)

/-- R290 where an image cannot be kept: flush-and-restart for an idempotent card, else a drain without limit. The teams go on. -/
def State.noRoom (s : State) (cid : Nat) : State :=
  match s.crew? cid with
  | none => s
  | some k =>
    let s := s.modWorld k.world (fun w => { w with saved := w.saved.filter (fun x => x.2.2 != cid) })
    let s := k.teams.foldl (fun s u => s.modTeam u (fun t => if t.status = .saved then { t with status := .running } else t)) s
    let s := s.modCrew cid (fun k => { k with status := .draining, savedAt := none, drainTill := none })
    if (s.imageOf k.tid).idem then s.flushCrew cid else s

/-- `CREW_SAVE` (R86, R290): the image is written by the die in the crew's world; then the core is free. An area that cannot be written
is one without room (DEDUCED, notes/assumptions/34.md). -/
def State.crewSave (s : State) (cid : Nat) : State :=
  match s.crew? cid with
  | none => s
  | some k =>
    match k.savedAt with
    | none => s
    | some a =>
      if k.status ≠ .saving ∨ s.saveReady k = false ∨ (s.die k.die).silent = true then s
      else
        let now := s.dccOf k
        let s := k.teams.foldl (fun s u => s.overdueAt u now.toNat) s
        let s1 := k.teams.foldl (fun s u => s.modTeam u (fun t => { t with joinDeadline := t.joinDeadline.map (fun d => d - now) })) s
        let bs := s1.image cid k
        if s.spanBusy k.die k.world a bs.length then s
        else match s1.writePieces k.die k.world 64 (bs.length / 64 + 1) a bs with
        | .error _ => s.noRoom cid
        | .ok s2 =>
          (s2.modCrew cid (fun k => { k with status := .saved, offCore := true })).modDie k.die (fun d => { d with savedOrder := d.savedOrder ++ [cid] })

def execCrewSave (crew : Nat) (s : State) : Answered := .next (s.crewSave crew)

/-! ## Restore (R88, R289) -/

/-- A number from an image. A byte that reads as poison there makes it a free value (notes/assumptions/34.md). -/
def fieldOr (n : Nat) (bs : List PByte) (off len : Nat) : Nat :=
  (leNat ((bs.drop off).take len)).getD ((Config.freeBits (n + off)).toNat % 256 ^ len)

def imageVal (bs : List PByte) (off : Nat) : Val := match leNat ((bs.drop off).take 4) with | some n => .word (BitVec.ofNat 32 n) | none => .poison

def loopOf (f : Nat → Nat → Nat) (off : Nat) : LoopC :=
  { count := BitVec.ofNat 32 (f off 4), active := f (off + 4) 4 % 2 == 1, start := BitVec.ofNat 64 (f (off + 8) 8), stop := BitVec.ofNat 64 (f (off + 16) 8) }

/-- A VA field that is 0 when there is none. -/
def vaOf (n : Nat) : Option VA := if n = 0 then none else some (BitVec.ofNat 64 n)

/-- The lanes' states of a frontier section. -/
def lanesOf (f : Nat → Nat → Nat) (off width : Nat) : Table LaneSt :=
  (List.range (32 * width)).foldl (fun m l => tset .active m l (laneOfWord (f (off + 8 * l) 8))) []

/-- The control block and the frontier sections. A save may find a team inside a clause: the record's PC is then the clause's header, and the model
keeps the open clause and its place outside the record and goes on there when the record still names that header; the spec names no point at which a
save stops a team (DESIGN CHOICE, R87, notes/assumptions/68.md). -/
def Team.loadControl (t : Team) (f : Nat → Nat → Nat) (now : BitVec 64) : Team :=
  let ctl := BitVec.ofNat 32 (f 0x1C 4)
  let al := f 0x5C 4
  let w := al / 2 ^ 25 % 64
  let pc := BitVec.ofNat 64 (f 0 8)
  { t with
    width := w, pc := pc, clause := if pc = t.pc then t.clause else none, regionVA := BitVec.ofNat 64 (f 8 8), passes := BitVec.ofNat 64 (f 0x10 8)
    regionCount := BitVec.ofNat 32 (f 0x18 4)
    jto := ctl.getLsbD 15, defOn := ctl.getLsbD 13, strict := ctl.getLsbD 12, fpf := fld ctl 7 5, rm := fld ctl 0 2
    waits := (List.range 6).foldl (fun m k => tset 0 m k (BitVec.ofNat 6 (f (0x20 + k) 1))) []
    fr := { lanes := lanesOf f 256 w, l0 := loopOf f 0x28, l1 := loopOf f 0x40, inner1 := f 0x44 4 / 2 % 2 == 1
            rotate := ctl.getLsbD 14, quantum := f 0x58 4 % 128, joinVA := vaOf (f 0x68 8) }
    region := { lanes := lanesOf f (256 + 256 * w) w, l0 := loopOf f 0x70, l1 := loopOf f 0x88, inner1 := f 0x8C 4 / 2 % 2 == 1
                rotate := f 0xA0 4 / 256 % 2 == 1, quantum := f 0xA0 4 % 128, joinVA := vaOf (f 0xA8 8) }
    vN := al % 256, aN := al / 256 % 256, rN := al / 65536 % 512
    joinDeadline := if f 0x60 8 = 0 then none else some (now + BitVec.ofNat 64 (f 0x60 8)) }

/-- A state byte's pending bit and generation. -/
def stateOf (n : Nat) : Bool × BitVec 4 := (n / 16 % 2 == 1, BitVec.ofNat 4 n)

/-- The register sections. -/
def Team.loadRegs (t : Team) (bs : List PByte) (f : Nat → Nat → Nat) : Team :=
  let w := t.width
  let u0 := 256 + 512 * w
  let p0 := u0 + 640
  let t0 := p0 + 128 * w
  let v0 := t0 + 256
  let a0 := v0 + 160 * w * t.vN
  let t1 := (List.range 128).foldl (fun t r =>
    let st := stateOf (f (u0 + 512 + r) 1)
    t.put (.uni r) (.w (imageVal bs (u0 + 4 * r))) st.1 st.2) { t with u := [], v := [], p := [], a := [] }
  let t2 := (List.range (8 * w)).foldl (fun t i =>
    let o := p0 + 16 * i
    t.put (.pred (i / w) (i % w)) (.p (BitVec.ofNat 32 (f o 4)) (BitVec.ofNat 32 (f (o + 4) 4))) (f (o + 8) 4 != 0) (BitVec.ofNat 4 (f (o + 12) 1))) t1
  let t3 := (List.range 16).foldl (fun t r =>
    t.put (.tile r) (.t (BitVec.ofNat 64 (f (t0 + 16 * r) 8)) (f (t0 + 16 * r + 8) 1 % 2 == 1)) (t.pend (.tile r)) (t.gen (.tile r))) t2
  let t4 := (List.range (32 * w * t.vN)).foldl (fun t i =>
    let st := stateOf (f (v0 + 128 * w * t.vN + i) 1)
    t.put (.vec (i / (32 * w)) (i % (32 * w))) (.w (imageVal bs (v0 + 4 * i))) st.1 st.2) t3
  (List.range t.aN).foldl (fun t r =>
    let st := f (a0 + 2048 * t.aN + 8 * r) 8
    let es := (List.range 512).foldl (fun m e => tset (.word 0) m e (imageVal bs (a0 + 2048 * r + 4 * e))) []
    t.put (.acc r) (.a es (st / 2 % 2 == 1)) (st % 2 == 1) (BitVec.ofNat 4 (st / 16))) t4

/-- A slot as a record has it: at word i of the m of its entry, values at `at_`, state bytes after them. -/
def slotFrom (bs : List PByte) (f : Nat → Nat → Nat) (at_ m operand : Nat) (u : UnitRef) (i count part : Nat) : Slot :=
  let val := fun j => if j < m then imageVal bs (at_ + 4 * j) else .word 0
  let st := stateOf (if i < m then f (at_ + 4 * m + i) 1 else 0)
  let got := match u with
    | .vec _ _ => UnitVal.w (val i)
    | .uni _ => .w (val i)
    | .pred _ _ => (match val i with | .word y => .p y 0 | .poison => .p 0 0xFFFFFFFF)
    | .tile _ => (match val i, val (i + 1) with | .word lo, .word hi => .t (hi ++ lo) false | _, _ => .t 0 true)
    | .acc _ =>
      if count ≤ 1 then (match val i with | .word y => .a [] (y == 1) | .poison => .a [(0, .poison)] false)
      else .a ((List.range count).foldl (fun t j => tset (.word 0) t (part + j) (val (i + j))) []) false
  { unit := u, want := st.2, got := if st.1 then none else some got, operand := operand }

/-- The slots of one operand from word i of a record, for its units in order, and the word after it (R131, R141). -/
def operandFrom (bs : List PByte) (f : Nat → Nat → Nat) (at_ m part : Nat) (ks : List Nat) (x : Src) (operand i : Nat) : List Slot × Nat :=
  let regs := distinct (x.units.map (fun u => u.register.2))
  let accs := (x.units.filter (fun u => u.register.1 == 3)).length
  let slots := x.units.zipIdx.map (fun y =>
    let at1 := match y.1 with
      | .vec r l => i + 32 * (ks.length * regs.idxOf r + ks.idxOf (l / 32)) + l % 32
      | .tile _ => i + 2 * y.2
      | .acc _ => i + x.words / accs * y.2
      | _ => i + y.2
    slotFrom bs f at_ m operand y.1 at1 (if accs = 0 then 1 else x.words / accs) part)
  (slots, i + x.words)

/-- Operands from a record, one after the other. -/
def operandsFrom (bs : List PByte) (f : Nat → Nat → Nat) (at_ m part : Nat) (ks : List Nat) : Nat → Nat → List Src → List Slot
  | _, _, [] => []
  | operand, i, x :: rest =>
    let r := operandFrom bs f at_ m part ks x operand i
    r.1 ++ operandsFrom bs f at_ m part ks (operand + 1) r.2 rest

/-- The length of an entry's record before padding. -/
def entryLength (f : Nat → Nat → Nat) (width : Nat) : Nat :=
  0x20 + 4 * width + 5 * f 0x14 4 + f 0x18 4 + (if f 0x10 4 / 32 % 2 = 1 then 10 else 0)

/-- An entry as its record gives it (R88, R141): the instruction by its word, its operands and destinations by that instruction, their values,
states and generations by the record. A word that is no instruction never runs. The record does not hold the VA of the clause's header: that of the
entry saved at the same VA, else a free value (notes/assumptions/34.md). -/
def Entry.parse (t : Team) (bs : List PByte) (f : Nat → Nat → Nat) (n : Nat) : Entry :=
  let w := BitVec.ofNat 32 (f 8 4)
  let i := match decodeEntry w 0 with
    | .ok i => i
    | .error _ => .clauseHeader 0 0 0 0 0 0 0 0
  let mask : Mask := (List.range t.width).map (fun k => BitVec.ofNat 32 (f (0x20 + 4 * k) 4))
  let m := f 0x14 4
  let at_ := 0x20 + 4 * t.width
  let flags := f 0x10 4
  let va := BitVec.ofNat 64 (f 0 8)
  let srcs := match planOf i with | some p => p.srcs t mask ++ p.part t mask | none => []
  let dsts := match planOf i with | some p => (p.dsts t mask).filter (fun (r : UnitRef) => !r.wired) | none => ([] : List UnitRef)
  let tail := at_ + 5 * m + f 0x18 4
  { word := w, lit := 0, instr := i, va := va, hdr := BitVec.ofNat 32 (f 12 4)
    hdrVA := match t.fifo.find? (fun e => e.va == va) with | some e => e.hdrVA | none => Config.freeBits n
    rm := BitVec.ofNat 2 flags, w := BitVec.ofNat 3 (flags / 4), mask := mask
    slots := operandsFrom bs f at_ m (partOf i) (Mask.words mask) 0 0 (srcs.filter (fun x => !x.isBase))
    base := if flags / 32 % 2 = 1 then [0, 1].map (fun j =>
        let st := stateOf (f (tail + 8 + j) 1)
        { unit := .uni (126 + j), want := st.2, got := if st.1 then none else some (.w (imageVal bs (tail + 4 * j))) })
      else []
    dests := dsts.zipIdx.map (fun d => { unit := d.1, gen := BitVec.ofNat 4 (if d.2 < f 0x18 4 then f (at_ + 5 * m + d.2) 1 else 0) })
    laneWords := m }

/-- n entries from their records, one after the other. -/
def parseEntries (t : Team) (bs : List PByte) (f : Nat → Nat → Nat) (seed : Nat) : Nat → Nat → List Entry
  | 0, _ => []
  | n + 1, off =>
    let g := fun a l => f (off + a) l
    Entry.parse t (bs.drop off) g seed :: parseEntries t bs f seed n (off + (entryLength g t.width + 63) / 64 * 64)

/-- Bytes of sections 1 to 8 of a team's record (R86). -/
def Team.headSize (t : Team) : Nat := 256 + 512 * t.width + 640 + 128 * t.width + 256 + (160 * t.width * t.vN + 63) / 64 * 64 + (2056 * t.aN + 63) / 64 * 64

/-- A team from its save record. Entries whose section the record holds unchanged are the ones saved. -/
def Team.restore (t : Team) (bs : List PByte) (n : Nat) (now : BitVec 64) : Team :=
  let f := fieldOr n bs
  let old := t.fifoBytes
  let t1 := (t.loadControl f now).loadRegs bs f
  let head := t1.headSize
  let sec := bs.drop head
  if t1.width = t.width ∧ sec.take old.length = old then t1
  else
    let g := fun a m => f (head + a) m
    { t1 with fifo := parseEntries t1 sec g n (g 0 4 % 257) 64 }

/-- A team's result FIFOs and what its arrivals were waited for, from section 5. -/
def Team.loadResults (t : Team) (k : Crew) (f : Nat → Nat → Nat) (off : Nat) : Team :=
  let t1 := (List.range 16).foldl (fun t q =>
    let h := f (off + 136 * q) 8
    let r := (List.range (h % 256)).map (fun i => BitVec.ofNat 64 (f (off + 136 * q + 8 + 8 * i) 8))
    { t with results := tset [] t.results q (r.take 16)
             conn := if 10 ≤ q ∧ q ≤ 13 then tset 0 t.conn q (BitVec.ofNat 20 (h / 256)) else t.conn }) t
  (List.range 40).foldl (fun t i =>
    let key := (outerBars k).getD i 0
    let a := t.arrival key
    if a.made then t.setArrival key { a with waitedFor := f (off + 2176 + i / 4) 1 / 2 ^ (2 * (i % 4) + 1) % 2 == 1 } else t) t1

/-- A core barrier from its 16 bytes. A count above the teams' bits is of arrivals that no team of the crew stands for: number 0. -/
def State.loadBar (s : State) (cid : Nat) (ts : List (Nat × Team)) (f : Nat → Nat → Nat) (off n : Nat) : State :=
  let o := off + 16 * n
  let key := barKey 1 cid n
  let here := (ts.filter (fun t => f (o + 8) 1 / 2 ^ t.2.num % 2 == 1)).map Prod.fst
  let b := s.bar key
  let count := f (o + 6) 2
  s.setBar key { b with phase := f o 4, expected := f (o + 4) 2, arrivals := (here ++ List.replicate (count - here.length) 0).take count, isOpen := f (o + 6) 2 != 0
                        delivered := if f o 4 < b.delivered then f o 4 else b.delivered }

/-- A crew back from its image, on a core of a die. Barriers' phases that completed meanwhile are delivered (R271). -/
def State.restoreCrew (s : State) (cid core : Nat) (bs : List PByte) (a : Nat) : State :=
  match s.crew? cid with
  | none => s
  | some k =>
    let n := s.free
    let f := fieldOr n bs
    let ts := s.savedTeams k
    let mid := s.imageMiddle cid k ts
    let offs := recordOffsets (256 + mid.length) ts
    let spadAt := 256
    let tagAt := spadAt + (k.spadSize + 63) / 64 * 64
    let barAt := tagAt + (8 * k.tent + 63) / 64 * 64
    let resAt := barAt + 512
    let now := s.dccOf k
    let slots := freeSlotsOf (s.teamSlots k.die core) 16 16
    let pw := f 0x1C 4
    let k1 : Crew :=
      { k with
        core := core, slot := (freeSlotsOf (s.crewSlots k.die core) 8 1).headD 0, status := .resident, offCore := false, savedAt := none
        ticket := BitVec.ofNat 16 (f 0x16 2), pool := { vec := pw % 256, acc := pw / 256 % 16, res := pw / 4096 % 256 / 4 }
        storePoison := f 0x20 4 % 2 == 1
        spad := [], spadPoison := []
        tags := (List.range k.tent).foldl (fun m i =>
          let e := f (tagAt + 8 * i) 8
          tset none m i (if e % 2 = 1 then some (BitVec.ofNat 64 (e - 1)) else none)) [] }
    let k2 := k1.spadPut ((List.range k.spadSize).map (fun i => (i, bs.getD (spadAt + i) none)))
    let s1 := { (s.setCrew cid k2) with free := n + bs.length + 8 }
    let s2 := ts.zipIdx.foldl (fun s x =>
      let uid := x.1.1
      let t := x.1.2
      let off := ((offs.find? (fun o => o.1 == t.num)).map Prod.snd).getD 0
      let t1 := (t.restore (bs.drop off) (n + off) now).loadResults k f (resAt + 2192 * x.2)
      let s1 := s.setTeam uid { t1 with slot := slots.getD x.2 0, status := if t.status = .saved then .running else t.status, stall := 26 }
      if t1.clause.isNone && t.clause.isSome then s1.abandon uid else s1) s1
    let s3 := (List.range 32).foldl (fun s i => s.loadBar cid (s.crewTeams k2) f barAt i) s2
    let s4 := (s3.modWorld k.world (fun w => { w with saved := w.saved.filter (fun x => x.1 != a) })).modDie k.die
      (fun d => { d with savedOrder := d.savedOrder.filter (· != cid) })
    (ts.foldl (fun s t => t.2.arrivals.foldl (fun s x => s.barWake x.1 t.1) s) s4)

/-- Restore the saved crews of the gang of the first saved crew of the running world: whole, in one quad. `none`: nothing of the world is
saved; `some none`: it cannot be done yet. An image that cannot be read fails its gang as by `trelaunch` (notes/assumptions/34.md). -/
def State.restoreNext (s : State) (d : Nat) : Option (Option State) :=
  match (s.die d).savedOrder.find? (fun id => match s.crew? id with
      | some k => k.world == (s.die d).world && k.status == CrewSt.saved
      | none => false) with
  | none => none
  | some id =>
    match s.crew? id with
    | none => some none
    | some k =>
      let gang := s.crewsWhere (fun x => x.tid == k.tid && x.gang == k.gang && x.status == CrewSt.saved)
      let saving := s.crewsWhere (fun x => x.tid == k.tid && x.gang == k.gang && x.status == CrewSt.saving)
      if !saving.isEmpty then some none
      else match s.findCores d k.tid (s.imageOf k.tid) k.gang gang.length with
      | none => some none
      | some cores =>
        some (some ((gang.zip cores).foldl (fun s x =>
          match s.crew? x.1 with
          | none => s
          | some k => match (if k.status = .saved then k.savedAt else none) with
            | none => s
            | some a =>
              let size := (((s.world k.world).saved.find? (fun y => y.1 == a)).map (fun y => y.2.1)).getD 0
              match s.readSpan d k.world (size / 8) a with
              | .error c => s.relaunchGang x.1 (c.setWidth 6)
              | .ok bs => (s.spanNoted d k.world 8 (size / 8) a).restoreCrew x.1 x.2 bs a) s))

/-! ## Slices (R288, R289) -/

/-- The retired passes of a crew's teams since launch. -/
def State.crewPasses (s : State) (k : Crew) : Nat :=
  k.teams.foldl (fun n u => match s.team? u with | some t => n + t.total.toNat | none => n) 0

/-- A team of the crew is in stop mode (R336). -/
def State.crewStopping (s : State) (k : Crew) : Bool :=
  k.teams.any (fun u => match s.team? u with | some t => t.stop.mode && t.status != TeamSt.ended | none => false)

/-- Drain: the crew runs on, for one slice length. -/
def State.drainCrew (s : State) (cid : Nat) (till : BitVec 64) : State :=
  s.modCrew cid (fun k => { k with status := .draining, drainTill := some till })

/-- One crew of the expiring world, in the way of the first row of R289 that applies. Progress compares against quarters of the estimate. -/
def State.preempt (s : State) (cid : Nat) (till : BitVec 64) : State :=
  match s.crew? cid with
  | none => s
  | some k =>
    let img := s.imageOf k.tid
    let est := img.est.toNat
    let p := if est = 0 then 0 else s.crewPasses k
    if s.crewStopping k then s.drainCrew cid till
    else if img.idem && (est == 0 || decide (4 * p < est)) then s.flushCrew cid
    else if est ≠ 0 ∧ est ≤ 4 * p ∧ 4 * p < 3 * est then (match s.beginSave cid with | some s => s | none => s.noRoom cid)
    else s.drainCrew cid till

/-- `SLICE_EXPIRY` (R288): with no other world's ready or saved work the slice starts again; else the world's resident crews are pre-empted and the
slice of the next world that is served begins, in ascending turn. -/
def State.sliceExpiry (s : State) (d : Nat) : State :=
  let x := s.die d
  if x.silent || x.sliceLen == 0 || x.dcc.ult (x.sliceStart + x.sliceLen) then s
  else match (if (List.range 16).any (fun w => w != x.world && s.worldReady d w) then s.nextWorld d (fun w => w != x.world && s.worldWork d w) else none) with
    | none => s.startSlice d x.world
    | some w =>
      let ids := s.crewsWhere (fun k => k.die == d && k.world == x.world && k.kind == CrewKind.ordinary && k.status == CrewSt.resident)
      (ids.foldl (fun s i => s.preempt i (x.dcc + x.sliceLen)) s).startSlice d w

def execSliceExpiry (die : Nat) (s : State) : Answered := .next (s.sliceExpiry die)

/-- `DRAIN_LIMIT_EXPIRY` (R289): a drained crew that has not retired within its limit is saved. -/
def State.drainLimit (s : State) (cid : Nat) : State :=
  match s.crew? cid with
  | none => s
  | some k => match k.drainTill with
    | none => s
    | some till =>
      if k.status ≠ .draining ∨ (s.dccOf k).ult till = true ∨ s.crewStopping k = true then s
      else match s.beginSave cid with
        | some s => s
        | none => s.noRoom cid

def execDrainLimitExpiry (crew : Nat) (s : State) : Answered := .next (s.drainLimit crew)

/-! ## The dispatcher's turn (R282, R289) -/

/-- `DISPATCH`: saved crews of the running world first, then gangs due for relaunch, then cards; one placement. -/
def State.dispatch (s0 : State) (d : Nat) : State :=
  if 8 ≤ d ∨ s0.dieUp d = false ∨ (s0.die d).silent = true then s0
  else
    let s := s0.turnWorld d
    match s.restoreNext d with
    | some (some s) => s
    | some none => match s.placeCard d true (s.poolOrder d) false with
      | some s => s
      | none => s
    | none => match s.placeRelaunch d (s.die d).relaunch with
      | some s => s
      | none => match s.placeCard d false (s.poolOrder d) false with
        | some s => s
        | none => s

def execDispatch (die : Nat) (s : State) : Answered := .next (s.dispatch die)

end Sys2Proof.Machine
end

