-- ==== Sys2Proof/Machine/Task.lean ====
section
/-! DEFINITION. The task and trap entries (spec/14 R279, R284, R287, R293 to R295), the trap record and its handler (R291, R292), resumption
(R294), the program queue (R280), the timeout of a join (spec/03 R65) and the reset of a die (R296). -/

namespace Sys2Proof.Machine

/-! ## `post` (R279) -/

/-- Step 4: the world byte of the card. -/
def State.cardWorld (s : State) (die world pa : Nat) : Except (BitVec 8) Nat :=
  match s.readOwn die world (pa + 0x78) 8 with
  | .error c => .error c
  | .ok bs => match leNat (bs.take 1) with | some w => .ok w | none => .error 0x10

/-- Steps 5 to 7 of `post`. -/
def State.postRelease (s : State) (uid : Nat) (k : Crew) (va die : Nat) : Done :=
  let r : Releaser :=
    { src := k.die, world := k.world, asn := k.asn, va := va, die := die, unit := k.die, token := submitToken k.tid }
  if !s.relMet uid 4 then .wait 11 s
  else match s.takerOf r with
    | none => .wait 23 s
    | some (d, _) =>
      if !s.poolRoom d then .wait 23 s
      else match s.release r with
        | (_, .refused c) => .trap { cause := c, va := some (BitVec.ofNat 64 va) }
        | (_, .waits) => .wait 23 s
        | (_, .atZero) => .trap .queueMisuse
        | (s, _) => .ok { s := s }

/-- `post`. An odd sa traps only once the FIFO is empty, as the rule orders them. A card of world 0 is no violation of another confidential world (R305). -/
def postPlan (d a : BitVec 7) : Plan where
  whole := true
  srcs := fun _ _ => if a.toNat % 2 = 1 then [] else [uSrc a.toNat, uSrc (a.toNat + 1), uSrc d.toNat]
  how := .drain
  reason := 2
  act := fun e s => if a.toNat % 2 = 1 then .trap .illegalOperand else match s.crewOf e.uid, e.u a.toNat, e.u (a.toNat + 1), e.u d.toNat with
    | none, _, _, _ => .ok { s := s }
    | some (_, k), .word lo, .word hi, .word x =>
      let va := (pairVA lo hi).toNat
      let bad := fun (s : State) (c : BitVec 8) =>
        let tr : Trap := { cause := c, va := some (BitVec.ofNat 64 va) }
        Done.fail (s.violated e.uid tr) tr
      let walked := s.walkNoted k.die k.world k.asn va
      if 8 ≤ x.toNat ∧ x ≠ 0xFF then .trap .illegalOperand
      else if va % 128 ≠ 0 then bad s 0x09
      else match s.translateOwn k.die k.world k.asn { rd := true, wr := true } va with
        | .error c => bad walked c
        | .ok pa =>
          let seen := walked.readNoted k.die k.world (pa + 0x78) 8
          match s.cardWorld k.die k.world pa with
          | .error c => bad seen c
          | .ok w =>
            if w ≠ k.world then .fail (if w = 0 then seen else seen.violated e.uid { cause := 0x0C }) { cause := 0x0C }
            else s.postRelease e.uid k va (if x = 0xFF then k.die else x.toNat)
    | _, _, _, _ => .trap .poisonUniform

/-! ## `done`, `ctok`, `tid` (R284, R287) -/

/-- `done`: the code joins the card's, and the crew stops. -/
def donePlan (a : BitVec 7) : Plan where
  whole := true
  srcs := fun _ _ => [uSrc a.toNat]
  how := .drain
  reason := 2
  act := fun e s => match s.crewOf e.uid, e.u a.toNat with
    | none, _ => .ok { s := s }
    | _, .poison => .trap .poisonUniform
    | some (t, k), .word w =>
      if k.storePoison then .trap { cause := 0x11 }
      else .ok { s := (s.modCard k.tid (fun c => { c with code := c.code ||| w.setWidth 16 })).retireCrew t.crew, moved := true }

/-- An entry that writes an even uniform pair from its crew's card. -/
def pairPlan (d : BitVec 7) (x : State → Team → Crew → BitVec 64) : Plan where
  whole := true
  regs := fun _ _ => evenU d
  dsts := fun _ _ => [.uni d.toNat, .uni (d.toNat + 1)]
  how := .park
  act := fun e s => match s.crewOf e.uid with
    | none => .ok { s := s }
    | some (t, k) => .ok { s := s, writes := pairWrites d (x s t k) }

/-- `ctok`: the token of the release that entered the card. -/
def ctokPlan (d : BitVec 7) : Plan := pairPlan d (fun s _ k => match s.card? k.tid with | some c => c.token | none => 0)

/-- `tid`. -/
def tidPlan (d : BitVec 7) : Plan := pairPlan d (fun s t k =>
  let n := match s.card? k.tid with | some c => c.relaunches | none => 0
  (0#4 ++ BitVec.ofNat 4 n ++ 0#3 ++ t.role ++ BitVec.ofNat 3 t.num ++ BitVec.ofNat 16 k.index ++ k.tid : BitVec 64))

/-! ## Traps and decisions (R293 to R295) -/

/-- `trap n`. -/
def trapPlan (n : BitVec 8) : Plan where
  whole := true
  how := .free
  act := fun _ _ => .trap { cause := 0x1A, va := some (n.setWidth 64) }

/-- Only a handler crew decides. -/
def handlerOnly (k : Crew) : Option Trap := match k.kind with | .handler _ _ => none | _ => some .denied

/-- The handle of a number, if this handler crew holds it open. -/
def State.heldBy (s : State) (k : Crew) (h : Nat) : Option Handle :=
  match tget none s.handles h with
  | some x => if x.handlerTid = k.tid then some x else none
  | none => none

/-- `tresume`: the team resumes once its commands complete (TEAM_RESUME). -/
def State.decideResume (s : State) (hid : Nat) (h : Handle) : State :=
  (s.modTeam h.team (fun t => { t with trap := none, handle := 0, ctlWord := some h.ctl })).closeHandle hid

/-- `tkill`. -/
def State.decideKill (s : State) (hid : Nat) (h : Handle) : State :=
  match s.team? h.team with
  | some t => (s.killCrew t.crew 0x03 h.cause).closeHandle hid
  | none => s.closeHandle hid

/-- `trelaunch`. -/
def State.decideRelaunch (s : State) (hid : Nat) (h : Handle) : State :=
  match s.team? h.team with
  | some t => (s.relaunchGang t.crew h.cause).closeHandle hid
  | none => s.closeHandle hid

/-- A decision entry. -/
def decidePlan (a : BitVec 7) (f : State → Nat → Handle → State) : Plan where
  whole := true
  priv := handlerOnly
  srcs := fun _ _ => [uSrc a.toNat]
  how := .park
  reason := 2
  act := fun e s => match s.crewOf e.uid, e.u a.toNat with
    | none, _ => .ok { s := s }
    | _, .poison => .trap .poisonUniform
    | some (_, k), .word w => match s.heldBy k w.toNat with
      | none => .ok { s := s }
      | some h => .ok { s := f s w.toNat h }

/-- The residual quota of a team-control word. -/
def ctlQuota (w : Word) : Nat := (fld w 8 9).toNat

/-- R295 for a write: the status, and the state with the quota's difference taken from the crew's pool, or returned to it, at once, so
that `tresume` can meet it (DEDUCED, notes/assumptions/35.md). -/
def State.setControl (s : State) (hid : Nat) (h : Handle) (v : Word) : State × Word :=
  if fld v 17 15 ≠ 0 ∨ fld v 2 6 ≠ 0 ∨ 256 < ctlQuota v ∨ ctlQuota v % 4 ≠ 0 then (s, 3)
  else match s.team? h.team with
    | none => (s, 2)
    | some t => match s.crew? t.crew with
      | none => (s, 2)
      | some k =>
        let old := ctlQuota h.ctl
        let new := ctlQuota v
        let need := (new - old + 3) / 4
        if k.pool.res < need then (s, 1)
        else
          let s := s.modCrew t.crew (fun k => { k with pool := { k.pool with res := k.pool.res - need + (old - new) / 4 } })
          ({ s with handles := tset none s.handles hid (some { h with ctl := v }) }, 0)

/-- `trecord`. Of a handle that is not open, what a read writes is a free value. -/
def trecordPlan (d a : BitVec 7) (k : BitVec 1) : Plan where
  whole := true
  regs := fun _ _ => evenU a
  priv := handlerOnly
  srcs := fun _ _ => [uSrc a.toNat, uSrc (a.toNat + 1)]
  dsts := fun _ _ => [.uni d.toNat]
  how := .park
  reason := 2
  act := fun e s => match s.crewOf e.uid, e.u a.toNat, e.u (a.toNat + 1) with
    | none, _, _ => .ok { s := s }
    | some (_, c), .word h, .word v =>
      let out := fun (s : State) (w : Word) => Done.ok { s := s, writes := [(.uni d.toNat, .w (.word w))] }
      match s.heldBy c h.toNat with
      | none => if k = 0 then out { s with free := s.free + 1 } (Config.freeWord s.free) else out s 2
      | some x => if k = 0 then out s x.ctl else let r := s.setControl h.toNat x v; out r.1 r.2
    | _, _, _ => .trap .poisonUniform

/-! ## The trap record (R291, R292) -/

/-- The control word of a team. -/
def Team.control (t : Team) : Word :=
  BitVec.ofNat 32 ((if t.defOn then 1 else 0) + (if t.strict then 2 else 0) + 256 * (t.rN % 512))

/-- The 64 bytes of a record. -/
def recordBytes (cause : BitVec 8) (who : Nat) (crewIdx : Nat) (handle : Nat) (tid : BitVec 32) (relaunches : Nat) (holder : BitVec 8)
    (maskWord core : Nat) (hdr region : VA) (regionCount laneMask : Word) (passes faultVA : BitVec 64) (ctl : Word) : List PByte :=
  leBytes 1 (cause.toNat % 64) ++ leBytes 1 who ++ leBytes 2 crewIdx ++ leBytes 4 handle ++ leBytes 4 tid.toNat ++ leBytes 1 relaunches
  ++ leBytes 1 holder.toNat ++ leBytes 1 maskWord ++ leBytes 1 core ++ leBytes 8 hdr.toNat ++ leBytes 8 region.toNat ++ leBytes 4 regionCount.toNat
  ++ leBytes 4 laneMask.toNat ++ leBytes 8 passes.toNat ++ leBytes 8 faultVA.toNat ++ leBytes 4 ctl.toNat ++ zeros 4

/-- The record of a suspended team. -/
def Team.trapRecord (t : Team) (k : Crew) (i : TrapInfo) (handle relaunches : Nat) : List PByte :=
  recordBytes i.cause (t.num + 8 * t.role.toNat + if i.byEntry then 32 else 0) k.index handle k.tid relaunches i.holder i.maskWord k.core
    i.hdrVA t.regionVA t.regionCount i.laneMask t.passes i.faultVA t.control

/-- The lowest free slot of a world's trap area. -/
def World.freeSlot (w : World) : Option Nat := (List.range w.trapSlots).find? (fun i => !w.trapTaken.contains i)

/-- Write a record into a slot, through the handler card's context, as stores at the HOME (R291). -/
def State.writeRecord (s : State) (die world : Nat) (asn : BitVec 16) (va : Nat) (bs : List PByte) : Except (BitVec 8) State :=
  match s.translateOwn die world asn { wr := true } va with
  | .error c => .error c
  | .ok pa => (s.walkNoted die world asn va).writePieces die world 16 4 pa bs

/-- A write of a record has to wait. -/
def State.recordBusy (s : State) (die world : Nat) (asn : BitVec 16) (va : Nat) : Bool :=
  match s.translateOwn die world asn { wr := true } va with
  | .error _ => false
  | .ok pa => s.spanBusy die world pa 64

/-- A handle number that is neither 0 nor open. Which, is a free value as far as that allows (notes/assumptions/32.md). -/
def State.newHandle (s : State) : Nat :=
  let x := (Config.freeWord s.free).toNat
  if x ≠ 0 ∧ (tget none s.handles x).isNone then x
  else match ((List.range s.handles.length).map (· + 1)).find? (fun i => (tget none s.handles i).isNone) with
    | some i => i
    | none => s.handles.length + 1

/-- `TRAP_RECORD_WRITE` (R291, R292): a trap of a handler crew kills it; a world without a handler card decides as `trelaunch`; else the
record goes into the lowest free slot and the handler card into the pool. Without a free slot or place the team stays suspended. -/
def State.trapRecord (s : State) (uid : Nat) : State :=
  match s.crewOf uid with
  | none => s
  | some (t, k) =>
    match t.trap with
    | none => s
    | some i =>
      let cause : BitVec 6 := i.cause.setWidth 6
      if t.status ≠ .suspended ∨ t.handle ≠ 0 ∨ k.live = false ∨ k.offCore = true ∨ (s.die k.die).silent = true then s
      else match k.kind with
      | .handler _ _ => s.killCrew t.crew 0x03 cause
      | _ => match (s.world k.world).handler with
        | none => s.relaunchGang t.crew cause
        | some (cardVA, img) =>
          if s.cardStatus img false ≠ 0 then s.relaunchGang t.crew cause
          else match (s.world k.world).freeSlot, s.handlerRoom k.die with
          | none, _ => s
          | _, false => s
          | some slot, true =>
            let va := (s.world k.world).trapBase.toNat + 64 * slot
            let hid := s.newHandle
            let n := match s.card? k.tid with | some c => c.relaunches | none => 0
            if s.recordBusy k.die img.world img.asn va then s
            else match s.writeRecord k.die img.world img.asn va (t.trapRecord k i hid n) with
            | .error _ => (s.logDie k.die 0x30 0 0 11 0).relaunchGang t.crew cause
            | .ok s =>
              let level := (s.imageOf k.tid).tprio
              let (s, tid) := s.takeCard k.die cardVA { img with arg := BitVec.ofNat 64 va } (.handler hid slot) level 0 (Config.freeBits (s.free + 1)) none
              let s := s.modWorld k.world (fun w => { w with trapTaken := slot :: w.trapTaken })
              let h : Handle := { team := uid, world := k.world, slot := slot, handlerTid := tid, ctl := t.control, cause := cause }
              ({ s with free := s.free + 2, handles := tset none s.handles hid (some h) }).modTeam uid (fun t => { t with handle := hid })

def execTrapRecordWrite (team : Nat) (s : State) : Answered := .next (s.trapRecord team)

/-- `TEAM_RESUME` (R294): once every command of the team has completed. -/
def State.teamResume (s : State) (uid : Nat) : State :=
  match s.crewOf uid with
  | none => s
  | some (t, k) =>
    if t.status ≠ .suspended ∨ t.trap.isSome = true ∨ k.live = false ∨ k.offCore = true ∨ s.commandsOf uid = true then s
    else
      let s := (s.cancelPops uid).withdrawAll uid
      s.modTeam uid (fun t =>
        let c := t.ctlWord.getD t.control
        { t.reenter with defOn := c.getLsbD 0, strict := c.getLsbD 1, rN := ctlQuota c, stop := { t.stop with mode := false, redo := false }
                         status := if k.status = .saving then .saved else .running })

def execTeamResume (team : Nat) (s : State) : Answered := .next (s.teamResume team)

/-! ## The program queue (R280) -/

/-- The first complete pair: the places of its two words. -/
def firstPair : List Q8Word → Nat → List (Nat × Nat) → Option (Nat × Nat)
  | [], _, _ => none
  | w :: rest, i, heads =>
    match heads.find? (fun x => x.1 == w.team) with
    | some (_, j) => some (j, i)
    | none => firstPair rest (i + 1) ((w.team, i) :: heads)

/-- What a pair does: the state, and its status and identifier; none while it must wait. -/
def State.q8Perform (s : State) (d : Nat) (x y : Q8Word) : State × Option (Nat × BitVec 32) :=
  let die := (fld y.word 16 4).toNat
  let va := (fld y.word 0 16).toNat * 2 ^ 32 + x.word.toNat
  if fld y.word 20 12 ≠ 0 ∨ (8 ≤ die ∧ die ≠ 15) then (s, some (5, 0))
  else
    let r : Releaser :=
      { src := d, world := x.world, asn := x.asn, va := va, die := if die = 15 then d else die, unit := d, token := submitToken x.tid }
    match s.cardAt d x.world x.asn { rd := true, wr := true } va with
    | .error _ => (s, some (4, 0))
    | .ok (_, img) =>
      if img.world ≠ x.world then (s, some (4, 0))
      else match s.release r with
        | (s, .refused _) => (s, some (4, 0))
        | (s, .waits) => (s, none)
        | (s, .atZero) => (s, some (2, 0))
        | (s, .lowered) => (s, some (0, 0))
        | (s, .taken tid err) => (s, some (if err then (3, 0) else (1, tid)))

/-- `Q8_COMMAND`: the oldest complete pair, once the accesses it waits for are performed (R182) and its result has a place. -/
def State.q8Command (s : State) (d : Nat) : State :=
  let q := (s.die d).q8
  match firstPair q 0 [] with
  | none => s
  | some (i, j) =>
    match q[i]?, q[j]? with
    | some x, some y =>
      let room := match s.team? x.team with | some t => decide ((tget [] t.results 8).length < 16) || t.status == TeamSt.ended | none => true
      if !s.allDone (x.earlier ++ y.earlier) || !room || (s.die d).silent then s
      else match s.q8Perform d x y with
        | (_, none) => s
        | (s, some (st, tid)) =>
          (s.modDie d (fun x => { x with q8 := (x.q8.eraseIdx j).eraseIdx i })).pushResult x.team 8 (tid ++ BitVec.ofNat 32 st)
    | _, _ => s

def execQ8Command (die : Nat) (s : State) : Answered := .next (s.q8Command die)

/-! ## Reset of a die (R296, R22) -/

/-- The withdrawals of a silent holder have completed (R241). -/
def State.withdrawnAll (s : State) (h : Nat) : Bool :=
  s.campaigns.all (fun c => c.purpose != .silence h) && s.piers.all (fun p => !p.2.toWithdraw.contains h)

/-- What holders and tables keep of a die goes: its send and arrival counts, barriers and cores. -/
def State.forgetDie (s : State) (d : Nat) : State :=
  let mine := fun (key : Nat) => decide (4 * d ≤ key) && decide (key < 4 * d + 4)
  let s := { s with holders := s.holders.map (fun (h : Nat × Holder) => (h.1, { h.2 with
    arr := tclear h.2.arr (4 * d) (4 * d + 4), seen := h.2.seen.filter (fun x => !mine x.1), marks := h.2.marks.filter (· != d) })) }
  let s := { s with cores := tclear s.cores (144 * d) (144 * d + 144), samplings := tclear s.samplings (16 * d) (16 * d + 16) }
  (s.dropBars (barKey 2 (36 * d) 0) (barKey 2 (36 * d + 36) 0)).dropBars (barKey 3 d 0) (barKey 3 (d + 1) 0)

/-- A reset die's return to service: its count and task unit start again, its table holds the default announcements of the holders in
service, and it announces its pool (R18, R22; notes/assumptions/36.md). -/
def State.reviveDie (s : State) (d : Nat) : State :=
  let s := s.forgetDie d
  let s := { s with dies := tset {} s.dies d {}, capDies := s.capDies ||| (1#8 <<< d) }
  let tbl := (resetAnns s.capCxl).filter (fun a => a.holder != d && !s.holderSilent a.holder)
  let s := s.modNode d (fun _ => { table := tbl, count := BitVec.ofNat 32 tbl.length })
  match (resetAnns s.capCxl).find? (fun a => a.holder == d) with
  | some a => (s.announce a .plain).1.checkCampaigns
  | none => s

/-- `DIE_RESET`: silence first, with the adoption of its cards; once its announcements are withdrawn everywhere, its return. -/
def State.dieReset (s : State) (d : Nat) : State :=
  if 8 ≤ d ∨ (s.dieUp d = false ∧ (s.die d).silent = false) then s
  else if (s.die d).silent = false then
    let s := ((s.declareDie d (attach d 0)).fenceDie d).modDie d (fun x => { x with resetting := true })
    match s.nextDie d with
    | some n => s.adopt n d
    | none => s
  else if s.withdrawnAll d then s.reviveDie d
  else s.modDie d (fun x => { x with resetting := true })

def execDieReset (die : Nat) (s : State) : Answered := .next (s.dieReset die)

/-! ## The instructions -/

/-- `POST` (R279). Releases a card toward a die's ready pool. -/
def planPost (d : BitVec 7) (a : BitVec 7) : Plan :=
  postPlan d a

def execPost (d : BitVec 7) (a : BitVec 7) (s : State) : Answered := issuePlain (planPost d a) s

/-- `DONE` (R284). Stops the crew's teams and retires the crew with a user code. -/
def planDone (a : BitVec 7) : Plan :=
  donePlan a

def execDone (a : BitVec 7) (s : State) : Answered := issuePlain (planDone a) s

/-- `CTOK` (R287). Writes the token of the release that made the card ready. -/
def planCtok (d : BitVec 7) : Plan :=
  ctokPlan d

def execCtok (d : BitVec 7) (s : State) : Answered := issuePlain (planCtok d) s

/-- `TID` (R287). Writes the task identifier and team identity. -/
def planTid (d : BitVec 7) : Plan :=
  tidPlan d

def execTid (d : BitVec 7) (s : State) : Answered := issuePlain (planTid d) s

/-- `TRAP` (R293). Raises trap 0x1A with a software code. -/
def planTrap (n : BitVec 8) : Plan :=
  trapPlan n

def execTrap (n : BitVec 8) (s : State) : Answered := issuePlain (planTrap n) s

/-- `TRESUME` (R294). Decides a trap handle by resuming the team at its region entry. -/
def planTresume (a : BitVec 7) : Plan :=
  decidePlan a State.decideResume

def execTresume (a : BitVec 7) (s : State) : Answered := issuePlain (planTresume a) s

/-- `TKILL` (R294). Decides a handle by killing the trapped crew. -/
def planTkill (a : BitVec 7) : Plan :=
  decidePlan a State.decideKill

def execTkill (a : BitVec 7) (s : State) : Answered := issuePlain (planTkill a) s

/-- `TRELAUNCH` (R294). Decides a handle by killing the gang and queueing a relaunch or failing the card. -/
def planTrelaunch (a : BitVec 7) : Plan :=
  decidePlan a State.decideRelaunch

def execTrelaunch (a : BitVec 7) (s : State) : Answered := issuePlain (planTrelaunch a) s

/-- `TRECORD` (R295). Reads or sets the team-control word of an open handle. -/
def planTrecord (d : BitVec 7) (a : BitVec 7) (k : BitVec 1) : Plan :=
  trecordPlan d a k

def execTrecord (d : BitVec 7) (a : BitVec 7) (k : BitVec 1) (s : State) : Answered := issuePlain (planTrecord d a k) s

end Sys2Proof.Machine
end

