-- ==== Sys2Proof/Machine/Sys.lean ====
section
/-! DEFINITION. System registers (spec/15 R310, R311, R2, R68), the privileged registers (spec/17 R332), samples and the sampler crew
(R329 to R334, R328 for what takes effect later) and stops (R335, R336). -/

namespace Sys2Proof.Machine

/-! ## The registers of R310 -/

/-- CAP (R2). -/
def State.cap (s : State) : Word := 0#12 ++ 1#4 ++ s.capDies ++ 0#6 ++ BitVec.ofBool s.capCxl ++ BitVec.ofBool s.capNet

/-- The count of consecutive failed starts: that of the flash copy with the later sequence number (R314). -/
def Boot.count (b : Boot) : Nat := if b.flashB.1 < b.flashA.1 then b.flashA.2 else b.flashB.2

/-- PSTAT (R311). -/
def State.pstat (s : State) : Word :=
  s.boot.reason ++ BitVec.ofNat 4 (if 15 < s.boot.count then 15 else s.boot.count) ++ BitVec.ofBool s.boot.minimal ++ BitVec.ofBool s.boot.up ++ BitVec.ofBool s.boot.cal ++ 0#17

/-- The state code of WORLD (R310); world 0 counts as RUN (R305). A world that has not been created has no teams. -/
def State.worldCode (s : State) (w : Nat) : BitVec 2 :=
  if w = 0 then 2 else match (s.world w).state with | .locked => 1 | .run => 2 | .error => 3 | _ => 0

/-- CXLX0 and CXLX1 (R310, R19). -/
def State.cxlWord (s : State) : Word := if s.capCxl then BitVec.ofNat 32 Config.cxlMiB else 0

/-- Register numbers 0x00 to 0x07. -/
def State.sysWord (s : State) (t : Team) (k : Crew) (n : Nat) : Word :=
  if n = 0 then s.cap
  else if n = 1 then t.teamctl
  else if n = 2 then k.asn ++ 0#10 ++ s.worldCode k.world ++ BitVec.ofNat 4 k.world
  else if n = 3 then 0#13 ++ BitVec.ofNat 3 k.die ++ BitVec.ofNat 8 (k.core / 4) ++ BitVec.ofNat 8 k.core
  else if n = 4 then s.pstat
  else if n = 5 then 0#16 ++ k.ticket
  else s.cxlWord

/-! ## The privileged registers (R332) -/

/-- Handler and sampler crews. -/
def Crew.privileged (k : Crew) : Bool := k.kind != CrewKind.ordinary

/-- The assigned numbers of the privileged range. -/
def privNumbers : List Nat :=
  [0x40, 0x41, 0x42, 0x43, 0x44, 0x45, 0x46, 0x48, 0x49, 0x4A, 0x50, 0x51, 0x52, 0x58, 0x59, 0x5A]

/-- The numbers that `wrsys` may write. -/
def sysWritable (n : Nat) : Bool := [0x01, 0x40, 0x49, 0x50, 0x51, 0x52].contains n

/-- A number in the privileged range. -/
def sysPriv (n : Nat) : Bool := decide (0x40 ≤ n) && decide (n ≤ 0x7F)

/-- An unassigned number outside the privileged range (R310). -/
def illSys (n : BitVec 8) : Option IllFormed := if 8 ≤ n.toNat ∧ !sysPriv n.toNat then some .immediate else none

/-- What a crew may not do with a number: 0x09 outside handler and sampler crews, 0x01 for one not listed, 0x09 for a write of a
read-only one. -/
def sysDenied (n : BitVec 8) (write : Bool) (k : Crew) : Option Trap :=
  if sysPriv n.toNat && !k.privileged then some .denied
  else if sysPriv n.toNat && !privNumbers.contains n.toNat then some .illegalInstruction
  else if write && !sysWritable n.toNat then some .denied
  else none

/-- The team in the slot that TSEL of a core selects, with its crew. -/
def State.selected (s : State) (k : Crew) : Option (Nat × Team × Crew) :=
  let w := (s.core k.coreKey).tsel
  (s.teamsOn k.die (fld w 4 8).toNat).findSome? (fun u => match s.crewOf u with
    | some (t, c) => if t.slot = (fld w 0 4).toNat then some (u, t, c) else none
    | none => none)

/-- The next VA of a team (R329): its next instruction word, or the header it is about to fetch. -/
def Team.nextVA (t : Team) : VA := match t.clause with | some c => if c.issued then c.wordVA c.idx else c.hdrVA | none => t.pc

/-- TSTAT; of a team of another world, only the resident and world fields. -/
def tstat (t : Team) (c : Crew) (own : Bool) : Word :=
  if own then
    0#16 ++ BitVec.ofBool t.stop.mode ++ BitVec.ofBool c.privileged ++ BitVec.ofBool t.defOn ++ BitVec.ofNat 4 c.world ++ BitVec.ofNat 3 c.slot
      ++ 1#1 ++ BitVec.ofNat 5 t.stall
  else 0#19 ++ BitVec.ofNat 4 c.world ++ 0#3 ++ 1#1 ++ 0#5

/-- The status field of STOPCTL (R332, R335, R336). -/
def Stop.code (x : Stop) : BitVec 2 := if x.arm then 1 else if x.reached then 2 else if x.missed then 3 else 0

/-- A register of the selected team. The registers of R335 of a team of another world read 0 too, since a stop is armed for a team of
the crew's own world (DEDUCED). -/
def selectedWord (k : Crew) (n : Nat) : Option (Nat × Team × Crew) → Word
  | none => 0
  | some (_, t, c) =>
    let own := c.world == k.world
    if n = 0x43 then tstat t c own
    else if !own then 0
    else if n = 0x41 then t.nextVA.extractLsb' 0 32
    else if n = 0x42 then t.nextVA.extractLsb' 32 32
    else if n = 0x44 then c.tid
    else if n = 0x45 then t.passes.extractLsb' 0 32
    else if n = 0x46 then t.regionCount
    else if n = 0x50 then t.stop.e
    else if n = 0x51 then t.stop.p.extractLsb' 0 32
    else 0#29 ++ t.stop.code ++ BitVec.ofBool t.stop.arm

/-- The sampling state of a world on a die. -/
def sampleKey (d w : Nat) : Nat := 16 * d + w

def State.sampling (s : State) (d w : Nat) : Sampling := tget {} s.samplings (sampleKey d w)

def State.modSampling (s : State) (d w : Nat) (f : Sampling → Sampling) : State :=
  { s with samplings := tmod {} s.samplings (sampleKey d w) f }

/-- A privileged register's content. -/
def State.privWord (s : State) (k : Crew) (n : Nat) : Word :=
  let x := s.sampling k.die k.world
  let c := s.core k.coreKey
  if n = 0x40 then c.tsel
  else if n = 0x48 then x.idx
  else if n = 0x49 then x.head
  else if n = 0x4A then x.dropTimer ++ x.drop
  else if n = 0x58 then c.ecsb
  else if n = 0x59 then c.ecdb
  else if n = 0x5A then c.ecscr
  else selectedWord k n (s.selected k)

/-- `rdsys` (R310): at issue, and it never sets pending. -/
def rdsysPlan (d : BitVec 7) (n : BitVec 8) : Plan where
  whole := true
  ill := illSys n
  priv := sysDenied n false
  dsts := fun _ _ => [.uni d.toNat]
  how := .park
  act := fun e s => match s.crewOf e.uid with
    | none => .ok { s := s }
    | some (t, k) =>
      let w := if sysPriv n.toNat then s.privWord k n.toNat else s.sysWord t k n.toNat
      .ok { s := s, writes := [(.uni d.toNat, .w (.word w))] }

/-- A write of TEAMCTL (R68): JTO, FPF and RM. -/
def Team.setTeamctl (t : Team) (w : Word) : Team := { t with jto := w.getLsbD 15, fpf := w.extractLsb' 7 5, rm := w.extractLsb' 0 2 }

/-- Arm a team's stop (R335); a stop armed before is replaced. -/
def Stop.armed (x : Stop) : Stop := { x with arm := true, reached := false, missed := false, mode := false, redo := false }

/-- A write of STOPE, STOPP or STOPCTL for a team. A write of ARM = 0 disarms. -/
def Stop.write (x : Stop) (n : Nat) (w : Word) : Stop :=
  if n = 0x50 then { x with e := w }
  else if n = 0x51 then { x with p := w.setWidth 64 }
  else if w.getLsbD 0 then x.armed
  else { x with arm := false, mode := false, redo := false }

/-- A write of a system register; a trap for a value it refuses. -/
def State.sysWrite (s : State) (uid : Nat) (k : Crew) (n : Nat) (w : Word) : Except Trap State :=
  if n = 0x01 then
    if fld w 2 5 ≠ 0 ∨ fld w 16 16 ≠ 0 then .error .illegalOperand else .ok (s.modTeam uid (fun t => t.setTeamctl w))
  else if n = 0x40 then
    if 143 < (fld w 4 8).toNat ∨ fld w 12 20 ≠ 0 then .error .illegalOperand
    else .ok (s.modCore k.coreKey (fun c => { c with tsel := w }))
  else if n = 0x49 then .ok (s.modSampling k.die k.world (fun x => { x with head := w }))
  else match s.selected k with
    | some (u, _, c) => .ok (if c.world = k.world then s.modTeam u (fun t => { t with stop := t.stop.write n w }) else s)
    | none => .ok s

/-- `wrsys` (R310, R99): at issue. -/
def wrsysPlan (a : BitVec 7) (n : BitVec 8) : Plan where
  whole := true
  ill := illSys n
  priv := sysDenied n true
  srcs := fun _ _ => [uSrc a.toNat]
  how := .park
  reason := 2
  act := fun e s => match s.crewOf e.uid, e.u a.toNat with
    | none, _ => .ok { s := s }
    | _, .poison => .trap .poisonUniform
    | some (_, k), .word w => match s.sysWrite e.uid k n.toNat w with
      | .error tr => .trap tr
      | .ok s => .ok { s := s }

/-! ## Samples (R329, R333, R334) -/

/-- Append a record to the ring of a world on a die: an ordered store at the HOME in that world. A full ring, or a refused store, drops
and counts it. Without a ring there is no record. -/
def State.appendSample (s : State) (d w : Nat) (bs : List PByte) : State :=
  let x := s.sampling d w
  let drop := fun (s : State) => s.modSampling d w (fun x => { x with drop := satUp x.drop })
  if x.entries = 0 then s
  else if (x.idx - x.head).toNat = x.entries then drop s
  else match s.writeOwn d w (x.ring + d * x.entries * 16 + x.idx.toNat % x.entries * 16) bs with
    | .error _ => drop s
    | .ok s => s.modSampling d w (fun x => { x with idx := x.idx + 1 })

/-- Bytes 0x0D to 0x0F of a record. -/
def sampleTail (t : Team) (k : Crew) : List PByte := leBytes 1 k.core ++ leBytes 1 (t.slot + 16 * k.world) ++ leBytes 1 0

/-- `smp` (R333, R334). -/
def smpPlan (a : BitVec 7) (g : BitVec 6) : Plan where
  whole := true
  regs := fun _ _ => if 125 < a.toNat then some .illegalOperand else none
  priv := fun k => if k.privileged then none else some .denied
  srcs := fun _ _ => [uSrc a.toNat, uSrc (a.toNat + 1), uSrc (a.toNat + 2)]
  how := .park
  reason := 2
  act := fun e s => match s.crewOf e.uid with
    | none => .ok { s := s }
    | some (t, k) =>
      let bs := bytesOf 12 [e.u a.toNat, e.u (a.toNat + 1), e.u (a.toNat + 2)] ++ leBytes 1 (0xC0 + g.toNat) ++ sampleTail t k
      .ok { s := s.appendSample k.die k.world bs }

/-- `SAMPLE_SET_ACTIVATE` (R328): what SAMPLE_SET asked of a die takes effect at its next multiple of 2^20 DCC. A new ring begins at
index 0; the cores' timers start (DEDUCED, notes/assumptions/37.md). -/
def State.sampleActivate (s : State) (d w : Nat) : State :=
  let x := s.sampling d w
  match x.wanted with
  | none => s
  | some (logN, ring, entries, period, card) =>
    if (s.die d).dcc.ult x.wantedAt then s
    else
      let fresh := ring ≠ x.ring ∨ entries ≠ x.entries
      let s := s.modSampling d w (fun x =>
        { x with logN := logN, ring := ring, entries := entries, period := period, card := card, wanted := none
                 idx := if fresh then 0 else x.idx, head := if fresh then 0 else x.head })
      (List.range 144).foldl (fun s c => s.modCore (coreKey d c) (fun y => { y with timerAt := (s.die d).dcc + period })) s

def execSampleSetActivate (die world : Nat) (s : State) : Answered := .next (s.sampleActivate die world)

/-! ## The sampler crew (R331) -/

/-- A timer firing lost (R331). -/
def State.dropFiring (s : State) (d w : Nat) : State := s.modSampling d w (fun x => { x with dropTimer := satUp x.dropTimer })

/-- The sampler card of a core that has not been placed. -/
def State.unplacedSampler (s : State) (d c : Nat) : Option Card :=
  s.cards.find? (fun x => x.die == d && x.inPool && (match x.kind with | .sampler _ n => n == c | _ => false))

/-- A firing whose crew could not be placed before the next expiry is dropped. -/
def State.dropUnplaced (s : State) (d c : Nat) : State :=
  match s.unplacedSampler d c with
  | none => s
  | some x =>
    let slot := match x.kind with | .sampler n _ => n | _ => 0
    let s := { s with cards := s.cards.filter (fun y => y.tid != x.tid) }
    let s := s.modWorld x.image.world (fun w => { w with trapTaken := w.trapTaken.filter (· != slot) })
    (s.dropFiring d x.image.world).modCore (coreKey d c) (fun y => { y with sampler := false })

/-- The record of a firing; what R331 does not state of it is a free value (notes/assumptions/8.md). -/
def State.firingRecord (s : State) (c : Nat) (dcc : BitVec 64) : List PByte :=
  let n := s.free
  recordBytes 0x19 0 ((Config.freeWord n).toNat % 65536) 0 (Config.freeWord (n + 1)) ((Config.freeWord (n + 2)).toNat % 256) 0
    ((Config.freeWord (n + 3)).toNat % 256) c (Config.freeBits (n + 4)) (Config.freeBits (n + 5)) (Config.freeWord (n + 6)) 0
    (Config.freeBits (n + 7)) dcc (Config.freeWord (n + 8))

/-- A firing that may be entered: the record into a slot of the trap area, the card into the pool at level 7. -/
def State.fire (s : State) (d c w : Nat) (cardVA : VA) : State :=
  let lost := s.dropFiring d w
  match s.templateAt d w cardVA.toNat, (s.world w).freeSlot, s.handlerRoom d with
  | some img, some slot, true =>
    let va := (s.world w).trapBase.toNat + 64 * slot
    match s.writeRecord d img.world img.asn va (s.firingRecord c (s.die d).dcc) with
    | .error _ => lost
    | .ok s =>
      let s := { s with free := s.free + 10 }
      let (s, _) := s.takeCard d cardVA { img with arg := BitVec.ofNat 64 va } (.sampler slot c) 7 0 (Config.freeBits (s.free - 1)) none
      (s.modWorld w (fun x => { x with trapTaken := slot :: x.trapTaken })).modCore (coreKey d c) (fun y => { y with sampler := true })
  | _, _, _ => lost

/-- `SAMPLE_TIMER_EXPIRY` (R331): for the world whose slice runs. -/
def State.timerExpiry (s : State) (core : Nat) : State :=
  let d := core / 144
  let c := core % 144
  let w := (s.die d).world
  let x := s.sampling d w
  if 1152 ≤ core ∨ x.period = 0 ∨ (s.die d).silent = true ∨ s.dieUp d = false ∨ (s.die d).dcc.ult (s.core core).timerAt = true then s
  else
    let s := s.modCore core (fun y => { y with timerAt := (s.die d).dcc + x.period })
    let s := s.dropUnplaced d c
    if x.card = 0 then s
    else if (s.core core).sampler then s.dropFiring d w
    else s.fire d c w x.card

def execSampleTimerExpiry (core : Nat) (s : State) : Answered := .next (s.timerExpiry core)

/-! ## Stops (R335, R336) -/

/-- `STOPCTL_ARM` (R335). -/
def State.armStop (s : State) (uid : Nat) : State := s.modTeam uid (fun t => { t with stop := t.stop.armed })

def execStopctlArm (team : Nat) (s : State) : Answered := .next (s.armStop team)

/-- Nothing of a team is outstanding but `qpop` pairs still awaiting a result, which a stop cancels (R336 step 1, R180). -/
def State.quiet (s : State) (uid : Nat) : Bool :=
  (s.opsOf uid).all (fun o => match o.kind with | .pop _ => true | _ => false) && !s.commandsOf uid

/-- `STOP_REACHED` (R336 steps 1 to 3): the FIFO is discarded; once nothing is outstanding the team re-enters its region in stop mode. -/
def State.stopReached (s : State) (uid : Nat) : State :=
  match s.crewOf uid with
  | none => s
  | some (t, k) =>
    if t.status ≠ .running ∨ k.offCore = true ∨ t.stop.mode = true ∨ t.stopRoom ≠ some 0 then s
    else match t.late with
    | some i => s.suspend uid i
    | none =>
      let s := s.modTeam uid (fun t => t.discard)
      if s.quiet uid then
        (s.cancelPops uid).modTeam uid (fun t => { t.reenter with stop := { t.stop with mode := true, redo := t.regionCount != 0 } })
      else s

def execStopReached (team : Nat) (s : State) : Answered := .next (s.stopReached team)

/-- `STOP_TRAP` (R336 step 4): after pass P has completed every effect. -/
def State.stopTrap (s : State) (uid : Nat) : State :=
  match s.crewOf uid with
  | none => s
  | some (t, k) =>
    if t.status ≠ .running ∨ k.offCore = true ∨ t.stop.mode = false ∨ t.stopRoom ≠ some 0 ∨ s.crewBusy [uid] = true then s
    else match t.late with
    | some i => s.suspend uid i
    | none =>
      (s.modTeam uid (fun t => { t with stop := { t.stop with arm := false, mode := false, reached := true } })).takeTrap uid t.heldHdr
        { cause := 0x18, va := some t.nextVA }

def execStopTrap (team : Nat) (s : State) : Answered := .next (s.stopTrap team)

/-! ## The instructions -/

/-- `RDSYS` (R310). Reads a system register into a uniform. -/
def planRdsys (d : BitVec 7) (n : BitVec 8) : Plan :=
  rdsysPlan d n

def execRdsys (d : BitVec 7) (n : BitVec 8) (s : State) : Answered := issuePlain (planRdsys d n) s

/-- `WRSYS` (R310). Writes a system register from a uniform. -/
def planWrsys (a : BitVec 7) (n : BitVec 8) : Plan :=
  wrsysPlan a n

def execWrsys (a : BitVec 7) (n : BitVec 8) (s : State) : Answered := issuePlain (planWrsys a n) s

/-- `SMP` (R334). Appends a software record to the world's sample ring. -/
def planSmp (a : BitVec 7) (t : BitVec 6) : Plan :=
  smpPlan a t

def execSmp (a : BitVec 7) (t : BitVec 6) (s : State) : Answered := issuePlain (planSmp a t) s

end Sys2Proof.Machine
end

