-- ==== Sys2Proof/Machine/HostPort.lean ====
section
/-! DEFINITION. The host's side of the package: host rings (spec/14 R278, spec/15 R304), the management ring (R304), the course of a
message through the management core, and the SPDM requests (R303, R312). -/

namespace Sys2Proof.Machine

/-! ## Host rings (R278, R304) -/

def State.ring (s : State) (n : Nat) : Ring := tget {} s.host.rings n

def State.modRing (s : State) (n : Nat) (f : Ring → Ring) : State :=
  { s with host := { s.host with rings := tmod {} s.host.rings n f } }

/-- Entries of a ring the abutment has not read. -/
def Ring.unread (r : Ring) : Nat := (r.tail + r.entries - r.head) % r.entries

/-- Entries that a new tail adds. -/
def Ring.added (r : Ring) (tail : Nat) : Nat := (tail + r.entries - r.tail) % r.entries

/-- A tail that a ring refuses: not below its entries, or more than entries − 1 would be unread. The tail moves forward, so the
unread entries are those unread before and those the move adds (DEDUCED, notes/assumptions/39.md). -/
def Ring.refuses (r : Ring) (tail : Nat) : Bool :=
  decide (r.entries ≤ tail) || decide (r.entries - 1 < r.unread + r.added tail)

/-- `HOST_RING_DOORBELL`. -/
def State.ringDoorbell (s : State) (n : Nat) (tail : Word) : State :=
  let r := s.ring n
  if 64 ≤ n ∨ r.set = false then s
  else if r.refuses tail.toNat then s.modRing n (fun r => { r with code := 4 })
  else s.modRing n (fun r => { r with tail := tail.toNat })

def execHostRingDoorbell (ring : Nat) (tail : Word) (s : State) : Answered := .next (s.ringDoorbell ring tail)

/-- The head moves past an entry. -/
def Ring.next (r : Ring) : Ring := { r with head := (r.head + 1) % r.entries }

/-- An entry skipped with a code: the error status, then the vector it names, then the head. -/
def State.ringSkip (s : State) (n : Nat) (code : BitVec 8) (vec : Nat) : State :=
  let s := s.modRing n (fun r => { r with code := code, skipped := satUp r.skipped, latest := r.head })
  let s := if vec = 0 ∨ vec = 0xFFFF then s else s.raise vec
  s.modRing n Ring.next

/-- `HOST_RING_ENTRY`: the entry at the head, read by the abutment in the ring's world (R359), is released or skipped; one that waits for
a place stays. An entry that cannot be read names no card, so its code is 1 (DEDUCED, notes/assumptions/39.md). -/
def State.ringEntry (s : State) (n : Nat) : State :=
  let r := s.ring n
  if r.set = false ∨ r.head = r.tail then s
  else match s.readSpan 16 r.world 2 (r.base.toNat + 16 * r.head) with
    | .error _ => s.ringSkip n 1 0
    | .ok bs =>
      match leNat bs with
      | none => s.ringSkip n 1 0
      | some _ =>
        let va := leField bs 0 8
        let die := leField bs 8 1
        let vec := leField bs 10 2
        if 7 < die ∨ vec = 0 ∨ leField bs 9 1 ≠ 0 ∨ leField bs 12 4 ≠ 0 then s.ringSkip n 3 vec
        else
          let r : Releaser :=
            { src := 16, world := r.world, asn := r.asn, va := va, die := die, unit := die, token := submitToken 0
              vector := if vec = 0xFFFF then none else some vec }
          match s.release r with
          | (s, .waits) => s
          | (s, .refused _) => s.ringSkip n 1 vec
          | (s, .atZero) => s.ringSkip n 2 vec
          | (s, _) => s.modRing n Ring.next

def execHostRingEntry (ring : Nat) (s : State) : Answered := .next (s.ringEntry ring)

/-! ## The management ring (R304) -/

/-- An SPDM ERROR. -/
def errorResponse (name : String) (sess : Nat) : Response := { request := name, sess := sess, error := true, status := 0 }

/-- Request slots that hold requests not yet read. -/
def HostSide.reqUnread (h : HostSide) : Nat := (h.reqTail + 128 - h.reqHead) % 128

/-- A new request tail at the port faced. A tail past the head, or no slot number, is answered with an SPDM ERROR. -/
def State.requestTail (s : State) (portE : Bool) (tail : Word) : State :=
  let h := s.host
  let n := (tail.toNat + 128 - h.reqTail) % 128
  if 128 ≤ tail.toNat ∨ 127 < h.reqUnread + n then s.respond (errorResponse "MGMT_REQUEST_TAIL" 0)
  else { s with host := { h with reqTail := tail.toNat, waiting := h.waiting ++ List.replicate n portE } }

/-- `MGMT_REQUEST_TAIL`. -/
def execMgmtRequestTail (tail : PortWord) (s : State) : Answered :=
  .next (((s.facing tail.portE).requestTail tail.portE tail.word).facing tail.portE)

/-- The responses left when n slots have been read. -/
def dropSlots : Nat → List Response → List Response
  | _, [] => []
  | n, r :: rest => if r.slots ≤ n then dropSlots (n - r.slots) rest else { r with slots := r.slots - n } :: rest

/-- A new response head at the port faced: slots are free again, and responses owed are written. A head that is no slot between the old head
and the tail changes nothing (DEDUCED, notes/assumptions/39.md). -/
def State.responseHead (s : State) (head : Word) : State :=
  let h := s.host
  let n := (head.toNat + 128 - h.rspHead) % 128
  if 128 ≤ head.toNat ∨ (h.rspTail + 128 - h.rspHead) % 128 < n then s
  else { s with host := HostSide.pump h.owed.length { h with rspHead := head.toNat, rsps := dropSlots n h.rsps } }

/-- `MGMT_RESPONSE_HEAD`. -/
def execMgmtResponseHead (head : PortWord) (s : State) : Answered :=
  .next (((s.facing head.portE).responseHead head.word).facing head.portE)

/-- A host write to BAR0 that is no doorbell: a whole word in a request slot is held (RW); to an unassigned offset or a read-only register it is
ignored. -/
def State.bar0Write (s : State) (off value : Word) : State :=
  let n := off.toNat
  if 0x10000 ≤ n ∧ n < 0x20000 ∧ n % 4 = 0 then
    { s with host := { s.host with reqWords := tset 0 s.host.reqWords ((n - 0x10000) / 4) value } }
  else s

/-- `BAR0_IGNORED_WRITE`. -/
def execBar0IgnoredWrite (off : PortWord) (value : Word) (s : State) : Answered :=
  .next (((s.facing off.portE).bar0Write off.word value).facing off.portE)

/-- A word of a response slot: first the length word, with bit 31 in all slots of a message but its last, then the message's bytes. -/
def FilledSlot.word (f : FilledSlot) (i : Nat) : Word :=
  let more := decide (f.part + 1 < f.rsp.slots)
  if i = 0 then
    let n := if more then 508 else if f.rsp.error then Config.errorBytes f.serial % 509 else f.rsp.bytes - 508 * f.part
    BitVec.ofBool more ++ BitVec.ofNat 31 n
  else Config.slotText f.serial f.part i

/-- What the host reads at an offset of a port's BAR0, for the port faced. What a read of a write-only register gives is not stated: 0 (DESIGN
CHOICE, notes/assumptions/39.md). -/
def State.bar0 (s : State) (off : Nat) : Word :=
  if off = 0 then s.pstat
  else if off = 0x104 then BitVec.ofNat 32 s.host.reqHead
  else if off = 0x108 then BitVec.ofNat 32 s.host.rspTail
  else if 0x1000 ≤ off ∧ off < 0x2000 then
    let r := s.ring ((off - 0x1000) / 64)
    let k := off % 64
    if k = 4 then BitVec.ofNat 32 r.head
    else if k = 8 then r.skipped ++ r.code
    else if k = 12 then BitVec.ofNat 32 r.latest
    else 0
  else if 0x10000 ≤ off ∧ off < 0x20000 then tget 0 s.host.reqWords ((off - 0x10000) / 4)
  else if 0x20000 ≤ off ∧ off < 0x30000 then
    match tget none s.host.filled ((off - 0x20000) / 512) with
    | some f => f.word ((off - 0x20000) % 512 / 4)
    | none => 0
  else 0

/-! ## The course of a message (R303, R304) -/

/-- The port of the request that comes next: the one that waits longest (R303). -/
def HostSide.next (h : HostSide) : Bool := match h.waiting with | b :: _ => b | [] => false

/-- The management core can read a request: one waits, the last response at its port is written, and no world is being stopped. -/
def State.mgmtReady (s : State) : Bool :=
  let h := (s.facing s.host.next).host
  h.reqHead != h.reqTail && h.owed.isEmpty && s.worlds.all (fun w => w.2.stopping.isNone)

/-- The slots of the request at a head: bit 31 of a length word says that its message goes on. Fuel is the number of slots unread. -/
def HostSide.requestSlots (h : HostSide) : Nat → Nat → Nat
  | 0, _ => 0
  | n + 1, at_ => if (tget 0 h.reqWords (128 * (at_ % 128))).getLsbD 31 then h.requestSlots n (at_ + 1) + 1 else 1

/-- A list without the first n of its elements that are b. -/
def dropSome (b : Bool) : Nat → List Bool → List Bool
  | 0, xs => xs
  | _, [] => []
  | n + 1, x :: xs => if x == b then dropSome b n xs else x :: dropSome b (n + 1) xs

/-- The request at the port faced is read: its slots are free. -/
def State.readRequest (s : State) (portE : Bool) : State :=
  let h := s.host
  let n := h.requestSlots h.reqUnread h.reqHead
  { s with host := { h with reqHead := (h.reqHead + n) % 128, waiting := dropSome portE n h.waiting, serving := portE } }

/-- The next request is read and dealt with, at the port it came by. -/
def State.served (s : State) (act : State → State) : State :=
  let e := s.host.next
  (act ((s.facing e).readRequest e)).facing e

/-- Bytes of a response whose message holds n words beside what carries them, which is a free value; and the slots they take
(notes/assumptions/39.md). -/
def longBytes (n free : Nat) : Nat := 8 * n + free % 128

def longSlots (n free : Nat) : Nat := if longBytes n free = 0 then 1 else (longBytes n free + 507) / 508

/-- A response with some words of content. -/
def State.respondWords (s : State) (name : String) (sess st : Nat) (ws : List (BitVec 64)) : State :=
  let free := (Config.freeWord s.free).toNat
  ({ s with free := s.free + 1 }).respond
    { request := name, sess := sess, error := false, status := st, words := ws, bytes := longBytes ws.length free, slots := longSlots ws.length free }

/-- A message performed: the state it leaves, its status and the words of its content. -/
abbrev Performed := State × Nat × List (BitVec 64)

/-- A message in its turn: read, performed, answered. -/
def State.message (s : State) (name : String) (sess : Nat) (act : State → Performed) : State :=
  if s.mgmtReady then s.served (fun s => let (s, st, ws) := act s; s.respondWords name sess st ws) else s

/-- A message answered with an SPDM ERROR. -/
def State.messageError (s : State) (name : String) (sess : Nat) : State :=
  if s.mgmtReady then s.served (fun s => s.respond (errorResponse name sess)) else s

def State.session (s : State) (id : Nat) : Option Session := s.host.sessions.find? (fun x => x.id == id)

/-- A session in which messages are accepted. -/
def State.secured (s : State) (id : Nat) : Bool := match s.session id with | some x => x.finished | none => false

def State.setSessions (s : State) (xs : List Session) : State := { s with host := { s.host with sessions := xs } }

/-! ## SPDM requests (R303) -/

/-- The words of a response whose content the spec leaves to DMTF's standard. -/
def State.spdmWords (s : State) (n : Nat) : Performed :=
  ({ s with host := { s.host with spdm := s.host.spdm + n } }, 0, (List.range n).map (fun i => Config.spdm (s.host.spdm + i)))

/-- A request that only reports; outside a session, `sess` 0. -/
def State.report (s : State) (name : String) (sess : Nat) : State := s.message name sess (fun s => s.spdmWords 8)

def execGetVersion (sess : Nat) (s : State) : Answered := .next (s.report "GET_VERSION" sess)
def execGetCapabilities (sess : Nat) (s : State) : Answered := .next (s.report "GET_CAPABILITIES" sess)
def execNegotiateAlgorithms (sess : Nat) (s : State) : Answered := .next (s.report "NEGOTIATE_ALGORITHMS" sess)
def execGetDigests (sess : Nat) (s : State) : Answered := .next (s.report "GET_DIGESTS" sess)
def execGetCertificate (sess : Nat) (s : State) : Answered := .next (s.report "GET_CERTIFICATE" sess)
def execChallenge (sess : Nat) (s : State) : Answered := .next (s.report "CHALLENGE" sess)

/-- A measurement register. -/
def State.mr (s : State) (n : Nat) : BitVec 512 := tget 0 s.boot.mrs n

/-- The eight 64-bit words of a 64-byte value. -/
def wordsOf512 (x : BitVec 512) : List (BitVec 64) := (List.range 8).map (fun i => x.extractLsb' (64 * i) 64)

/-- MR0 to MR7 in order. -/
def State.allMrs (s : State) : List (BitVec 64) := (List.range 8).flatMap (fun n => wordsOf512 (s.mr n))

/-- R312: MR ← SHA-512(MR ‖ digest). -/
def State.extendMr (s : State) (n : Nat) (d : BitVec 512) : State :=
  { s with boot := { s.boot with mrs := tset 0 s.boot.mrs n (Config.sha512 (wordsOf512 (s.mr n) ++ wordsOf512 d)) } }

/-- `GET_MEASUREMENTS`: MR0 to MR7. -/
def execGetMeasurements (sess : Nat) (s : State) : Answered := .next (s.message "GET_MEASUREMENTS" sess (fun s => (s, 0, s.allMrs)))

/-- `KEY_EXCHANGE`: a session opens under a number not in use, at most 4 at once. -/
def State.keyExchange (s : State) (sess : Nat) : State :=
  if sess = 0 ∨ (s.session sess).isSome = true ∨ 4 ≤ s.host.sessions.length then s.messageError "KEY_EXCHANGE" sess
  else s.message "KEY_EXCHANGE" sess (fun s => (s.setSessions (s.host.sessions ++ [{ id := sess }])).spdmWords 8)

def execKeyExchange (sess : Nat) (s : State) : Answered := .next (s.keyExchange sess)

/-- `FINISH`. -/
def State.finish (s : State) (sess : Nat) : State :=
  if (s.session sess).isNone then s.messageError "FINISH" sess
  else s.message "FINISH" sess (fun s =>
    (s.setSessions (s.host.sessions.map (fun (x : Session) => if x.id == sess then { x with finished := true } else x))).spdmWords 8)

def execFinish (sess : Nat) (s : State) : Answered := .next (s.finish sess)

/-- A request that needs a session. -/
def State.inSession (s : State) (name : String) (sess : Nat) (act : State → Performed) : State :=
  if s.secured sess then s.message name sess act else s.messageError name sess

def execKeyUpdate (sess : Nat) (s : State) : Answered := .next (s.inSession "KEY_UPDATE" sess (fun s => s.spdmWords 1))
def execHeartbeat (sess : Nat) (s : State) : Answered := .next (s.inSession "HEARTBEAT" sess (fun s => s.spdmWords 1))

/-- `END_SESSION`. -/
def execEndSession (sess : Nat) (s : State) : Answered :=
  .next (s.inSession "END_SESSION" sess (fun s => (s.setSessions (s.host.sessions.filter (fun x => x.id != sess))).spdmWords 1))

/-- `SPDM_UNSUPPORTED_REQUEST`. -/
def execSpdmUnsupportedRequest (sess : Nat) (s : State) : Answered := .next (s.messageError "SPDM_UNSUPPORTED_REQUEST" sess)

end Sys2Proof.Machine
end

