-- ==== Sys2Proof/Machine/Manage.lean ====
section
/-! DEFINITION. The vendor messages of the management core: worlds and their interfaces (spec/15 R305 to R308), the message set of
R306, range watches (R309), the network's connections (spec/16 R318, R323), sampling and error logs (spec/17 R328, R337). -/

namespace Sys2Proof.Machine

/-! ## Which messages a session may send (R305, R306) -/

/-- A message for a world is accepted: world 0's in a world-0 session at any time; a confidential world's in the session bound to it, or
in a world-0 session before that, in CONFIG_UNLOCKED and, with the mark R, in RUN. -/
def State.accepts (s : State) (x : Session) (w : Nat) (r : Bool) : Bool :=
  if w = 0 then x.world == 0
  else decide (w < 16) && (x.world == w || (x.world == 0 && (s.world w).session.isNone))
    && ((s.world w).state == Tdisp.unlocked || (r && (s.world w).state == Tdisp.run))

/-- A vendor message: an SPDM ERROR outside a session; status 1 where it is not accepted. -/
def State.vendor (s : State) (name : String) (sess : Nat) (ok : State → Session → Bool) (act : State → Session → Performed) : State :=
  match s.session sess with
  | none => s.messageError name sess
  | some x =>
    if x.finished then s.message name sess (fun s => if ok s x then act s x else (s, 1, [])) else s.messageError name sess

/-- A vendor message for a world. -/
def State.forWorld (s : State) (name : String) (sess w : Nat) (r : Bool) (act : State → Performed) : State :=
  s.vendor name sess (fun s x => s.accepts x w r) (fun s _ => act s)

/-- A vendor message that names no world counts as one for its session's (DEDUCED, notes/assumptions/39.md). -/
def State.forOwn (s : State) (name : String) (sess : Nat) (r : Bool) (act : State → Performed) : State :=
  s.vendor name sess (fun s x => s.accepts x x.world r) (fun s _ => act s)

/-- The status of an operand out of range where R306 names none (DEDUCED, notes/assumptions/39.md). -/
def badOperand (s : State) : Performed := (s, 3, [])

def ok (s : State) : Performed := (s, 0, [])

/-! ## Worlds (R306) -/

/-- `WORLD_CREATE`. In minimal mode world 0 alone is in service (R314); that it exists is answered in every mode. -/
def State.worldCreate (s : State) (sess w : Nat) : State :=
  s.vendor "WORLD_CREATE" sess (fun s x => decide (w < 16) && (if w = 0 then x.world == 0 else (x.world == 0 || x.world == w) && !s.boot.minimal))
    (fun s _ =>
      if w = 0 ∨ (s.world w).state ≠ .none then (s, 2, [])
      else
        let s := s.modWorld w (fun y => { worldDefault with state := .unlocked, session := some sess, epoch := y.epoch, seed := Config.seed s.free })
        let s := { s with free := s.free + 1 }
        ok (s.setSessions (s.host.sessions.map (fun (x : Session) => if x.id == sess then { x with world := w } else x))))

def execWorldCreate (sess world : Nat) (s : State) : Answered := .next (s.worldCreate sess world)

/-- `WORLD_KEY`: a new epoch (R302). -/
def State.worldKey (s : State) (sess w : Nat) (xts : BitVec 512) (tagKey : BitVec 256) : State :=
  s.forWorld "WORLD_KEY" sess w false (fun s =>
    if w = 0 then (s, 1, [])
    else ok (s.modWorld w (fun y => { y with keyed := true, xts := xts, tagKey := tagKey, epoch := y.epoch + 1, scrubbed := false })))

def execWorldKey (sess world : Nat) (xts : BitVec 512) (tagKey : BitVec 256) (s : State) : Answered :=
  .next (s.worldKey sess world xts tagKey)

/-- `WORLD_DESTROY`: after a scrub with no key, range or run since (DEDUCED). The count of epochs goes on. -/
def State.worldDestroy (s : State) (sess w : Nat) : State :=
  s.forWorld "WORLD_DESTROY" sess w false (fun s =>
    if w = 0 ∨ !(s.world w).scrubbed then (s, 1, [])
    else ok (s.modWorld w (fun y => { worldDefault with epoch := y.epoch })))

def execWorldDestroy (sess world : Nat) (s : State) : Answered := .next (s.worldDestroy sess world)

/-- The bytes of whole lines that a range of a holder's offsets touches, cleared with their written bits and keys (R362). -/
def Memory.clearLines (m : Memory) (h base size : Nat) : Memory :=
  let lo := memKey h base / 128
  let hi := (memKey h base + size + 127) / 128
  { m with cells := tclear m.cells (128 * lo) (128 * hi), poison := tclear m.poison (128 * lo) (128 * hi)
           written := tclear m.written lo hi, keys := tclear m.keys lo hi }

/-- `RANGE_ASSIGN`: an entry for the prefix replaces one of the same prefix. Written bits are kept for DRAM and CXL lines only. -/
def State.rangeAssign (s : State) (sess h base len w : Nat) : State :=
  s.forWorld "RANGE_ASSIGN" sess w false (fun s =>
    let size := 2 ^ (52 - len)
    if 18 ≤ h ∨ (16 ≤ h ∧ s.capCxl = false) ∨ len < 10 ∨ 48 < len ∨ base % size ≠ 0 then badOperand s
    else
      let rest := (s.holder h).owners.filter (fun e => !(e.2.1 == base && e.2.2 == len))
      if 256 ≤ rest.length then (s, 3, [])
      else
        let s := s.modHolder h (fun x => { x with owners := rest ++ [(w, base, len)] })
        let s := if h < 8 then s else { s with mem := s.mem.clearLines h base size }
        ok (if w = 0 then s else s.modWorld w (fun y => { y with scrubbed := false })))

def execRangeAssign (sess holder base len world : Nat) (s : State) : Answered := .next (s.rangeAssign sess holder base len world)

def State.contextSet (s : State) (sess w : Nat) (asn : BitVec 16) (root : PA) : State :=
  s.forWorld "CONTEXT_SET" sess w false (fun s =>
    ok (s.modWorld w (fun y => { y with ctxs := y.ctxs.filter (fun c => c.1 != asn) ++ [(asn, root)] })))

def execContextSet (sess world : Nat) (asn : BitVec 16) (root : PA) (s : State) : Answered := .next (s.contextSet sess world asn root)

/-- A TLB entry that an invalidation covers: of the world, of the ASN or valid for every one, its page in the VA range. -/
def TlbEnt.covered (e : TlbEnt) (w : Nat) (asn : Option (BitVec 16)) (lo hi : VA) : Bool :=
  let size := 2 ^ e.log2
  let base := e.va / size * size
  e.world == w && (e.glob || asn.isNone || asn == some e.asn) && decide (base ≤ hi.toNat) && decide (lo.toNat < base + size)

/-- `CONTEXT_INVAL` (R198): every TLB drops what it covers. A walk is part of one step, so none is under way. -/
def State.contextInval (s : State) (sess w : Nat) (asn : Option (BitVec 16)) (lo hi : VA) : State :=
  s.forWorld "CONTEXT_INVAL" sess w true (fun s =>
    ok (s.cores.foldl (fun s c => s.modCore c.1 (fun x => { x with tlb := x.tlb.filter (fun e => !e.covered w asn lo hi) })) s))

def execContextInval (sess world : Nat) (asn : Option (BitVec 16)) (lo hi : VA) (s : State) : Answered :=
  .next (s.contextInval sess world asn lo hi)

/-- `RING_SET`: the ring starts empty. -/
def State.ringSet (s : State) (sess n : Nat) (base : BitVec 64) (entries w : Nat) (asn : BitVec 16) (lo hi : Nat) : State :=
  s.forWorld "RING_SET" sess w false (fun s =>
    if 64 ≤ n then badOperand s
    else ok (s.modRing n (fun _ => { set := true, base := base, entries := entries, world := w, asn := asn, msixLo := lo, msixHi := hi })))

def execRingSet (sess ring : Nat) (base : BitVec 64) (entries world : Nat) (asn : BitVec 16) (msixLo msixHi : Nat) (s : State) : Answered :=
  .next (s.ringSet sess ring base entries world asn msixLo msixHi)

/-- `SLICE_SET`: in force from the world's next slice. -/
def State.sliceSet (s : State) (sess w : Nat) (dcc : BitVec 64) : State :=
  s.forWorld "SLICE_SET" sess w true (fun s => ok (s.modWorld w (fun y => { y with slice := dcc })))

def execSliceSet (sess world : Nat) (dcc : BitVec 64) (s : State) : Answered := .next (s.sliceSet sess world dcc)

/-- `HANDLER_SET`: the template is read when it is installed (R292). -/
def State.handlerSet (s : State) (sess w : Nat) (card trapBase : VA) (trapSize : Nat) (saveBase : PA) (saveSize : Nat) : State :=
  s.forWorld "HANDLER_SET" sess w false (fun s =>
    let img := s.templateAt 16 w card.toNat
    ok (s.modWorld w (fun y =>
      { y with handler := img.map (fun i => (card, i)), trapBase := trapBase, trapSlots := trapSize / 64, saveBase := saveBase.toNat
               saveSize := saveSize })))

def execHandlerSet (sess world : Nat) (card trapBase : VA) (trapSize : Nat) (saveBase : PA) (saveSize : Nat) (s : State) : Answered :=
  .next (s.handlerSet sess world card trapBase trapSize saveBase saveSize)

/-! ## The interface of a confidential world (R305) -/

/-- A TDISP message for a world in the session bound to it. -/
def State.tdisp (s : State) (name : String) (sess w : Nat) (act : State → Performed) : State :=
  s.vendor name sess (fun s x => w != 0 && x.world == w && (s.world w).state != Tdisp.none) (fun s _ => act s)

/-- A move from one state to another. -/
def State.moveState (s : State) (w : Nat) (here there : Tdisp) : Performed :=
  if (s.world w).state = here then ok (s.modWorld w (fun y => { y with state := there, scrubbed := y.scrubbed && there != Tdisp.run }))
  else (s, 1, [])

def execLockInterface (sess world : Nat) (s : State) : Answered :=
  .next (s.tdisp "LOCK_INTERFACE" sess world (fun s => s.moveState world .unlocked .locked))

def execStartInterface (sess world : Nat) (s : State) : Answered :=
  .next (s.tdisp "START_INTERFACE" sess world (fun s => s.moveState world .locked .run))

/-- The configuration of a world: its ranges, contexts, rings, slice, handler and trap and save areas (R305, R306). -/
def State.configOf (s : State) (w : Nat) : List (BitVec 64) :=
  let n := fun (x : Nat) => BitVec.ofNat 64 x
  let y := s.world w
  s.holders.flatMap (fun h => (h.2.owners.filter (fun e => e.1 == w)).flatMap (fun e => [n h.1, n e.2.1, n e.2.2]))
  ++ y.ctxs.flatMap (fun c => [c.1.setWidth 64, c.2.setWidth 64])
  ++ (s.host.rings.filter (fun r => r.2.set && r.2.world == w)).flatMap (fun r =>
    [n r.1, r.2.base, n r.2.entries, r.2.asn.setWidth 64, n r.2.msixLo, n r.2.msixHi])
  ++ [y.slice, match y.handler with | some x => x.1.setWidth 64 | none => 0, y.trapBase.setWidth 64, n y.trapSlots, n y.saveBase, n y.saveSize]

/-- The report lists the configuration; its form is not laid out, so what its words are of the configuration is a free value. -/
def execGetDeviceInterfaceReport (sess world : Nat) (s : State) : Answered :=
  .next (s.tdisp "GET_DEVICE_INTERFACE_REPORT" sess world (fun s => (s, 0, Config.report (s.configOf world))))

def Tdisp.code : Tdisp → BitVec 64
  | .none => 0
  | .unlocked => 0
  | .locked => 1
  | .run => 2
  | .error => 3

def execGetDeviceInterfaceState (sess world : Nat) (s : State) : Answered :=
  .next (s.tdisp "GET_DEVICE_INTERFACE_STATE" sess world (fun s => (s, 0, [(s.world world).state.code])))

/-! ## Stopping a world, the scrub and its receipt (R305, R308) -/

/-- Step 1: the world's cards will complete with status 0x07 and CAUSE 0, and no gang of them is placed again. -/
def State.endCards (s : State) (w : Nat) : State :=
  let mine := fun (tid : BitVec 32) => match s.card? tid with | some c => c.image.world == w | none => false
  let waiting := s.cards.filter (fun c => c.image.world == w && c.inPool)
  let s := waiting.foldl (fun s c => match c.kind with
    | .sampler slot core => (s.modWorld w (fun y => { y with trapTaken := y.trapTaken.filter (· != slot) })).modCore (coreKey c.die core)
        (fun x => { x with sampler := false })
    | _ => s) s
  let s := (List.range 8).foldl (fun s d => s.modDie d (fun x => { x with relaunch := x.relaunch.filter (fun r => !mine r.tid) })) s
  { s with cards := s.cards.map (fun (c : Card) =>
      if c.image.world == w && c.stage == 0 then
        { c with status := 0x07, cause := 0, inPool := false, nextGang := if c.nextGang < c.image.gangs then c.image.gangs else c.nextGang }
      else c) }

/-- Steps 1 and 2; the cards of which no crew is placed complete at once. -/
def State.beginStop (s : State) (sess w : Nat) (nonce : BitVec 64) : State :=
  let s := s.modWorld w (fun y => { y with stopping := some (sess, nonce) })
  let s := (s.crewsWhere (fun k => k.world == w && k.live)).foldl (fun s cid => s.killCrew cid 0 0) s
  let s := s.endCards w
  (s.cards.filter (fun c => c.image.world == w)).foldl (fun s c => s.cardComplete c.tid) s

/-- The prefix of f lies strictly inside that of e. -/
def ownInside (e f : Nat × Nat × Nat) : Bool := decide (e.2.2 < f.2.2) && f.2.1 / 2 ^ (52 - e.2.2) == e.2.1 / 2 ^ (52 - e.2.2)

/-- The bytes that an ownership entry owns: its range less the widest entries inside it. -/
def ownBytes (os : List (Nat × Nat × Nat)) (e : Nat × Nat × Nat) : Nat :=
  let inner := os.filter (ownInside e)
  let widest := inner.filter (fun f => !inner.any (fun g => ownInside g f))
  2 ^ (52 - e.2.2) - widest.foldl (fun n f => n + 2 ^ (52 - f.2.2)) 0

/-- The bytes of a holder that a world owns. -/
def State.ownedBytes (s : State) (h w : Nat) : Nat :=
  let os := (s.holder h).owners
  (os.filter (fun e => e.1 == w)).foldl (fun n e => n + ownBytes os e) 0

/-- Zeros over what a world owns at a holder, under world 0's key (R308); in a die pool under world 0's mask (DEDUCED,
notes/assumptions/50.md). -/
def State.zeroOwned (s : State) (w h : Nat) : State :=
  let byte := fun (k : Nat) => k / 2 ^ 44 == h && s.ownerOf h (k % 2 ^ 44) == w
  { s with mem := { s.mem with cells := s.mem.cells.filter (fun c => !byte c.1), poison := s.mem.poison.filter (fun c => !byte c.1)
                               keys := s.mem.keys.filter (fun c => !byte (128 * c.1)), seeds := s.mem.seeds.filter (fun c => !byte (4 * c.1)) } }

/-- A pier's ranges of a world return to world 0: an entry inside a wider one becomes world 0's, others go. -/
def State.returnRanges (s : State) (w h : Nat) : State :=
  s.modHolder h (fun x =>
    let kept := x.owners.filter (fun e => e.1 != w || x.owners.any (fun o => ownInside o e))
    { x with owners := kept.map (fun (e : Nat × Nat × Nat) => if e.1 == w then (0, e.2) else e) })

/-- A pier's SRAM entries of a world: routes, each a removal that its table counts (R221), with the multicast groups they make, and watches. Tag
caches hold no state of their own. -/
def State.dropPierEntries (s : State) (w p : Nat) : State :=
  let routes := (s.node (8 + p)).table.filter (fun a => a.world == w)
  let s := s.modNode (8 + p) (fun x =>
    { x with table := x.table.filter (fun a => a.world != w), count := x.count + BitVec.ofNat 32 routes.length })
  s.modPier p (fun x =>
    { x with watches := x.watches.filter (fun e => match e.2 with | some y => y.world != w | none => true) })

/-- The 28 words of a receipt. How many pier SRAM entries a scrub zeroes counts tag-cache entries, which are no state: a free value
(notes/assumptions/40.md). -/
def State.receipt (s : State) (w : Nat) (nonce : BitVec 64) (pool dram cxl : Nat) : List (BitVec 64) :=
  let z := (s.world w).zeroed
  let head := [1 + BitVec.ofNat 64 (w * 2 ^ 32), BitVec.ofNat 64 (s.host.receipts + 1), nonce, BitVec.ofNat 64 z.words, BitVec.ofNat 64 z.accs,
    BitVec.ofNat 64 (z.bytes % 2 ^ 48 + z.tags * 2 ^ 48), BitVec.ofNat 64 z.resid, BitVec.ofNat 64 pool, Config.freeBits s.free,
    BitVec.ofNat 64 dram, BitVec.ofNat 64 cxl, 0] ++ wordsOf512 (Config.sha512 s.allMrs)
  head ++ wordsOf512 (Config.sign (Config.sha512 head))

/-- Steps 4 and 5: the scrub, the receipt and CONFIG_UNLOCKED. With its keys destroyed the world's epoch is over, so that no CXL line written
under them verifies again (R302, R308). -/
def State.finishStop (s : State) (sess w : Nat) (nonce : BitVec 64) : State :=
  let sum := fun (hs : List Nat) => hs.foldl (fun n h => n + s.ownedBytes h w) 0
  let rc := s.receipt w nonce (sum (List.range 8)) (sum ((List.range 8).map (· + 8))) (sum [16, 17])
  let s := (List.range 16).foldl (fun s h => s.zeroOwned w h) s
  let s := (List.range 8).foldl (fun s p => (s.returnRanges w (8 + p)).dropPierEntries w p) s
  let s := s.modWorld w (fun y => { y with state := .unlocked, stopping := none, scrubbed := true, keyed := false, xts := 0, tagKey := 0, epoch := y.epoch + 1 })
  ({ s with free := s.free + 1, host := { s.host with receipts := s.host.receipts + 1 } }).respondWords "STOP_INTERFACE" sess 0 rc

/-- Every crew of a world is gone, so none of its accesses is outstanding (R284), and its cards have completed: their tokens and successors come
before the scrub (R305). -/
def State.worldEmpty (s : State) (w : Nat) : Bool :=
  (s.crewsWhere (fun k => k.world == w && k.status != CrewSt.gone)).isEmpty && !s.cards.any (fun c => c.image.world == w)

/-- `STOP_INTERFACE`: accepted in any state. It is answered once the scrub is done. -/
def State.stopInterface (s : State) (sess w : Nat) (nonce : BitVec 64) : State :=
  if (s.world w).stopping = some (sess, nonce) then
    (if s.worldEmpty w then ((s.facing s.host.serving).finishStop sess w nonce).facing s.host.serving else s)
  else match s.session sess with
    | none => s.messageError "STOP_INTERFACE" sess
    | some x =>
      if x.finished = false then s.messageError "STOP_INTERFACE" sess
      else if w = 0 ∨ x.world ≠ w ∨ (s.world w).state = .none then s.message "STOP_INTERFACE" sess (fun s => (s, 1, []))
      else if s.mgmtReady then
        s.served (fun s =>
          let s := s.beginStop sess w nonce
          if s.worldEmpty w then s.finishStop sess w nonce else s)
      else s

def execStopInterface (sess world : Nat) (nonce : BitVec 64) (s : State) : Answered := .next (s.stopInterface sess world nonce)

/-! ## Range watches (R309) -/

def State.watchArm (s : State) (sess p entry w : Nat) (base : PA) (len : Nat) (mode : Bool) : State :=
  s.forWorld "WATCH_ARM" sess w true (fun s =>
    if 8 ≤ p ∨ 64 ≤ entry ∨ 52 < len then badOperand s
    else ok (s.modPier p (fun x =>
      { x with watches := tset none x.watches entry (some { world := w, base := base.toNat, len := len, mode := mode }) })))

def execWatchArm (sess pier entry world : Nat) (base : PA) (len : Nat) (mode : Bool) (s : State) : Answered :=
  .next (s.watchArm sess pier entry world base len mode)

/-- `WATCH_DISARM`: a message for the world of the armed entry. Its counts go into the next batch. -/
def State.watchDisarm (s : State) (sess p entry : Nat) : State :=
  s.vendor "WATCH_DISARM" sess
    (fun s x => s.accepts x (match tget none (s.pier p).watches entry with | some e => e.world | none => x.world) true)
    (fun s _ =>
      if 8 ≤ p ∨ 64 ≤ entry then badOperand s
      else match tget none (s.pier p).watches entry with
        | none => ok s
        | some e => ok (s.modPier p (fun x =>
            { x with watches := tset none x.watches entry none, oldCounts := x.oldCounts ++ [(entry, e.reads, e.writes)] })))

def execWatchDisarm (sess pier entry : Nat) (s : State) : Answered := .next (s.watchDisarm sess pier entry)

/-- The four words of a watch record. -/
def WatchRec.words (r : WatchRec) : List (BitVec 64) :=
  [r.dcc, BitVec.ofNat 64 r.pa,
   BitVec.ofNat 64 (r.world + 2 ^ 8 * r.kind + 2 ^ 16 * r.src + 2 ^ 24 * Nat.log2 r.size + 2 ^ 32 * r.entry), BitVec.ofNat 64 r.seq]

/-- A batch with its signature. -/
def signedBatch (ws : List (BitVec 64)) : List (BitVec 64) := ws ++ wordsOf512 (Config.sign (Config.sha512 ws))

/-- `LOG_EXPORT`: pier, batch number and records dropped, the counts, at most 64 records, the signature. -/
def State.logExport (s : State) (sess p count : Nat) : State :=
  s.forOwn "LOG_EXPORT" sess true (fun s =>
    if 8 ≤ p then badOperand s
    else
      let x := s.pier p
      let n := if count < 64 then count else 64
      let counts := (x.watches.filterMap (fun e => e.2.map (fun y => (e.1, y.reads, y.writes)))) ++ x.oldCounts
      let ws := [BitVec.ofNat 64 p, BitVec.ofNat 64 x.batch, BitVec.ofNat 64 x.watchDropped]
        ++ counts.flatMap (fun c => [BitVec.ofNat 64 c.1, c.2.1.setWidth 64, c.2.2.setWidth 64]) ++ (x.watchLog.take n).flatMap WatchRec.words
      (s.modPier p (fun x => { x with batch := x.batch + 1, watchDropped := 0, oldCounts := [], watchLog := x.watchLog.drop n }), 0, signedBatch ws))

def execLogExport (sess pier count : Nat) (s : State) : Answered := .next (s.logExport sess pier count)

/-! ## Measurements (R312) -/

def State.mrExtend (s : State) (sess n : Nat) (d : BitVec 512) : State :=
  s.forOwn "MR_EXTEND" sess true (fun s => if n ≠ 6 ∧ n ≠ 7 then badOperand s else ok (s.extendMr n d))

def execMrExtend (sess mr : Nat) (digest : BitVec 512) (s : State) : Answered := .next (s.mrExtend sess mr digest)

/-! ## The network's connections (R318, R323) -/

def State.netTableSet (s : State) (sess w : Nat) (table : PA) (records : Nat) : State :=
  s.forWorld "NET_TABLE_SET" sess w false (fun s => ok (s.modWorld w (fun y => { y with netTable := some (table, records) })))

def execNetTableSet (sess world : Nat) (table : PA) (records : Nat) (s : State) : Answered := .next (s.netTableSet sess world table records)

/-- A connection as NET_CONN_SET establishes it: sequence numbers 0, and the key, if one of its world has been installed (R318). -/
def State.netConnSet (s : State) (sess w conn : Nat) (c : Conn) : State :=
  s.forWorld "NET_CONN_SET" sess w true (fun s =>
    if 2 ^ 20 ≤ conn ∨ 16 ≤ c.port ∨ s.capNet = false then badOperand s
    else
      let old : Conn := match s.conn? conn with | some y => y | none => {}
      if old.up then (s, 2, [])
      else
        let c := if old.world = w then { c with key := old.key, salt := old.salt, iv := old.iv, exhausted := old.exhausted } else c
        ok (({ s with net := { s.net with conns := tset none s.net.conns conn (some { c with world := w, up := true }) } }).touch conn))

def execNetConnSet (sess world conn port : Nat) (asn : BitVec 16) (peer : BitVec 128) (udp : BitVec 16) (peerConn : BitVec 20)
    (winBase : VA) (winSize : Nat) (s : State) : Answered :=
  .next (s.netConnSet sess world conn
    { asn := asn, port := port, peer := peer, udp := udp, peerConn := peerConn, winBase := winBase, winSize := winSize })

/-- A message for the world of a connection's record. -/
def State.forConn (s : State) (name : String) (sess conn : Nat) (act : State → Session → Performed) : State :=
  s.vendor name sess (fun s x => s.accepts x (match s.conn? conn with | some y => y.world | none => x.world) true)
    (fun s x => act s x)

/-- `NET_KEY`: the IV counter restarts at 0 and what was held is sent. A record not yet set takes the key, in its session's world (DEDUCED,
notes/assumptions/51.md). -/
def State.netKey (s : State) (sess conn : Nat) (key : BitVec 256) (salt : BitVec 64) : State :=
  s.forConn "NET_KEY" sess conn (fun s x =>
    if 2 ^ 20 ≤ conn then badOperand s
    else
      let s := if (s.conn? conn).isSome then s else { s with net := { s.net with conns := tset none s.net.conns conn (some { world := x.world }) } }
      ok ((s.modConn conn (fun x => { x with key := some key, salt := salt, iv := 0, exhausted := false })).sendConn conn))

def execNetKey (sess conn : Nat) (key : BitVec 256) (salt : BitVec 64) (s : State) : Answered := .next (s.netKey sess conn key salt)

/-- `NET_CONN_CLOSE`: every command held completes with status 4. -/
def State.netConnClose (s : State) (sess conn : Nat) : State :=
  s.forConn "NET_CONN_CLOSE" sess conn (fun s _ =>
    if (s.conn? conn).isNone then badOperand s
    else
    let s := s.modConn conn (fun x => { x with up := false, unackd := [], buffered := [], answers := [], expects := [] })
    ok ((s.net.cmds.filter (fun c => c.conn == conn && c.result.isNone)).foldl (fun s c => s.netDone c.id 4) s))

def execNetConnClose (sess conn : Nat) (s : State) : Answered := .next (s.netConnClose sess conn)

/-! ## Sampling and error logs (R328) -/

/-- Where a range of addresses, seen from die d, may pass from one HOME or mapping to another: its first address and every end inside it of
an announcement that the die's table or a holder has. -/
def State.homePoints (s : State) (d lo size : Nat) : List Nat :=
  lo :: (((s.node d).table ++ (List.range 18).flatMap (fun h => (s.holder h).anns)).flatMap
    (fun a => [a.base, a.base + 2 ^ (52 - a.len)])).filter (fun x => decide (lo < x) && decide (x < lo + size))

/-- The ring of every die named lies, over all its length and every HOME that it touches, in memory that the world owns (R299). -/
def State.ringOwned (s : State) (w : Nat) (dies : BitVec 8) (ring : PA) (entries : Nat) : Bool :=
  ((List.range 8).filter (fun d => dies.getLsbD d)).all (fun d =>
    let lo := ring.toNat + d * entries * 16
    let hi := lo + entries * 16
    let points := s.homePoints d lo (entries * 16)
    points.all (fun x => match s.homeOf d w x with
      | .error _ => false
      | .ok (h, off) => !s.rangeForeign h off ((points.filter (fun y => decide (x < y))).foldl Nat.min hi - x) w))

/-- A sampler card: one crew of one team, gang size 1. -/
def samplerCard (c : Option CardImage) : Bool :=
  match c with | some i => i.crews == 1 && i.gang == 1 && i.present.length == 1 | none => false

/-- R328: an operand out of range. -/
def sampleBad (logN entries : Nat) : Bool :=
  !(logN == 0 || (decide (8 ≤ logN) && decide (logN ≤ 20))) || decide (entries < 64) || decide (2 ^ 20 < entries) || 2 ^ Nat.log2 entries != entries

/-- `SAMPLE_SET`: asked of each die named for its next multiple of 2^20 DCC. -/
def State.sampleSet (s : State) (sess w : Nat) (dies : BitVec 8) (logN : Nat) (ring : PA) (entries : Nat) (period : BitVec 64) (card : VA) : State :=
  s.forWorld "SAMPLE_SET" sess w true (fun s =>
    if sampleBad logN entries ∨ !s.ringOwned w dies ring entries ∨ samplerCard (s.templateAt 16 w card.toNat) = false then (s, 3, [])
    else ok (((List.range 8).filter (fun d => dies.getLsbD d)).foldl (fun s d => s.modSampling d w (fun x =>
      { x with wanted := some (logN, ring.toNat, entries, period, card), wantedAt := BitVec.ofNat 64 (((s.die d).dcc.toNat / 2 ^ 20 + 1) * 2 ^ 20) })) s))

def execSampleSet (sess world : Nat) (dies : BitVec 8) (logN : Nat) (ring : PA) (entries : Nat) (period : BitVec 64) (card : VA)
    (s : State) : Answered :=
  .next (s.sampleSet sess world dies logN ring entries period card)

/-- The two words of an error record (R337). -/
def ErrRec.words (r : ErrRec) : List (BitVec 64) :=
  [r.dcc, BitVec.ofNat 64 (r.kind.toNat + 2 ^ 8 * (r.low % 256) + 2 ^ 16 * r.world + 2 ^ 24 * (r.low / 256 % 2 + 2 * r.cls) + 2 ^ 32 * r.index)]

/-- The log of a unit: dies 0 to 7, piers 8 to 15 (log 0 cell, 1 transfer), abutments 16 and 17. -/
def State.errLogOf (s : State) (unit log : Nat) : ErrLog :=
  if unit < 8 then (s.die unit).errLog
  else if unit < 16 then (if log = 1 then (s.pier (unit - 8)).xferLog else (s.pier (unit - 8)).cellLog)
  else tget {} s.abutLogs (unit - 16)

def State.setErrLog (s : State) (unit log : Nat) (l : ErrLog) : State :=
  if unit < 8 then s.modDie unit (fun x => { x with errLog := l })
  else if unit < 16 then s.modPier (unit - 8) (fun x => if log = 1 then { x with xferLog := l } else { x with cellLog := l })
  else { s with abutLogs := tset {} s.abutLogs (unit - 16) l }

/-- The counters of a unit: of a die, its pool's and its cores'; of a pier, its SRAM's. -/
def State.unitCounters (s : State) (unit : Nat) : List (BitVec 64) :=
  if unit < 8 then
    [BitVec.ofNat 64 (s.die unit).poolSb, BitVec.ofNat 64 (s.die unit).poolDb]
    ++ (List.range 144).flatMap (fun c => let x := s.core (coreKey unit c); [x.ecdb ++ x.ecsb, 0#32 ++ x.ecscr])
  else if unit < 16 then [BitVec.ofNat 64 (s.pier (unit - 8)).sb, BitVec.ofNat 64 (s.pier (unit - 8)).db]
  else []

/-- `ERRLOG_EXPORT`: in a world-0 session only, in any state. -/
def State.errlogExport (s : State) (sess unit log count : Nat) : State :=
  s.vendor "ERRLOG_EXPORT" sess (fun _ x => x.world == 0) (fun s _ =>
    if 18 ≤ unit ∨ 1 < log then badOperand s
    else
      let l := s.errLogOf unit log
      let n := if count < 64 then count else 64
      (s.setErrLog unit log { l with recs := l.recs.drop n }, 0,
        signedBatch ((l.recs.take n).flatMap ErrRec.words ++ s.unitCounters unit ++ [BitVec.ofNat 64 l.dropped])))

def execErrlogExport (sess unit log count : Nat) (s : State) : Answered := .next (s.errlogExport sess unit log count)

end Sys2Proof.Machine
end

