-- ==== Sys2Proof/Machine/Boot.lean ====
section
/-! DEFINITION. Starting the package: the boot chain (spec/15 R312), rollback fuses (R313), failed starts and minimal mode (R314), coming
into service (R315), loss of power, RESTART_FULL (R306) and the reset of a pier (spec/17 R340). -/

namespace Sys2Proof.Machine

/-! ## Flash and fuses (R313, R314) -/

/-- The copy with the older sequence number takes the new count. -/
def Boot.setCount (b : Boot) (n : Nat) : Boot :=
  if b.flashB.1 < b.flashA.1 then { b with flashB := (b.flashA.1 + 1, n) } else { b with flashA := (b.flashB.1 + 1, n) }

/-- The counter's value: the number of blown bits. -/
def fuseValue (x : BitVec 64) : Nat := ((List.range 64).filter (fun i => x.getLsbD i)).length

/-- The bits up to a version. -/
def bitsUpTo (n : Nat) : BitVec 64 := BitVec.ofNat 64 (2 ^ n - 1)

/-- The image slot of the present start. -/
def Boot.used (b : Boot) : ImageSlot := if b.usedB then b.slotB else b.slotA

/-- The package as a reset leaves it; flash, fuses and image slots outlast it. The model's own counters go on. -/
def State.restarted (s : State) (b : Boot) : State :=
  { State.resetOf s.variant with
    cur := s.cur, agenda := s.agenda, phase := s.phase, nextId := s.nextId, free := s.free
    boot := { flashA := b.flashA, flashB := b.flashB, fuses := b.fuses, weak := b.weak, slotA := b.slotA, slotB := b.slotB } }

/-! ## The boot chain (R312) -/

/-- The slot that BL0 and BL1 end with and REASON: slot A, or B when A fails verification (0x01) or its version is below the counter
(0x02); 0x12 when neither serves. -/
def Boot.choose (b : Boot) : Bool × BitVec 8 :=
  let v := fuseValue b.fuses
  let fit := fun (x : ImageSlot) => x.good && decide (v ≤ x.version)
  if fit b.slotA then (false, 0)
  else if fit b.slotB then (true, if b.slotA.good then 0x02 else 0x01)
  else (false, 0x12)

/-- The slots whose BL1 runs, in order: slot A when it verifies, and B when A does not or is refused. -/
def Boot.tried (b : Boot) : List ImageSlot :=
  let a := if b.slotA.good then [b.slotA] else []
  if b.slotA.good && decide (fuseValue b.fuses ≤ b.slotA.version) then a else a ++ (if b.slotB.good then [b.slotB] else [])

/-- What BL1 measures before the rollback check: MR0, and MR5 with the version and the fuses. -/
def State.measureBl1 (s : State) (x : ImageSlot) : State :=
  (s.extendMr 0 (Config.partDigest x.digest 0)).extendMr 5 (Config.versionDigest x.version s.boot.fuses)

/-- MR1 to MR4, each as its part has been verified; the first that does not verify ends it. -/
def State.measure (s : State) (x : ImageSlot) : State :=
  ([1, 2, 3, 4].filter (fun n => match x.fails with | some f => decide (n < f) | none => true)).foldl
    (fun s n => s.extendMr n (Config.partDigest x.digest n)) s

/-- Minimal mode: C0, P0, P1 and world 0, no network, no CXL (R314, R2). -/
def State.minimal (s : State) : State :=
  let own := fun (h : Nat) => h == 0 || h == 8 || h == 9
  let tbl := (resetAnns false).filter (fun a => own a.holder)
  { s with capCxl := false, capNet := false
           nodes := ((List.range 16).filter own).map (fun k => (k, { table := tbl, count := BitVec.ofNat 32 tbl.length }))
           holders := ((List.range 16).filter own).map (fun h => (h, resetHolder false h)) }

/-- `BOOT_START`: weak fuse bits are blown again; the count is read, and a full start raises it; every BL1 that verifies measures itself, a
slot is chosen, and its parts are measured as they verify; a part that does not has the start fail with 0x12; world 0's seed and keys are drawn. Dies come into service by DIE_ENTER_SERVICE (DEDUCED, notes/assumptions/41.md). -/
def State.bootStart (s : State) : State :=
  if s.boot.stage ≠ 0 then s
  else
    let b := { s.boot with weak := 0 }
    let small := decide (3 ≤ b.count)
    let b := if small then b else b.setCount (b.count + 1)
    let (useB, why) := b.choose
    let x := if useB then b.slotB else b.slotA
    let found := why
    let why := if x.fails.isSome then 0x12 else why
    let b := { b with minimal := small, usedB := useB, reason := why, stage := if why = 0x12 then 2 else 1 }
    let s := { s with boot := b, capDies := 0 }
    let s := if small then s.minimal else s
    let s := s.modWorld 0 (fun w => { w with seed := Config.seed s.free, xts := Config.bootXts s.free, tagKey := Config.bootTag s.free })
    let s := { s with free := s.free + 1 }
    let s := b.tried.foldl State.measureBl1 s
    if found = 0x12 then s else s.measure x

def execBootStart (s : State) : Answered := .next s.bootStart

/-- A start is under way: begun, not failed, UP not set. -/
def Boot.starting (b : Boot) : Bool := b.stage == 1 && !b.up

/-- `START_WATCHDOG_EXPIRY` (R314). -/
def State.startWatchdog (s : State) : State :=
  if s.boot.starting then { s with boot := { s.boot with reason := 0x20, stage := 2 } } else s

def execStartWatchdogExpiry (s : State) : Answered := .next s.startWatchdog

/-- `DRAM_TRAINING_FAILED` (R314): the start has failed with REASON 0x10 (it may still set UP, R314). -/
def State.dramFailed (s : State) (p : Nat) : State :=
  if s.boot.starting && decide (p < 8) then
    ({ s with boot := { s.boot with reason := 0x10 } }).modPier p (fun x => { x with dramFailed := true })
  else s

def execDramTrainingFailed (pier : Nat) (s : State) : Answered := .next (s.dramFailed pier)

/-- `DIE_CALIBRATION_FAILED` (R314). -/
def State.dieCalFailed (s : State) (d : Nat) : State :=
  if s.boot.starting && decide (d < 8) && !s.dieUp d then
    ({ s with boot := { s.boot with reason := 0x11 } }).modDie d (fun x => { x with calFailed := true })
  else s

def execDieCalibrationFailed (die : Nat) (s : State) : Answered := .next (s.dieCalFailed die)

/-- A die may enter service: its calibration has not failed, an attach pier's training has not, and in minimal mode it is C0. -/
def State.mayEnter (s : State) (d : Nat) : Bool :=
  s.boot.stage == 1 && decide (d < 8) && !s.dieUp d && !(s.die d).calFailed && !(s.die d).silent
  && (!s.boot.minimal || d == 0) && !((s.pier (attach d 0)).dramFailed && (s.pier (attach d 1)).dramFailed)

/-- `DIE_ENTER_SERVICE` (R315): not every die in service is calibrated then. -/
def State.dieEnter (s : State) (d : Nat) : State :=
  if s.mayEnter d then
    ({ s with capDies := s.capDies ||| (1#8 <<< d), boot := { s.boot with cal := false } }).modDie d (fun x => { x with cal12 := true })
  else s

def execDieEnterService (die : Nat) (s : State) : Answered := .next (s.dieEnter die)

/-- `CALIBRATION_COMPLETE` (R315): every die in service is calibrated, and the cores switch together. -/
def State.calibrated (s : State) : State :=
  if s.boot.stage = 1 ∧ s.capDies ≠ 0 then
    let s := (List.range 8).foldl (fun s d => if s.dieUp d then s.modDie d (fun x => { x with calFull := true }) else s) s
    { s with boot := { s.boot with cal := true } }
  else s

def execCalibrationComplete (s : State) : Answered := .next s.calibrated

/-- `BRING_UP_END` (R315): UP sets. A full start with REASON below 0x10 clears the count (R314); the bits up to the image's version are
blown (R313). -/
def State.bringUpEnd (s : State) : State :=
  if s.boot.starting && s.capDies != 0 then
    let b := s.boot
    let b := if !b.minimal && b.reason.ult 0x10 then b.setCount 0 else b
    { s with boot := { b with up := true, fuses := b.fuses ||| bitsUpTo b.used.version, fresh := bitsUpTo b.used.version &&& ~~~b.fuses } }
  else s

def execBringUpEnd (s : State) : Answered := .next s.bringUpEnd

/-- `POWER_LOSS`: `counted` says whether an increment that BL0 had begun counts as made; `blown` and `weak` which bits an interrupted blow
left blown, and which of those read weak (R313, R314). Bits are blown once UP is set; how long that takes the spec does not say, so any loss
of power after UP may have interrupted it (DESIGN CHOICE, notes/assumptions/41.md). -/
def State.powerLoss (s : State) (counted : Bool) (blown weak : BitVec 64) : State :=
  let b := s.boot
  let b := if b.stage = 0 && counted && decide (b.count < 3) then b.setCount (b.count + 1) else b
  let new := blown &&& b.fresh
  s.restarted { b with fuses := (b.fuses &&& ~~~b.fresh) ||| new, weak := (if b.stage = 0 then b.weak &&& weak else 0) ||| (weak &&& new) }

def execPowerLoss (counted : Bool) (blown weak : BitVec 64) (s : State) : Answered := .next (s.powerLoss counted blown weak)

/-- `RESTART_FULL` (R306): in a world-0 session; the count is cleared and the package reset. No response outlasts it (DEDUCED). -/
def State.restartFull (s : State) (sess : Nat) : State :=
  match s.session sess with
  | none => s.messageError "RESTART_FULL" sess
  | some x =>
    if x.finished = false then s.messageError "RESTART_FULL" sess
    else if x.world ≠ 0 then s.message "RESTART_FULL" sess (fun s => (s, 1, []))
    else if s.mgmtReady then s.restarted (s.boot.setCount 0) else s

def execRestartFull (sess : Nat) (s : State) : Answered := .next (s.restartFull sess)

/-! ## The reset of a pier (R340; notes/assumptions/36.md) -/

/-- A reset pier's return: its SRAM and count start again, its links are up toward what is not silent, its table holds the default
announcements of the holders in service, and it announces its memory. -/
def State.revivePier (s : State) (p : Nat) : State :=
  let s := s.modPier p (fun _ => {})
  let s := s.piers.foldl (fun s y => s.modPier y.1 (fun x => { x with lost := x.lost.filter (fun l => l.1 != p && l.2 != p) })) s
  let mine := fun (l : Nat) => (linkEnds l).1 == 8 + p || (linkEnds l).2 == 8 + p
  let other := fun (l : Nat) => if (linkEnds l).1 = 8 + p then (linkEnds l).2 else (linkEnds l).1
  let s := { s with links := s.links.filter (fun l => !(mine l.1 && !s.holderSilent (other l.1))) }
  let tbl := (resetAnns s.capCxl).filter (fun a => a.holder != 8 + p && !s.holderSilent a.holder)
  let s := s.modNode (8 + p) (fun _ => { table := tbl, count := BitVec.ofNat 32 tbl.length })
  match (resetAnns s.capCxl).find? (fun a => a.holder == 8 + p) with
  | some a => (s.announce a .plain).1.checkCampaigns
  | none => s

/-- `PIER_RESET`: silence first, as for a die; once its announcements are withdrawn everywhere, its return. -/
def State.pierReset (s : State) (p : Nat) : State :=
  if 8 ≤ p then s
  else if (s.pier p).silent = false then (s.declarePier p ((p + 1) % 8)).modPier p (fun x => { x with resetting := true })
  else if s.withdrawnAll (8 + p) then s.revivePier p
  else s.modPier p (fun x => { x with resetting := true })

def execPierReset (pier : Nat) (s : State) : Answered := .next (s.pierReset pier)

end Sys2Proof.Machine
end

