-- ==== Sys2Proof/Machine/Ports.lean ====
section
/-! DEFINITION. The turn of a team: the fetch of its next header or word (spec/02 R24, R28, R29; spec/03 R51 to R54), what keeps its next
pass from issuing, the order of teams on a port (R49, R50), Y (R25), and the sample that a port takes (spec/17 R329). -/

namespace Sys2Proof.Machine

/-! ## Fetch -/

/-- The crew's teams may issue: it is on a core, in service, and neither saved nor retiring (R289, R284). -/
def State.crewIssues (s : State) (k : Crew) : Bool :=
  !k.offCore && !(s.die k.die).silent && (match k.status with | .resident => true | .draining => true | _ => false)

/-- A team may issue: it runs and holds at nothing. -/
def Team.mayIssue (t : Team) : Bool := t.status == TeamSt.running && t.hold == Hold.none

/-- A word that is no instruction (R29 step 6). One of the network's opcode is of a unit that is absent first (R3, R325). -/
def badWordTrap (net : Bool) (w : Word) : Trap := if !net && opcodeOf w == 0x3B then .unitAbsent else .illegalInstruction

/-- The next word of an issued clause, with the word behind it. -/
def Clause.next (c : Clause) : Word × Word := (c.words.getD c.idx 0, c.words.getD (c.idx + 1) 0)

/-- The header at the PC of a team with no open clause: lanes rejoin and the team may switch groups (R52 to R54) before the fetch. A header
that is none still has its words fetched first, whose faults come before (R29 step 1). -/
def State.fetchHeader (s : State) (uid : Nat) (t : Team) (k : Crew) : State × Option Instr :=
  match t.refill with
  | none => (s.stallTeam uid 9, none)
  | some t =>
    let t := t.reconverge
    let s := s.setTeam uid t
    match s.fetchWord k t.pc with
    | (s, .error tr) => ((s.violated uid tr).takeTrap uid t.pc tr, none)
    | (s, .ok w) =>
      if !hasMagic w then (s.takeTrap uid t.pc .illegalClause, none)
      else match decodeHeader w with
        | .ok i => (s, some i)
        | .error _ => match s.fetchWords k (t.pc + 4) (countOf w) with
          | (s, .error tr) => ((s.violated uid tr).takeTrap uid t.pc tr, none)
          | (s, .ok _) => (s.takeTrap uid t.pc .illegalClause, none)

/-- What the team whose turn it is issues next: the header at its PC, its open header again, or the next word of its clause, where a
header's first byte makes no header (R35). A trap reported late comes first (R223); a reached stop lets nothing issue (R336). -/
noncomputable def State.nextIssue (s : State) : State × Option Instr :=
  match s.current with
  | none => (s, none)
  | some (t, k) =>
    if !t.mayIssue || !s.crewIssues k then (s, none)
    else match t.late with
    | some i => (s.suspend s.cur i, none)
    | none =>
      if t.stopRoom = some 0 then (s.stallTeam s.cur 11, none)
      else match t.clause with
      | none => s.fetchHeader s.cur t k
      | some c =>
        if c.issued then
          match (if hasMagic c.next.1 then .error .unassignedFn else decode c.next.1 c.next.2) with
          | .ok i => (s, some i)
          | .error _ => (s.takeTrap s.cur c.hdrVA (badWordTrap s.capNet c.next.1), none)
        else
          match decodeHeader c.hdr with
          | .ok i => (s, some i)
          | .error _ => (s, none)

/-! ## What keeps a pass from issuing (R330) -/

/-- The plan of a word that is never captured (R132) and whose instruction the compiler can build; `planOf` has those that may be captured,
`wordPlan` the rest. -/
def plainPlan : Instr → Option Plan
  | .cyc d => some (planCyc d)
  | .sleepc a => some (planSleepc a)
  | .barArv c n l => some (planBarArv c n l)
  | .barWait n l => some (planBarWait n l)
  | .barSync c n l => some (planBarSync c n l)
  | .barTo t c n l => some (planBarTo t c n l)
  | .pbInit e a => some (planPbInit e a)
  | .pbArv a => some (planPbArv a)
  | .pbExp n a => some (planPbExp n a)
  | .pbWait a p => some (planPbWait a p)
  | .pbTest a k p => some (planPbTest a k p)
  | .fenceAcq l => some (planFenceAcq l)
  | .fenceRel l => some (planFenceRel l)
  | .fenceAr l => some (planFenceAr l)
  | .fenceQ l => some (planFenceQ l)
  | .br p n o => some (planBr p n o)
  | .bra o => some (planBra o)
  | .call p n o => some (planCall p n o)
  | .exit p n => some (planExit p n)
  | .bz c r o => some (planBz c r o)
  | .bnz c r o => some (planBnz c r o)
  | .bpend c r o => some (planBpend c r o)
  | .bpendN c r o => some (planBpendN c r o)
  | .jmps r o => some (planJmps r o)
  | .calls r o => some (planCalls r o)
  | .ret c r o => some (planRet c r o)
  | .loop l a o => some (planLoop l a o)
  | .frmode m => some (planFrmode m)
  | .fryld => some planFryld
  | .join a => some (planJoin a)
  | .mact d k => some (planMact d k)
  | .deferOn => some planDeferOn
  | .deferOff => some planDeferOff
  | .deferStrict m => some (planDeferStrict m)
  | .rdrain => some planRdrain
  | .rfstat d k => some (planRfstat d k)
  | _ => none

/-- The plan of a word, with the literal behind it, and the instruction that a capture would keep. -/
def wordPlan (w lit : Word) : Except DecodeError (Option Instr × Plan) :=
  let plain := fun (x : Except DecodeError Instr) => match x with
    | .error e => .error e
    | .ok i => match plainPlan i with | some p => .ok (none, p) | none => .error DecodeError.unassignedFn
  let never := fun (x : Except DecodeError Plan) => x.map (fun p => ((none, p) : Option Instr × Plan))
  if hasMagic w then .error .unassignedFn
  else match opcodeOf w with
  | 0x28 => plain (decodeOp28 w)
  | 0x2C => plain (decodeOp2C w)
  | 0x2D => plain (decodeOp2D w)
  | 0x2E => plain (decodeOp2E w)
  | 0x30 => plain (decodeOp30 w)
  | 0x31 => plain (decodeOp31 w)
  | 0x32 => plain (decodeOp32 w)
  | 0x33 => plain (decodeOp33 w)
  | 0x34 => plain (decodeOp34 w)
  | 0x35 => never (opcode35 w planAcqx planRelx planAllq)
  | 0x36 => never (opcode36 w planPtst planPchk planPchks)
  | 0x38 => never (opcode38 w planPost planDone planCtok planTid)
  | 0x39 => never (opcode39 w planTrap planTresume planTkill planTrelaunch planTrecord)
  | 0x3A => never (opcode3A w planRdsys planWrsys planSmp)
  | _ => match decodeEntry w lit with
    | .error e => .error e
    | .ok i => match planOf i with | some p => .ok (some i, p) | none => .error .unassignedOpcode

/-- What a team shows after a try of its pass: 0 where the pass issued. One that trapped shows the reason of its suspension (DESIGN CHOICE,
notes/assumptions/37.md). -/
def State.shown (s : State) (uid : Nat) : Nat :=
  match s.team? uid with
  | some t => t.stall
  | none => 0

/-- What the next word of the open clause waits for, with its port: the word is tried, and what trying it changes is not kept. -/
def State.tryWord (s : State) : Nat × Bool :=
  match s.current with
  | none => (0, false)
  | some (t, _) =>
    match t.clause with
    | none => (t.stall, false)
    | some c =>
      if !c.issued then (t.stall, false)
      else match wordPlan c.next.1 c.next.2 with
        | .error _ => (15, c.onB)
        | .ok (i, p) => ((s.issueWord i p).shown s.cur, c.onB)

/-- What the next pass of a team waits for, 0 when it would issue, with the port it is for; a header still to be opened is opened first. -/
def State.probe (s : State) (uid : Nat) : Nat × Bool :=
  let s := { s with cur := uid }
  match s.current with
  | none => (0, false)
  | some (t, k) =>
    match t.clause with
    | some c => if c.issued then s.tryWord else (s.runHeader c.hdr).tryWord
    | none => match s.fetchHeader uid t k with
      | (s, some (.clauseHeader n g v e y w c k)) => (s.runHeader (0xB7#8 ++ n ++ g ++ v ++ 0#1 ++ e ++ y ++ w ++ c ++ k)).tryWord
      | (s, _) => (s.shown uid, false)

/-! ## The order of teams on a port (R50) -/

/-- Insert by a strict order, after equals. -/
def insertBy {α : Type} (lt : α → α → Bool) (x : α) : List α → List α
  | [] => [x]
  | y :: ys => if lt x y then x :: y :: ys else y :: insertBy lt x ys

def sortBy {α : Type} (lt : α → α → Bool) (xs : List α) : List α := xs.foldl (fun acc x => insertBy lt x acc) []

/-- A port's count of its cycles, and what it was when a team last issued. -/
def CoreSt.port (c : CoreSt) (onB : Bool) : Nat := if onB then c.portB else c.portA

def Team.last (t : Team) (onB : Bool) : Nat := if onB then t.lastB else t.lastA

/-- A team's class: handler and sampler crews above all others by trap priority, then the card's priority, whatever level the card had
reached in the pool. -/
def State.issueClass (s : State) (k : Crew) : Nat :=
  match s.card? k.tid with
  | none => 0
  | some c => (match k.kind with | .ordinary => 0 | _ => 8) + c.prio

/-- Team a goes before team b on a port of a core with n resident teams: one that has not issued for 16 × n of the port's cycles, the
longest first; then the class; then the least recently issued. -/
def State.before (s : State) (core : Nat) (onB : Bool) (n : Nat) (a b : Nat) : Bool :=
  match s.crewOf a, s.crewOf b with
  | some (ta, ka), some (tb, kb) =>
    let late := fun (t : Team) => decide (16 * n ≤ (s.core core).port onB - t.last onB)
    let older := decide (ta.last onB < tb.last onB)
    if late ta && late tb then older
    else if late ta || late tb then late ta
    else if s.issueClass ka = s.issueClass kb then older else decide (s.issueClass kb < s.issueClass ka)
  | _, _ => false

/-- The teams of the package that may issue, with their cores. -/
def State.issuers (s : State) : List (Nat × Nat) :=
  s.teams.filterMap (fun e => match s.crewOf e.1 with
    | some (t, k) => if t.mayIssue && s.crewIssues k then some (e.1, k.coreKey) else none
    | none => none)

/-- A team's turn belongs to a port: its issued clause does, or its next header has still to be opened. -/
def State.wants (s : State) (uid : Nat) (onB : Bool) : Bool :=
  match s.team? uid with
  | some t => (match t.clause with | some c => !c.issued || c.onB == onB | none => true)
  | none => false

/-- The teams to try on a port of a core, in order. -/
def State.onPort (s : State) (core : Nat) (onB : Bool) : List Nat :=
  let mine := (s.issuers.filter (fun x => x.2 == core && s.wants x.1 onB)).map Prod.fst
  sortBy (s.before core onB (s.teamsOn (core / 144) (core % 144)).length) mine

/-- The teams to try: the ports of the cores take turns. -/
def State.candidates (s : State) : List Nat :=
  let cores := distinct (s.issuers.map Prod.snd)
  match cores[s.phase / 4 % cores.length]? with
  | none => []
  | some c => s.onPort c (s.phase / 2 % 2 == 1)

/-! ## Y (R25) -/

/-- The clause a team is to begin is kept back: the team's last clause had Y and the port has issued nothing since, and another team of
the same or a higher class is ready for the port. -/
def State.yields (s : State) (uid : Nat) : Bool :=
  match s.crewOf uid with
  | none => false
  | some (t, k) =>
    match t.yielded, t.clause with
    | some b, some c =>
      c.issued && c.onB == b && c.idx == 0 && c.issuedTo == 0 && c.opId == 0 && (s.core k.coreKey).port b == t.last b
      && (s.issuers.any (fun x => x.1 != uid && x.2 == k.coreKey
        && (match s.crewOf x.1 with | some (_, ku) => decide (s.issueClass k ≤ s.issueClass ku) | none => false) && s.probe x.1 == (0, b)))
    | _, _ => false

/-- What the team whose turn it is issues. -/
noncomputable def State.fetchTurn (s : State) : State × Option Instr :=
  if s.yields s.cur then (s.stallTeam s.cur 17, none) else s.nextIssue

/-! ## Samples (R329) -/

/-- The team that follows slot n among the teams on a core, ascending and wrapping round. -/
def State.nextSampled (s : State) (d c n : Nat) : Option Nat :=
  let at_ := fun (i : Nat) => (s.teamsOn d c).find? (fun u => match s.team? u with | some t => t.slot == i | none => false)
  (List.range 16).findSome? (fun j => at_ ((n + 1 + j) % 16))

/-- The stall reason of a team now: the lowest that blocks its next pass; 17 where Y keeps it back, 13 where its pass is ready and the port
takes another team's (R108), 0 where the port takes it. A team that holds or is suspended shows the reason of that; one whose crew may not
issue, that of pre-emption. -/
def State.reasonNow (s : State) (uid : Nat) : Nat :=
  match s.crewOf uid with
  | none => 0
  | some (t, k) =>
    if !t.mayIssue then t.stall
    else if !s.crewIssues k then 16
    else
      let p := s.probe uid
      if p.1 ≠ 0 then p.1
      else if s.yields uid then 17
      else if (s.onPort k.coreKey p.2).find? (fun u => s.probe u == (0, p.2) && !s.yields u) = some uid then 0 else 13

/-- `SAMPLE_TICK` (R329): one port of one core samples what its next team does in this cycle. -/
def State.sampleTick (s : State) (core : Nat) (portB : Bool) : State :=
  let d := core / 144
  let c := core % 144
  if 1152 ≤ core ∨ (s.die d).silent = true ∨ s.dieUp d = false then s
  else match s.nextSampled d c (if portB then (s.core core).lastB else (s.core core).lastA) with
    | none => s
    | some u => match s.crewOf u with
      | none => s
      | some (t, k) =>
        let s := s.modCore core (fun x => if portB then { x with lastB := t.slot } else { x with lastA := t.slot })
        if (s.sampling d k.world).logN = 0 then s
        else
          let n := s.reasonNow u
          let b := n % 32 + (if n = 0 then 32 else 0) + (if portB then 64 else 0)
          s.appendSample d k.world (leBytes 8 t.nextVA.toNat ++ leBytes 4 ((s.die d).dcc.toNat % 2 ^ 32) ++ leBytes 1 b ++ sampleTail t k)

def execSampleTick (core : Nat) (portB : Bool) (s : State) : Answered := .next (s.sampleTick core portB)

end Sys2Proof.Machine
end

