-- ==== Sys2Proof/Machine/Dispatch.lean ====
section
/-! DEFINITION. One arm per instruction and event: a direct call of its meaning. -/

namespace Sys2Proof.Machine

def exec (i : Instr) (s : State) : Host.Outcome State Fault Refusal :=
  match i with
  | .clauseHeader n g v e y w c k => Sys2Proof.Machine.execClauseHeader n g v e y w c k s
  | .add d a b u => Sys2Proof.Machine.execAdd d a b u s
  | .sub d a b u => Sys2Proof.Machine.execSub d a b u s
  | .mullo d a b u => Sys2Proof.Machine.execMullo d a b u s
  | .mulhi d a b u => Sys2Proof.Machine.execMulhi d a b u s
  | .mulhu d a b u => Sys2Proof.Machine.execMulhu d a b u s
  | .and d a b u => Sys2Proof.Machine.execAnd d a b u s
  | .or d a b u => Sys2Proof.Machine.execOr d a b u s
  | .xor d a b u => Sys2Proof.Machine.execXor d a b u s
  | .andn d a b u => Sys2Proof.Machine.execAndn d a b u s
  | .shl d a b u => Sys2Proof.Machine.execShl d a b u s
  | .shr d a b u => Sys2Proof.Machine.execShr d a b u s
  | .sra d a b u => Sys2Proof.Machine.execSra d a b u s
  | .min d a b u => Sys2Proof.Machine.execMin d a b u s
  | .max d a b u => Sys2Proof.Machine.execMax d a b u s
  | .minu d a b u => Sys2Proof.Machine.execMinu d a b u s
  | .maxu d a b u => Sys2Proof.Machine.execMaxu d a b u s
  | .adds d a b u => Sys2Proof.Machine.execAdds d a b u s
  | .subs d a b u => Sys2Proof.Machine.execSubs d a b u s
  | .addus d a b u => Sys2Proof.Machine.execAddus d a b u s
  | .subus d a b u => Sys2Proof.Machine.execSubus d a b u s
  | .rotl d a b u => Sys2Proof.Machine.execRotl d a b u s
  | .popc d a => Sys2Proof.Machine.execPopc d a s
  | .clz d a => Sys2Proof.Machine.execClz d a s
  | .brev d a => Sys2Proof.Machine.execBrev d a s
  | .absd d a b u => Sys2Proof.Machine.execAbsd d a b u s
  | .avgu d a b u => Sys2Proof.Machine.execAvgu d a b u s
  | .addi d a imm => Sys2Proof.Machine.execAddi d a imm s
  | .andi d a imm => Sys2Proof.Machine.execAndi d a imm s
  | .ori d a imm => Sys2Proof.Machine.execOri d a imm s
  | .xori d a imm => Sys2Proof.Machine.execXori d a imm s
  | .shli d a n => Sys2Proof.Machine.execShli d a n s
  | .shri d a n => Sys2Proof.Machine.execShri d a n s
  | .srai d a n => Sys2Proof.Machine.execSrai d a n s
  | .rotli d a n => Sys2Proof.Machine.execRotli d a n s
  | .fadd d a b u => Sys2Proof.Machine.execFadd d a b u s
  | .fsub d a b u => Sys2Proof.Machine.execFsub d a b u s
  | .fmul d a b u => Sys2Proof.Machine.execFmul d a b u s
  | .fmin d a b u => Sys2Proof.Machine.execFmin d a b u s
  | .fmax d a b u => Sys2Proof.Machine.execFmax d a b u s
  | .fma d a b u => Sys2Proof.Machine.execFma d a b u s
  | .fnma d a b u => Sys2Proof.Machine.execFnma d a b u s
  | .fcopysign d a b u => Sys2Proof.Machine.execFcopysign d a b u s
  | .hadd2 d a b u => Sys2Proof.Machine.execHadd2 d a b u s
  | .hmul2 d a b u => Sys2Proof.Machine.execHmul2 d a b u s
  | .hfma2 d a b u => Sys2Proof.Machine.execHfma2 d a b u s
  | .badd2 d a b u => Sys2Proof.Machine.execBadd2 d a b u s
  | .bmul2 d a b u => Sys2Proof.Machine.execBmul2 d a b u s
  | .bfma2 d a b u => Sys2Proof.Machine.execBfma2 d a b u s
  | .hmin2 d a b u => Sys2Proof.Machine.execHmin2 d a b u s
  | .hmax2 d a b u => Sys2Proof.Machine.execHmax2 d a b u s
  | .frcp d a => Sys2Proof.Machine.execFrcp d a s
  | .frsq d a => Sys2Proof.Machine.execFrsq d a s
  | .fsqrt d a => Sys2Proof.Machine.execFsqrt d a s
  | .fexp2 d a => Sys2Proof.Machine.execFexp2 d a s
  | .flog2 d a => Sys2Proof.Machine.execFlog2 d a s
  | .cvtFI d a => Sys2Proof.Machine.execCvtFI d a s
  | .cvtFU d a => Sys2Proof.Machine.execCvtFU d a s
  | .cvtIF d a => Sys2Proof.Machine.execCvtIF d a s
  | .cvtUF d a => Sys2Proof.Machine.execCvtUF d a s
  | .cvtBfp d a b u => Sys2Proof.Machine.execCvtBfp d a b u s
  | .cvtFBf d a e => Sys2Proof.Machine.execCvtFBf d a e s
  | .cvtHp d a b u => Sys2Proof.Machine.execCvtHp d a b u s
  | .cvtFH d a e => Sys2Proof.Machine.execCvtFH d a e s
  | .cvtE4l d a b u => Sys2Proof.Machine.execCvtE4l d a b u s
  | .cvtE4h d a b u => Sys2Proof.Machine.execCvtE4h d a b u s
  | .cvtFE4 d a e => Sys2Proof.Machine.execCvtFE4 d a e s
  | .cvtE5l d a b u => Sys2Proof.Machine.execCvtE5l d a b u s
  | .cvtE5h d a b u => Sys2Proof.Machine.execCvtE5h d a b u s
  | .cvtFE5 d a e => Sys2Proof.Machine.execCvtFE5 d a e s
  | .dp4S8 d a b u => Sys2Proof.Machine.execDp4S8 d a b u s
  | .dp4N8 d a b u => Sys2Proof.Machine.execDp4N8 d a b u s
  | .dp4Sn8 d a b u => Sys2Proof.Machine.execDp4Sn8 d a b u s
  | .dp8S4 d a b u => Sys2Proof.Machine.execDp8S4 d a b u s
  | .dp8N4 d a b u => Sys2Proof.Machine.execDp8N4 d a b u s
  | .dp8Sn4 d a b u => Sys2Proof.Machine.execDp8Sn4 d a b u s
  | .dp4E4 d a b u => Sys2Proof.Machine.execDp4E4 d a b u s
  | .dp4E5 d a b u => Sys2Proof.Machine.execDp4E5 d a b u s
  | .scacc d a b u => Sys2Proof.Machine.execScacc d a b u s
  | .scacc2 d a b u => Sys2Proof.Machine.execScacc2 d a b u s
  | .scmul d a b u => Sys2Proof.Machine.execScmul d a b u s
  | .cmpEq p a b u c => Sys2Proof.Machine.execCmpEq p a b u c s
  | .cmpNe p a b u c => Sys2Proof.Machine.execCmpNe p a b u c s
  | .cmpLt p a b u c => Sys2Proof.Machine.execCmpLt p a b u c s
  | .cmpLe p a b u c => Sys2Proof.Machine.execCmpLe p a b u c s
  | .cmpGt p a b u c => Sys2Proof.Machine.execCmpGt p a b u c s
  | .cmpGe p a b u c => Sys2Proof.Machine.execCmpGe p a b u c s
  | .cmpLtu p a b u c => Sys2Proof.Machine.execCmpLtu p a b u c s
  | .cmpLeu p a b u c => Sys2Proof.Machine.execCmpLeu p a b u c s
  | .cmpGtu p a b u c => Sys2Proof.Machine.execCmpGtu p a b u c s
  | .cmpGeu p a b u c => Sys2Proof.Machine.execCmpGeu p a b u c s
  | .fcmpEq p a b u c => Sys2Proof.Machine.execFcmpEq p a b u c s
  | .fcmpNe p a b u c => Sys2Proof.Machine.execFcmpNe p a b u c s
  | .fcmpLt p a b u c => Sys2Proof.Machine.execFcmpLt p a b u c s
  | .fcmpLe p a b u c => Sys2Proof.Machine.execFcmpLe p a b u c s
  | .fcmpGt p a b u c => Sys2Proof.Machine.execFcmpGt p a b u c s
  | .fcmpGe p a b u c => Sys2Proof.Machine.execFcmpGe p a b u c s
  | .fcmpUn p a b u c => Sys2Proof.Machine.execFcmpUn p a b u c s
  | .fcmpOrd p a b u c => Sys2Proof.Machine.execFcmpOrd p a b u c s
  | .pand p a b => Sys2Proof.Machine.execPand p a b s
  | .por p a b => Sys2Proof.Machine.execPor p a b s
  | .pxor p a b => Sys2Proof.Machine.execPxor p a b s
  | .pandn p a b => Sys2Proof.Machine.execPandn p a b s
  | .pnot p a => Sys2Proof.Machine.execPnot p a s
  | .pmov p a => Sys2Proof.Machine.execPmov p a s
  | .sel c n d a b u => Sys2Proof.Machine.execSel c n d a b u s
  | .mov d a => Sys2Proof.Machine.execMov d a s
  | .movs d a => Sys2Proof.Machine.execMovs d a s
  | .movix d b => Sys2Proof.Machine.execMovix d b s
  | .movixW a b => Sys2Proof.Machine.execMovixW a b s
  | .lane d => Sys2Proof.Machine.execLane d s
  | .lword d => Sys2Proof.Machine.execLword d s
  | .movsv d a => Sys2Proof.Machine.execMovsv d a s
  | .lim c d lit => Sys2Proof.Machine.execLim c d lit s
  | .sadd d a b => Sys2Proof.Machine.execSadd d a b s
  | .ssub d a b => Sys2Proof.Machine.execSsub d a b s
  | .smul d a b => Sys2Proof.Machine.execSmul d a b s
  | .sand d a b => Sys2Proof.Machine.execSand d a b s
  | .sor d a b => Sys2Proof.Machine.execSor d a b s
  | .sxor d a b => Sys2Proof.Machine.execSxor d a b s
  | .sshl d a b => Sys2Proof.Machine.execSshl d a b s
  | .sshr d a b => Sys2Proof.Machine.execSshr d a b s
  | .ssra d a b => Sys2Proof.Machine.execSsra d a b s
  | .smin d a b => Sys2Proof.Machine.execSmin d a b s
  | .smax d a b => Sys2Proof.Machine.execSmax d a b s
  | .sminu d a b => Sys2Proof.Machine.execSminu d a b s
  | .smaxu d a b => Sys2Proof.Machine.execSmaxu d a b s
  | .saddi d a imm => Sys2Proof.Machine.execSaddi d a imm s
  | .scmpEq d a b => Sys2Proof.Machine.execScmpEq d a b s
  | .scmpNe d a b => Sys2Proof.Machine.execScmpNe d a b s
  | .scmpLt d a b => Sys2Proof.Machine.execScmpLt d a b s
  | .scmpLe d a b => Sys2Proof.Machine.execScmpLe d a b s
  | .scmpGt d a b => Sys2Proof.Machine.execScmpGt d a b s
  | .scmpGe d a b => Sys2Proof.Machine.execScmpGe d a b s
  | .scmpLtu d a b => Sys2Proof.Machine.execScmpLtu d a b s
  | .scmpLeu d a b => Sys2Proof.Machine.execScmpLeu d a b s
  | .scmpGtu d a b => Sys2Proof.Machine.execScmpGtu d a b s
  | .scmpGeu d a b => Sys2Proof.Machine.execScmpGeu d a b s
  | .shflIdx d a b u => Sys2Proof.Machine.execShflIdx d a b u s
  | .shflUp d a b u => Sys2Proof.Machine.execShflUp d a b u s
  | .shflDn d a b u => Sys2Proof.Machine.execShflDn d a b u s
  | .shflXor d a b u => Sys2Proof.Machine.execShflXor d a b u s
  | .voteAny d a => Sys2Proof.Machine.execVoteAny d a s
  | .voteAll d a => Sys2Proof.Machine.execVoteAll d a s
  | .ballot d a => Sys2Proof.Machine.execBallot d a s
  | .redadd d a => Sys2Proof.Machine.execRedadd d a s
  | .redmax d a => Sys2Proof.Machine.execRedmax d a s
  | .ldG z d a f w => Sys2Proof.Machine.execLdG z d a f w s
  | .stG z d a f w => Sys2Proof.Machine.execStG z d a f w s
  | .stGx z d a f w => Sys2Proof.Machine.execStGx z d a f w s
  | .ldA z d a c w => Sys2Proof.Machine.execLdA z d a c w s
  | .stL z d a c w o => Sys2Proof.Machine.execStL z d a c w o s
  | .atAdd d a c w o => Sys2Proof.Machine.execAtAdd d a c w o s
  | .atAnd d a c w o => Sys2Proof.Machine.execAtAnd d a c w o s
  | .atOr d a c w o => Sys2Proof.Machine.execAtOr d a c w o s
  | .atXor d a c w o => Sys2Proof.Machine.execAtXor d a c w o s
  | .atMin d a c w o => Sys2Proof.Machine.execAtMin d a c w o s
  | .atMax d a c w o => Sys2Proof.Machine.execAtMax d a c w o s
  | .atMinu d a c w o => Sys2Proof.Machine.execAtMinu d a c w o s
  | .atMaxu d a c w o => Sys2Proof.Machine.execAtMaxu d a c w o s
  | .atXchg d a c w o => Sys2Proof.Machine.execAtXchg d a c w o s
  | .atCas d a c w o => Sys2Proof.Machine.execAtCas d a c w o s
  | .atFadd d a c w o => Sys2Proof.Machine.execAtFadd d a c w o s
  | .vatF32 d a c w o => Sys2Proof.Machine.execVatF32 d a c w o s
  | .vatBf16 d a c w o => Sys2Proof.Machine.execVatBf16 d a c w o s
  | .ldS z d a f w => Sys2Proof.Machine.execLdS z d a f w s
  | .stS z d a f w => Sys2Proof.Machine.execStS z d a f w s
  | .ldSq z d a f w => Sys2Proof.Machine.execLdSq z d a f w s
  | .stSq z d a f w => Sys2Proof.Machine.execStSq z d a f w s
  | .tlook d a => Sys2Proof.Machine.execTlook d a s
  | .tins d a b u => Sys2Proof.Machine.execTins d a b u s
  | .tinv d a => Sys2Proof.Machine.execTinv d a s
  | .tflush => Sys2Proof.Machine.execTflush s
  | .ldU z d a f w => Sys2Proof.Machine.execLdU z d a f w s
  | .stU z d a f w => Sys2Proof.Machine.execStU z d a f w s
  | .annc d a w => Sys2Proof.Machine.execAnnc d a w s
  | .wdrw d a w => Sys2Proof.Machine.execWdrw d a w s
  | .rlook d a h w => Sys2Proof.Machine.execRlook d a h w s
  | .hmove d a w => Sys2Proof.Machine.execHmove d a w s
  | .rstat d t w => Sys2Proof.Machine.execRstat d t w s
  | .qpush q r u w => Sys2Proof.Machine.execQpush q r u w s
  | .qpop q d w => Sys2Proof.Machine.execQpop q d w s
  | .qtry q d p => Sys2Proof.Machine.execQtry q d p s
  | .qfence q m => Sys2Proof.Machine.execQfence q m s
  | .qstat q d => Sys2Proof.Machine.execQstat q d s
  | .cpyG2s q r w c => Sys2Proof.Machine.execCpyG2s q r w c s
  | .cpyS2g q r w c => Sys2Proof.Machine.execCpyS2g q r w c s
  | .cpyG2g q r w k => Sys2Proof.Machine.execCpyG2g q r w k s
  | .cpyPln q r w p m c => Sys2Proof.Machine.execCpyPln q r w p m c s
  | .cpyS2sq q r w c => Sys2Proof.Machine.execCpyS2sq q r w c s
  | .cyc d => Sys2Proof.Machine.execCyc d s
  | .sleepc a => Sys2Proof.Machine.execSleepc a s
  | .mma d a b t => Sys2Proof.Machine.execMma d a b t s
  | .mmaZ d a b t => Sys2Proof.Machine.execMmaZ d a b t s
  | .mmaB d a t => Sys2Proof.Machine.execMmaB d a t s
  | .mmaBz d a t => Sys2Proof.Machine.execMmaBz d a t s
  | .amov d n p => Sys2Proof.Machine.execAmov d n p s
  | .awr d n p => Sys2Proof.Machine.execAwr d n p s
  | .aclr n => Sys2Proof.Machine.execAclr n s
  | .aovf d n c => Sys2Proof.Machine.execAovf d n c s
  | .plnw d a p m => Sys2Proof.Machine.execPlnw d a p m s
  | .plnr d a p m => Sys2Proof.Machine.execPlnr d a p m s
  | .plnrS d a p m => Sys2Proof.Machine.execPlnrS d a p m s
  | .tset t a => Sys2Proof.Machine.execTset t a s
  | .tget d t => Sys2Proof.Machine.execTget d t s
  | .barArv c n l => Sys2Proof.Machine.execBarArv c n l s
  | .barWait n l => Sys2Proof.Machine.execBarWait n l s
  | .barSync c n l => Sys2Proof.Machine.execBarSync c n l s
  | .barTo t c n l => Sys2Proof.Machine.execBarTo t c n l s
  | .pbInit e a => Sys2Proof.Machine.execPbInit e a s
  | .pbArv a => Sys2Proof.Machine.execPbArv a s
  | .pbExp n a => Sys2Proof.Machine.execPbExp n a s
  | .pbWait a p => Sys2Proof.Machine.execPbWait a p s
  | .pbTest a k p => Sys2Proof.Machine.execPbTest a k p s
  | .fenceAcq l => Sys2Proof.Machine.execFenceAcq l s
  | .fenceRel l => Sys2Proof.Machine.execFenceRel l s
  | .fenceAr l => Sys2Proof.Machine.execFenceAr l s
  | .fenceQ l => Sys2Proof.Machine.execFenceQ l s
  | .br p n o => Sys2Proof.Machine.execBr p n o s
  | .bra o => Sys2Proof.Machine.execBra o s
  | .call p n o => Sys2Proof.Machine.execCall p n o s
  | .exit p n => Sys2Proof.Machine.execExit p n s
  | .bz c r o => Sys2Proof.Machine.execBz c r o s
  | .bnz c r o => Sys2Proof.Machine.execBnz c r o s
  | .bpend c r o => Sys2Proof.Machine.execBpend c r o s
  | .bpendN c r o => Sys2Proof.Machine.execBpendN c r o s
  | .jmps r o => Sys2Proof.Machine.execJmps r o s
  | .calls r o => Sys2Proof.Machine.execCalls r o s
  | .ret c r o => Sys2Proof.Machine.execRet c r o s
  | .loop l a o => Sys2Proof.Machine.execLoop l a o s
  | .frmode m => Sys2Proof.Machine.execFrmode m s
  | .fryld => Sys2Proof.Machine.execFryld s
  | .join a => Sys2Proof.Machine.execJoin a s
  | .mact d k => Sys2Proof.Machine.execMact d k s
  | .deferOn => Sys2Proof.Machine.execDeferOn s
  | .deferOff => Sys2Proof.Machine.execDeferOff s
  | .deferStrict m => Sys2Proof.Machine.execDeferStrict m s
  | .rdrain => Sys2Proof.Machine.execRdrain s
  | .rfstat d k => Sys2Proof.Machine.execRfstat d k s
  | .acqx c n => Sys2Proof.Machine.execAcqx c n s
  | .relx c n => Sys2Proof.Machine.execRelx c n s
  | .allq d c => Sys2Proof.Machine.execAllq d c s
  | .ptst d r k l => Sys2Proof.Machine.execPtst d r k l s
  | .pchk r l => Sys2Proof.Machine.execPchk r l s
  | .pchks a n => Sys2Proof.Machine.execPchks a n s
  | .post d a => Sys2Proof.Machine.execPost d a s
  | .done a => Sys2Proof.Machine.execDone a s
  | .ctok d => Sys2Proof.Machine.execCtok d s
  | .tid d => Sys2Proof.Machine.execTid d s
  | .trap n => Sys2Proof.Machine.execTrap n s
  | .tresume a => Sys2Proof.Machine.execTresume a s
  | .tkill a => Sys2Proof.Machine.execTkill a s
  | .trelaunch a => Sys2Proof.Machine.execTrelaunch a s
  | .trecord d a k => Sys2Proof.Machine.execTrecord d a k s
  | .rdsys d n => Sys2Proof.Machine.execRdsys d n s
  | .wrsys a n => Sys2Proof.Machine.execWrsys a n s
  | .smp a t => Sys2Proof.Machine.execSmp a t s
  | .netPut q r u w => Sys2Proof.Machine.execNetPut q r u w s
  | .netGet q r u w => Sys2Proof.Machine.execNetGet q r u w s
  | .netAt q r u w o => Sys2Proof.Machine.execNetAt q r u w o s
  | .netFlush q w => Sys2Proof.Machine.execNetFlush q w s
  | .landing id => Sys2Proof.Machine.execLanding id s
  | .replyReceive id => Sys2Proof.Machine.execReplyReceive id s
  | .residualEntryRun team => Sys2Proof.Machine.execResidualEntryRun team s
  | .arrayPass core => Sys2Proof.Machine.execArrayPass core s
  | .copyStart engine queue => Sys2Proof.Machine.execCopyStart engine queue s
  | .copyComplete engine queue => Sys2Proof.Machine.execCopyComplete engine queue s
  | .q8Command die => Sys2Proof.Machine.execQ8Command die s
  | .routeCommandStart die => Sys2Proof.Machine.execRouteCommandStart die s
  | .routeRound node => Sys2Proof.Machine.execRouteRound node s
  | .announcementReceive id => Sys2Proof.Machine.execAnnouncementReceive id s
  | .routeAckReceive id => Sys2Proof.Machine.execRouteAckReceive id s
  | .requestArrive id xferFails cell => Sys2Proof.Machine.execRequestArrive id xferFails cell s
  | .nakReceive id => Sys2Proof.Machine.execNakReceive id s
  | .ofReleasePerform id => Sys2Proof.Machine.execOfReleasePerform id s
  | .voidNoticeReceive id => Sys2Proof.Machine.execVoidNoticeReceive id s
  | .mirrorPrepareReceive id => Sys2Proof.Machine.execMirrorPrepareReceive id s
  | .prepareAckReceive id => Sys2Proof.Machine.execPrepareAckReceive id s
  | .mirrorCommitReceive id => Sys2Proof.Machine.execMirrorCommitReceive id s
  | .flitReceive link toB seq crcOk => Sys2Proof.Machine.execFlitReceive link toB seq crcOk s
  | .replayTimeout link toB => Sys2Proof.Machine.execReplayTimeout link toB s
  | .flowControlSignal link toB cls off => Sys2Proof.Machine.execFlowControlSignal link toB cls off s
  | .linkLostTimeout nbr pier => Sys2Proof.Machine.execLinkLostTimeout nbr pier s
  | .linkLostNotice id => Sys2Proof.Machine.execLinkLostNotice id s
  | .silenceNoticeReceive id => Sys2Proof.Machine.execSilenceNoticeReceive id s
  | .windowRequestArrive id => Sys2Proof.Machine.execWindowRequestArrive id s
  | .hostRingDoorbell ring tail => Sys2Proof.Machine.execHostRingDoorbell ring tail s
  | .hostRingEntry ring => Sys2Proof.Machine.execHostRingEntry ring s
  | .mgmtRequestTail tail => Sys2Proof.Machine.execMgmtRequestTail tail s
  | .mgmtResponseHead head => Sys2Proof.Machine.execMgmtResponseHead head s
  | .bar0IgnoredWrite off value => Sys2Proof.Machine.execBar0IgnoredWrite off value s
  | .getVersion sess => Sys2Proof.Machine.execGetVersion sess s
  | .getCapabilities sess => Sys2Proof.Machine.execGetCapabilities sess s
  | .negotiateAlgorithms sess => Sys2Proof.Machine.execNegotiateAlgorithms sess s
  | .getDigests sess => Sys2Proof.Machine.execGetDigests sess s
  | .getCertificate sess => Sys2Proof.Machine.execGetCertificate sess s
  | .challenge sess => Sys2Proof.Machine.execChallenge sess s
  | .getMeasurements sess => Sys2Proof.Machine.execGetMeasurements sess s
  | .keyExchange sess => Sys2Proof.Machine.execKeyExchange sess s
  | .finish sess => Sys2Proof.Machine.execFinish sess s
  | .keyUpdate sess => Sys2Proof.Machine.execKeyUpdate sess s
  | .heartbeat sess => Sys2Proof.Machine.execHeartbeat sess s
  | .endSession sess => Sys2Proof.Machine.execEndSession sess s
  | .spdmUnsupportedRequest sess => Sys2Proof.Machine.execSpdmUnsupportedRequest sess s
  | .lockInterface sess world => Sys2Proof.Machine.execLockInterface sess world s
  | .startInterface sess world => Sys2Proof.Machine.execStartInterface sess world s
  | .stopInterface sess world nonce => Sys2Proof.Machine.execStopInterface sess world nonce s
  | .getDeviceInterfaceReport sess world => Sys2Proof.Machine.execGetDeviceInterfaceReport sess world s
  | .getDeviceInterfaceState sess world => Sys2Proof.Machine.execGetDeviceInterfaceState sess world s
  | .worldCreate sess world => Sys2Proof.Machine.execWorldCreate sess world s
  | .worldKey sess world xts tagKey => Sys2Proof.Machine.execWorldKey sess world xts tagKey s
  | .worldDestroy sess world => Sys2Proof.Machine.execWorldDestroy sess world s
  | .rangeAssign sess holder base len world => Sys2Proof.Machine.execRangeAssign sess holder base len world s
  | .contextSet sess world asn root => Sys2Proof.Machine.execContextSet sess world asn root s
  | .contextInval sess world asn lo hi => Sys2Proof.Machine.execContextInval sess world asn lo hi s
  | .ringSet sess ring base entries world asn msixLo msixHi => Sys2Proof.Machine.execRingSet sess ring base entries world asn msixLo msixHi s
  | .sliceSet sess world dcc => Sys2Proof.Machine.execSliceSet sess world dcc s
  | .handlerSet sess world card trapBase trapSize saveBase saveSize => Sys2Proof.Machine.execHandlerSet sess world card trapBase trapSize saveBase saveSize s
  | .watchArm sess pier entry world base len mode => Sys2Proof.Machine.execWatchArm sess pier entry world base len mode s
  | .watchDisarm sess pier entry => Sys2Proof.Machine.execWatchDisarm sess pier entry s
  | .logExport sess pier count => Sys2Proof.Machine.execLogExport sess pier count s
  | .mrExtend sess mr digest => Sys2Proof.Machine.execMrExtend sess mr digest s
  | .restartFull sess => Sys2Proof.Machine.execRestartFull sess s
  | .netTableSet sess world table records => Sys2Proof.Machine.execNetTableSet sess world table records s
  | .netConnSet sess world conn port asn peer udp peerConn winBase winSize => Sys2Proof.Machine.execNetConnSet sess world conn port asn peer udp peerConn winBase winSize s
  | .netKey sess conn key salt => Sys2Proof.Machine.execNetKey sess conn key salt s
  | .netConnClose sess conn => Sys2Proof.Machine.execNetConnClose sess conn s
  | .sampleSet sess world dies logN ring entries period card => Sys2Proof.Machine.execSampleSet sess world dies logN ring entries period card s
  | .sampleSetActivate die world => Sys2Proof.Machine.execSampleSetActivate die world s
  | .errlogExport sess unit log count => Sys2Proof.Machine.execErrlogExport sess unit log count s
  | .dispatch die => Sys2Proof.Machine.execDispatch die s
  | .crewRetire crew => Sys2Proof.Machine.execCrewRetire crew s
  | .cardComplete tid => Sys2Proof.Machine.execCardComplete tid s
  | .sliceExpiry die => Sys2Proof.Machine.execSliceExpiry die s
  | .drainLimitExpiry crew => Sys2Proof.Machine.execDrainLimitExpiry crew s
  | .crewSave crew => Sys2Proof.Machine.execCrewSave crew s
  | .trapRecordWrite team => Sys2Proof.Machine.execTrapRecordWrite team s
  | .teamResume team => Sys2Proof.Machine.execTeamResume team s
  | .relaunchHoldRelease die => Sys2Proof.Machine.execRelaunchHoldRelease die s
  | .dieReset die => Sys2Proof.Machine.execDieReset die s
  | .joinTimeout team => Sys2Proof.Machine.execJoinTimeout team s
  | .barrierTimeout team => Sys2Proof.Machine.execBarrierTimeout team s
  | .barrierRelease bar => Sys2Proof.Machine.execBarrierRelease bar s
  | .phaseBarrierWake team => Sys2Proof.Machine.execPhaseBarrierWake team s
  | .sleepWake team => Sys2Proof.Machine.execSleepWake team s
  | .promiseMissed team => Sys2Proof.Machine.execPromiseMissed team s
  | .allotmentGrant crew => Sys2Proof.Machine.execAllotmentGrant crew s
  | .scrubVisit place wrongBits onRead => Sys2Proof.Machine.execScrubVisit place wrongBits onRead s
  | .sampleTick core portB => Sys2Proof.Machine.execSampleTick core portB s
  | .sampleTimerExpiry core => Sys2Proof.Machine.execSampleTimerExpiry core s
  | .stopctlArm team => Sys2Proof.Machine.execStopctlArm team s
  | .stopReached team => Sys2Proof.Machine.execStopReached team s
  | .stopTrap team => Sys2Proof.Machine.execStopTrap team s
  | .bootStart => Sys2Proof.Machine.execBootStart s
  | .startWatchdogExpiry => Sys2Proof.Machine.execStartWatchdogExpiry s
  | .dieEnterService die => Sys2Proof.Machine.execDieEnterService die s
  | .calibrationComplete => Sys2Proof.Machine.execCalibrationComplete s
  | .bringUpEnd => Sys2Proof.Machine.execBringUpEnd s
  | .datagramReceive d => Sys2Proof.Machine.execDatagramReceive d s
  | .connRecordFetch conn => Sys2Proof.Machine.execConnRecordFetch conn s
  | .netRetransmitTimeout conn => Sys2Proof.Machine.execNetRetransmitTimeout conn s
  | .rnrRetransmit conn => Sys2Proof.Machine.execRnrRetransmit conn s
  | .rateUpdate conn marked total => Sys2Proof.Machine.execRateUpdate conn marked total s
  | .powerLoss counted blown weak => Sys2Proof.Machine.execPowerLoss counted blown weak s
  | .dramTrainingFailed pier => Sys2Proof.Machine.execDramTrainingFailed pier s
  | .dieCalibrationFailed die => Sys2Proof.Machine.execDieCalibrationFailed die s
  | .pierReset pier => Sys2Proof.Machine.execPierReset pier s

end Sys2Proof.Machine
end

