-- ==== Sys2Proof/Machine/Sched.lean ====
section
/-! DEFINITION. Around one step of the package: the passing of the counts (spec/01 R22), what ends a step, and the events that wait to happen of themselves.
Which turn comes when is timing, which the model leaves open (notes/assumptions/1.md). -/

namespace Sys2Proof.Machine

/-! ## The counts (R22) -/

/-- Every die's, pier's and abutment's count advances by n. There is no package-wide time base, and how the counts of different dies run
against each other the spec leaves open: that one step advances all of them alike is the model's choice (DESIGN CHOICE,
notes/assumptions/55.md). -/
def State.lapse (s : State) (n : Nat) : State :=
  let s := (List.range 8).foldl (fun s d => s.modDie d (fun x => { x with dcc := x.dcc + BitVec.ofNat 64 n })) s
  let s := (List.range 8).foldl (fun s p => s.modPier p (fun x => { x with dcc := x.dcc + BitVec.ofNat 64 n })) s
  { s with abutDccs := [0, 1].foldl (fun m w => tset 0 m w (tget 0 m w + BitVec.ofNat 64 n)) s.abutDccs }

/-- n DCC pass (R22); deadlines that lie before now have ended at theirs. -/
def State.elapse (s : State) (n : Nat) : State := (s.lapse n).expire 1

/-! ## The end of a step -/

/-- What every step ends with: failing lines and violations act (R301, R305), the network engine goes on (R326), deadlines
that are now end (R65, R190, R270), phase barriers that have changed are looked at (R194), and a crew whose teams all park for an allotment
is found (R77). -/
def State.wrapUp (s : State) : State :=
  let s := (s.settle.netAdvance.expire 0).wakePhases
  match s.current with
  | some (t, _) => s.acqxLocked t.crew
  | none => s

/-! ## Events that wait to happen -/

/-- Of the fabric: packets, replies, landings, forwards, windows and notices on their way (R223 to R229, R208, R156, R360). -/
noncomputable def State.fabricEvents (s : State) : List Instr :=
  s.lands.map (fun x => .landing x.id)
  ++ s.replies.map (fun r => if r.ans.isNak then .nakReceive r.id else .replyReceive r.id)
  ++ s.pkts.map (fun p => if p.held then .ofReleasePerform p.id else .requestArrive p.id 0 0)
  ++ s.prepares.map (fun x => .mirrorPrepareReceive x.id) ++ s.prepAcks.map (fun x => .prepareAckReceive x.id)
  ++ s.commits.map (fun x => .mirrorCommitReceive x.id) ++ s.wins.map (fun x => .windowRequestArrive x.id)
  ++ s.notices.map (fun n => match n.2 with
    | .void _ _ _ _ => .voidNoticeReceive n.1
    | .silence _ _ => .silenceNoticeReceive n.1
    | .linkLost _ _ _ => .linkLostNotice n.1)

/-- Route rounds that are due (R203). -/
noncomputable def State.roundEvents (s : State) : List Instr :=
  ((List.range 16).filter (fun n => s.nodeUp n && !(8 ≤ n && (s.pier (n - 8)).fenced) && !(s.nodeDcc n).ult (s.node n).round)).map
    (fun n => .routeRound n)

/-- Of the routes: copies, acknowledgements and commands (R203, R204, R216). -/
noncomputable def State.routeEvents (s : State) : List Instr :=
  s.routeMsgs.map (fun x => .announcementReceive x.id) ++ s.routeAcks.map (fun x => .routeAckReceive x.id)
  ++ ((List.range 8).filter (fun d => !(s.die d).routes.isEmpty)).map (fun d => .routeCommandStart d)

/-- Of the engines: residual entries, arrays, copies, the program queue (R136, R162, R185, R280). -/
noncomputable def State.engineEvents (s : State) : List Instr :=
  (s.teams.filter (fun e => match e.2 with | some t => !t.fifo.isEmpty | none => false)).map (fun e => .residualEntryRun e.1)
  ++ (s.cores.filter (fun c => !c.2.array.isEmpty)).map (fun c => .arrayPass c.1)
  ++ (s.copies.map (fun c => if c.started then .copyComplete c.engine c.queue else .copyStart c.engine c.queue))
  ++ ((List.range 8).filter (fun d => !(s.die d).q8.isEmpty)).map (fun d => .q8Command d)

/-- Of links: replays that time out, links without a flit (R231, R243). -/
noncomputable def State.linkEvents (s : State) : List Instr :=
  s.links.flatMap (fun l => (if l.2.ab.replaying && !l.2.failed then [.replayTimeout l.1 true] else []) ++ (if l.2.ba.replaying && !l.2.failed then [.replayTimeout l.1 false] else []))
  ++ ((List.range 8).filter (fun n => !(s.pier n).silent)).flatMap (fun n => ((pierNbrs n).filter (fun k =>
      !(s.pier n).lost.contains (n, k) && ((s.link (pierLink n k)).failed || decide (4 ≤ ((s.link (pierLink n k)).toward (pierIsA k n)).quiet)))).map
    (fun k => .linkLostTimeout n k))

/-- Of the task units: dispatch, slices, retirement, completion, saves, traps and relaunches (R281 to R294, R354). -/
noncomputable def State.taskEvents (s : State) : List Instr :=
  ((List.range 8).filter (fun d => s.cards.any (fun c => c.die == d && c.inPool) || !(s.die d).relaunch.isEmpty || !(s.die d).savedOrder.isEmpty)).map
    (fun d => .dispatch d)
  ++ s.crews.flatMap (fun e => match e.2 with
    | none => []
    | some k => match k.status with
      | .retiring => [.crewRetire e.1]
      | .draining => [.drainLimitExpiry e.1]
      | .saving => [.crewSave e.1]
      | _ => [])
  ++ (s.cards.filter s.cardOver).map (fun c => .cardComplete c.tid.toNat)
  ++ ((List.range 8).filter (fun d => (s.die d).sliceLen != 0 && !(s.die d).dcc.ult ((s.die d).sliceStart + (s.die d).sliceLen))).map (fun d => .sliceExpiry d)
  ++ s.teams.flatMap (fun e => match e.2 with
    | some t => if t.status != TeamSt.suspended then [] else if t.trap.isNone then [.teamResume e.1] else if t.handle == 0 then [.trapRecordWrite e.1] else []
    | none => [])
  ++ ((List.range 8).filter (fun d => !(s.die d).holds.isEmpty)).map (fun d => .relaunchHoldRelease d)

/-- Of teams that hold or stop: sleeps, joins, barriers, phases, allotments, stops (R190, R65, R270, R194, R76, R336). -/
noncomputable def State.holdEvents (s : State) : List Instr :=
  s.teams.flatMap (fun e => match e.2 with
    | none => []
    | some t =>
      (match t.hold with
        | .sleep _ => [.sleepWake e.1, .promiseMissed e.1]
        | .phase _ _ => [.phaseBarrierWake e.1]
        | .barrier _ (some _) => [.barrierTimeout e.1]
        | .acqx _ _ _ => [.allotmentGrant t.crew]
        | _ => [])
      ++ (if t.joinDeadline.isSome then [.joinTimeout e.1] else [])
      ++ (if t.stopRoom == some 0 then [if t.stop.mode then .stopTrap e.1 else .stopReached e.1] else []))
  ++ (s.bars.filter (fun b => decide (b.2.delivered < b.2.phase))).map (fun b => .barrierRelease b.1)

/-- Of the host port, the management core, sampling and the network (R278, R305, R296, R328 to R331, R319). -/
noncomputable def State.outerEvents (s : State) : List Instr :=
  (s.host.rings.filter (fun r => r.2.head != r.2.tail)).map (fun r => .hostRingEntry r.1)
  ++ s.worlds.filterMap (fun w => w.2.stopping.map (fun x => .stopInterface x.1 w.1 x.2))
  ++ ((List.range 8).filter (fun d => (s.die d).resetting)).map (fun d => .dieReset d)
  ++ ((List.range 8).filter (fun p => (s.pier p).resetting)).map (fun p => .pierReset p)
  ++ (s.samplings.filter (fun x => x.2.wanted.isSome)).map (fun x => .sampleSetActivate (x.1 / 16) (x.1 % 16))
  ++ (s.samplings.filter (fun x => x.2.logN != 0)).map (fun x => .sampleTick (144 * (x.1 / 16) + s.phase / 4 % 144) (s.phase / 2 % 2 == 1))
  ++ (List.range 8).flatMap (fun d => if (s.sampling d (s.die d).world).period = 0 then [] else
      ((List.range 144).filter (fun c => !(s.die d).dcc.ult (s.core (coreKey d c)).timerAt)).map (fun c => .sampleTimerExpiry (coreKey d c)))
  ++ (s.net.parked.map (fun d => .connRecordFetch d.conn.toNat))
  ++ s.net.conns.flatMap (fun c => match c.2 with
      | some x =>
        (if x.unackd.any (fun p => p.rnrDue (s.portDcc x)) then [.rnrRetransmit c.1] else [])
        ++ (if x.timeoutDue (s.portDcc x) then [.netRetransmitTimeout c.1] else [])
        ++ (if x.rateDue (s.portDcc x) then [.rateUpdate c.1 x.backMarked x.backTotal] else [])
      | none => [])

/-- The events that may happen of themselves. -/
noncomputable def State.events (s : State) : List Instr :=
  s.fabricEvents ++ s.routeEvents ++ s.engineEvents ++ s.linkEvents ++ s.taskEvents ++ s.holdEvents ++ s.outerEvents

/-- The event whose turn it is: a route round at its own DCC, so that keepalives come in time (R243); else they take turns. -/
noncomputable def State.nextEvent (s : State) : Option Instr :=
  match s.roundEvents with
  | i :: _ => some i
  | [] =>
    let xs := s.events
    xs[s.phase / 2 % xs.length]?

/-! ## Placing an instruction to be fetched -/

/-- The crew and the team that the placed instruction runs in: one team of one mask word on core 0 of C0, in world 0. -/
def placedCrew (uid : Nat) : Crew :=
  { tid := 1, index := 0, gang := 0, die := 0, core := 0, ticket := 1, status := .resident, world := 0, asn := 0, teams := [uid], spk := 1 }

def placedTeam (cid : Nat) (pc : VA) (c : Option Clause) : Team :=
  { crew := cid, num := 0, role := 0, width := 1, status := .running, pc := pc, clause := c, regionVA := pc
    vN := 64, aN := 16, rN := 8, vBase := 64, aBase := 16, rBase := 8 }

/-- A word whose first byte is a header's MAGIC. -/
def isHeaderWord (w : Nat) : Bool := w / 2 ^ 24 % 256 == 0xB7

/-- Memory that maps VA 0 to 1 GiB onto the first GiB of P0, readable, writable and executable, with a word at VA 0x4000: root table at
0x1000, its first entry pointing to a table at 0x2000, whose first entry is the leaf (R197). -/
def State.placeHeader (s : State) (w : Nat) : State :=
  let at_ := fun (a n v : Nat) => (List.range n).zip (leBytes n v) |>.map (fun b => (a + b.1, b.2))
  let s := s.putBytes 8 (at_ 0x1000 8 0x2001)
  let s := s.putBytes 8 (at_ 0x2000 8 0xF)
  let s := s.putBytes 8 (at_ 0x4000 4 (w % 2 ^ 32))
  s.modWorld 0 (fun x => { x with ctxs := [(0, 0x1000)] })

/-- The clause that a placed word stands in: every lane passes its guard. -/
def placedClause (w : Nat) : Clause :=
  { hdrVA := 0x4000, hdr := 0xB7100002, words := [BitVec.ofNat 32 w, BitVec.ofNat 32 (w / 2 ^ 32)], guard := [0xFFFFFFFF], issued := true }

end Sys2Proof.Machine
end

