-- ==== Sys2Proof/Machine/Step.lean ====
section
/-! DEFINITION. One step of the package. A turn the outside has chosen (the agenda) comes first; else teams and events take turns. A
step lets the counts pass, and then a team issues the header or word it fetches, or an event happens. -/

namespace Sys2Proof.Machine

/-- What a meaning leaves, with the end of the step. -/
def finished : Host.Outcome State Fault Refusal → Host.Outcome State Fault Refusal
  | .next s => .next s.wrapUp
  | .fault f => .fault f
  | .refused r => .refused r

/-- An event happens. -/
def happen (i : Instr) (s : State) : Host.Outcome State Fault Refusal := finished (exec i s)

/-- A team's turn on its port. -/
noncomputable def turn (team : Nat) (s : State) : Host.Outcome State Fault Refusal :=
  match State.fetchTurn { s with cur := team } with
  | (s, some i) => happen i s
  | (s, none) => .next s.wrapUp

/-- Whether a turn left its team unable to issue. -/
def stalledAfter (team : Nat) : Host.Outcome State Fault Refusal → Bool
  | .next s => match s.team? team with | some t => t.stall != 0 | none => false
  | _ => false

/-- The first team, in order, that is not stalled; when all are, the last one's turn. -/
noncomputable def tryTeams (s : State) : List Nat → Option (Host.Outcome State Fault Refusal)
  | [] => none
  | t :: rest =>
    let o := turn t s
    if stalledAfter t o then (match tryTeams s rest with | some o' => some o' | none => some o) else some o

/-- The turn of a step with an empty agenda: teams first on even steps, events first on odd ones. -/
noncomputable def ownTurn (s : State) : Host.Outcome State Fault Refusal :=
  let teams := tryTeams s s.candidates
  let event := s.nextEvent.map (fun i => happen i s)
  match (if s.phase % 2 = 0 then (match teams with | some o => some o | none => event)
    else (match event with | some o => some o | none => teams)) with
  | some o => o
  | none => .next s.wrapUp

/-- One step. -/
noncomputable def step (s : State) : Host.Outcome State Fault Refusal :=
  match s.agenda with
  | .event n i :: rest => happen i ({ s with agenda := rest }.elapse (1 + n))
  | .issue n team :: rest => turn team ({ s with agenda := rest }.elapse (1 + n))
  | [] => ownTurn ({ s with phase := s.phase + 1 }.elapse 1)

/-- The state with an instruction where the next step fetches: a header in memory at the PC of a team, any other word in the open clause
of one; its turn is the next on the agenda (notes/assumptions/42.md). -/
def State.withFetchWord (s : State) (nbits w : Nat) : State :=
  let w := w % 2 ^ nbits
  let cid := s.nextId
  let uid := s.nextId + 1
  let s1 := if isHeaderWord w then s.placeHeader w else s
  { s1 with
    nextId := s.nextId + 2
    crews := tset none s1.crews cid (some (placedCrew uid))
    teams := tset none s1.teams uid (some (placedTeam cid 0x4000 (if isHeaderWord w then none else some (placedClause w))))
    agenda := .issue 0 uid :: s1.agenda }

end Sys2Proof.Machine
end

