-- ==== Sys2Proof/Safety.lean ====
section
/-! DEFINITION. The terms the claims use: a sound state, a word that is ready to have its effect, what a word that only writes registers
leaves, and a team that a trap has suspended. -/

namespace Sys2Proof.Machine

/-! ## Sound states -/

/-- Memory is in its one form: addresses rise strictly, and nothing listed equals what an unlisted address reads as; the same of the
poison marks, the written bits and the lines' keys. -/
def Memory.wf (m : Memory) : Bool :=
  wfTable 0 m.cells && wfTable false m.poison && wfTable false m.written && wfTable (0, 0) m.keys && wfTable none m.seeds

/-- A sound state: memory in its one form, and no unit in use that the variant lacks (R1, R2). -/
def State.sound (s : State) : Prop :=
  s.mem.wf = true ∧ (s.capNet = true → s.variant.hasNet = true) ∧ (s.capCxl = true → s.variant.hasCxl = true)

/-! ## A word that is ready -/

/-- The acting lanes of an ordinary word (R25): active, with the guard true. -/
def Team.acting (t : Team) (c : Clause) : Mask := t.active.inter c.guard

/-- Team t of crew k has the turn and stands at a word of its open clause c, some of whose passes may have issued, and nothing keeps it from
going on but its own operands: the team runs, no trap is due (R223), no stop is armed (R335), and nothing captured stands before the word
(R132). -/
structure State.AtWord (s : State) (t : Team) (k : Crew) (c : Clause) : Prop where
  turn : s.current = some (t, k)
  opened : t.clause = some c
  issued : c.issued = true
  running : t.status = .running
  unheld : t.hold = .none
  onTime : t.late = none
  unarmed : t.stop.arm = false
  unstopped : t.stop.mode = false
  uncaptured : c.deferring = false ∨ t.fifo = []

/-- Such a word none of whose passes has issued yet (R49). -/
structure State.Ready (s : State) (t : Team) (k : Crew) (c : Clause) : Prop extends s.AtWord t k c where
  whole : c.issuedTo = 0 ∧ c.opId = 0 ∧ c.flags = 0

/-- What Y of a clause leaves when the clause closes: the port that yields (R25). -/
def Clause.gaveWay (c : Clause) : Option Bool := if c.hdr.getLsbD 13 then some c.onB else none

/-- Operands that have all landed (R78). -/
abbrev Team.landed (t : Team) (rs : List UnitRef) : Prop := ∀ r ∈ rs, t.pend r = false

/-- Destinations that a word may write now: landed, and no outstanding producer carries the generation the write would give (R78, R133). -/
abbrev State.writable (s : State) (t : Team) (rs : List UnitRef) : Prop :=
  ∀ r ∈ rs, r.wired = false → t.pend r = false ∧ t.gen r + 1 ∉ s.carried s.cur t r

/-- Lane L of a vector register, a uniform register, and lane L of the operand that U makes vector or uniform (R32). -/
def Team.lane (t : Team) (r lane : Nat) : Val := (t.unit (.vec r lane)).val
def Team.uniform (t : Team) (r : Nat) : Val := (t.unit (.uni r)).val
def Team.second (t : Team) (r : BitVec 7) (u : BitVec 1) (lane : Nat) : Val := if u = 1 then t.uniform r.toNat else t.lane r.toNat lane

/-- Lane L of a predicate: its value, and whether it is poisoned. -/
def Team.flag (t : Team) (p : BitVec 3) (lane : Nat) : Bool := (t.unit (.pred p.toNat (lane / 32))).preds.1.getLsbD (lane % 32)
def Team.flagBad (t : Team) (p : BitVec 3) (lane : Nat) : Bool := (t.unit (.pred p.toNat (lane / 32))).preds.2.getLsbD (lane % 32)

/-- The units of a vector register over some lanes, of a predicate over the executed words, and of the second operand. -/
def laneUnits (r : BitVec 7) (m : Mask) : List UnitRef := (Mask.lanes m).map (UnitRef.vec r.toNat)
def wordUnits (p : BitVec 3) (m : Mask) : List UnitRef := (Mask.words m).map (UnitRef.pred p.toNat)
def secondUnits (r : BitVec 7) (u : BitVec 1) (m : Mask) : List UnitRef := if u = 1 then [.uni r.toNat] else laneUnits r m

/-- Registers within the vector allotment (R74). -/
abbrev Team.holds (t : Team) (rs : List (BitVec 7)) : Prop := ∀ r ∈ rs, r.toNat < t.vN

/-- The passes a word counts: one for each executed word (R137). -/
def Mask.passes (m : Mask) : Nat := (Mask.words m).length

/-! ## What a word leaves of its team -/

/-- A team's wait counter (R26), and the counters with the one that W names raised; W code 7 names none. -/
def Team.counter (t : Team) (i : Nat) : BitVec 6 := tget 0 t.waits i
def Team.raised (t : Team) (w : BitVec 3) (i : Nat) : BitVec 6 := if w.toNat < 6 ∧ i = w.toNat then t.counter i + 1 else t.counter i

/-- A word has had its effect on its team: `ws` are written (writes to v0, s0 and p0 are discarded, R70), cleared of pending and advanced in
generation (R78); `rs` keep their values, are pending and have advanced (R78); the flags `fl` are raised (R98), the wait counters are
`waits`, and `passes` retired passes are counted (R56, R335). Every other unit is as before, and everything else of the team is as `f` has
it: the team that has moved on. A word that holds its team keeps the hold's stall reason (R330). -/
structure Team.Ran (t f t' : Team) (waits : Nat → BitVec 6) (passes : Nat) (ws : List (UnitRef × UnitVal)) (rs : List UnitRef)
    (fl : Flags) : Prop where
  value : ∀ w ∈ ws, t'.unit w.1 = if w.1.wired then t.unit w.1 else w.2
  settled : ∀ w ∈ ws, w.1.wired = false → t'.pend w.1 = false ∧ t'.gen w.1 = t.gen w.1 + 1
  owed : ∀ r ∈ rs, t'.unit r = t.unit r ∧ (r.wired = false → t'.pend r = true ∧ t'.gen r = t.gen r + 1)
  kept : ∀ r, (∀ w ∈ ws, w.1 ≠ r) → r ∉ rs → t'.unit r = t.unit r ∧ t'.pend r = t.pend r ∧ t'.gen r = t.gen r
  counters : ∀ i, t'.counter i = waits i
  rest : t' = { f with
    v := t'.v, u := t'.u, p := t'.p, t := t'.t, a := t'.a, waits := t'.waits, fpf := t.fpf ||| fl
    passes := t.passes + BitVec.ofNat 64 passes, total := t.total + BitVec.ofNat 64 passes, stall := if f.hold = .none then 0 else f.stall
    lastA := t'.lastA, lastB := t'.lastB }

/-- The port of the clause that the team whose turn it is is in (R49). -/
def State.onB (s : State) : Bool := match s.team? s.cur with | some t => t.onB | none => false

/-- A word of the team whose turn it is has had its effect: its team as `Team.Ran` says, the core's port has counted a cycle for each pass
(R49, R50), and everything else of the package is as `s1` has it. -/
structure State.Did (s s1 s' : State) (t f t' : Team) (k : Crew) (waits : Nat → BitVec 6) (passes : Nat) (ws : List (UnitRef × UnitVal))
    (rs : List UnitRef) (fl : Flags) : Prop where
  after : s'.team? s.cur = some t'
  ran : t.Ran f t' waits passes ws rs fl
  others : ∀ u, u ≠ s.cur → s'.team? u = s1.team? u
  cores : ∀ n, s'.core n = if n = k.coreKey then (s1.core n).counted s.onB passes else s1.core n
  package : s' = { s1 with teams := s'.teams, cores := s'.cores }

/-- The instruction completes: it has this effect. -/
def State.Does (s : State) (i : Instr) (s1 : State) (t f : Team) (k : Crew) (waits : Nat → BitVec 6) (passes : Nat)
    (ws : List (UnitRef × UnitVal)) (rs : List UnitRef) (fl : Flags) : Prop :=
  ∃ s' t', exec i s = .next s' ∧ s.Did s1 s' t f t' k waits passes ws rs fl

/-- The instruction completes, passes n words, and has no effect but these writes and flags. -/
def State.Completes (s : State) (i : Instr) (t : Team) (k : Crew) (n passes : Nat) (ws : List (UnitRef × UnitVal)) (fl : Flags) : Prop :=
  s.Does i s t (t.advance n) k t.counter passes ws [] fl

/-! ## Fetching and translating -/

/-- Nothing has changed but that cores may hold other translations, that piers' watches may have counted, and that free numbers and noted tag
failures may have moved on: what a fetch or a translation leaves (R28, R198, R309). -/
structure State.Looked (s s1 : State) : Prop where
  same : s1 = { s with cores := s1.cores, piers := s1.piers, free := s1.free, tagFails := s1.tagFails }
  cores : ∀ n, s1.core n = { s.core n with tlb := (s1.core n).tlb }
  piers : ∀ n, s1.pier n = { s.pier n with watches := (s1.pier n).watches, watchSeq := (s1.pier n).watchSeq, watchLog := (s1.pier n).watchLog
                                           watchDropped := (s1.pier n).watchDropped }

/-! ## A trap taken -/

/-- A trap has suspended the team (R291): it reports the cause and the header, its registers and its place are as before, no other team
and no byte of memory has changed. The poison holder is reported for causes 0x10 and 0x11 alone (R245). -/
structure State.Trapped (s s' : State) (t t' : Team) (cause : BitVec 8) (hdr : VA) : Prop where
  after : s'.team? s.cur = some t'
  suspended : t'.status = .suspended
  reported : ∃ i, t'.trap = some i ∧ i.cause = cause ∧ i.hdrVA = hdr
    ∧ i.holder = (if cause = 0x10 ∨ cause = 0x11 then i.supplier.getD t.poisonHolder else 0)
  place : t'.pc = t.pc ∧ t'.clause = t.clause ∧ t'.fr = t.fr ∧ t'.regionVA = t.regionVA ∧ t'.region = t.region
  registers : t.defOn = false → t.fifo = [] → ∀ r, t'.unit r = t.unit r ∧ t'.pend r = t.pend r ∧ t'.gen r = t.gen r
  others : ∀ u, u ≠ s.cur → s'.team? u = s.team? u
  memory : s'.mem = s.mem

end Sys2Proof.Machine
end

