-- ==== Sys2Proof/WellFormed.lean ====
section
/-! DEFINITION. Well-formed instructions (spec/02 R29 step 6, R33): every check a word of a decodable encoding can still fail
when it issues, instruction by instruction. Events are not encoded and have no such check. -/

namespace Sys2Proof

open Machine

/-- The first encoding check that an instruction fails, if any. -/
def Instr.check : Instr → Option IllFormed
  | .clauseHeader _ _ _ _ _ _ _ _ => none
  | .add _ _ _ _ => none
  | .sub _ _ _ _ => none
  | .mullo _ _ _ _ => none
  | .mulhi _ _ _ _ => none
  | .mulhu _ _ _ _ => none
  | .and _ _ _ _ => none
  | .or _ _ _ _ => none
  | .xor _ _ _ _ => none
  | .andn _ _ _ _ => none
  | .shl _ _ _ _ => none
  | .shr _ _ _ _ => none
  | .sra _ _ _ _ => none
  | .min _ _ _ _ => none
  | .max _ _ _ _ => none
  | .minu _ _ _ _ => none
  | .maxu _ _ _ _ => none
  | .adds _ _ _ _ => none
  | .subs _ _ _ _ => none
  | .addus _ _ _ _ => none
  | .subus _ _ _ _ => none
  | .rotl _ _ _ _ => none
  | .popc _ _ => none
  | .clz _ _ => none
  | .brev _ _ => none
  | .absd _ _ _ _ => none
  | .avgu _ _ _ _ => none
  | .addi _ _ _ => none
  | .andi _ _ _ => none
  | .ori _ _ _ => none
  | .xori _ _ _ => none
  | .shli _ _ _ => none
  | .shri _ _ _ => none
  | .srai _ _ _ => none
  | .rotli _ _ _ => none
  | .fadd _ _ _ _ => none
  | .fsub _ _ _ _ => none
  | .fmul _ _ _ _ => none
  | .fmin _ _ _ _ => none
  | .fmax _ _ _ _ => none
  | .fma _ _ _ _ => none
  | .fnma _ _ _ _ => none
  | .fcopysign _ _ _ _ => none
  | .hadd2 _ _ _ _ => none
  | .hmul2 _ _ _ _ => none
  | .hfma2 _ _ _ _ => none
  | .badd2 _ _ _ _ => none
  | .bmul2 _ _ _ _ => none
  | .bfma2 _ _ _ _ => none
  | .hmin2 _ _ _ _ => none
  | .hmax2 _ _ _ _ => none
  | .frcp _ _ => none
  | .frsq _ _ => none
  | .fsqrt _ _ => none
  | .fexp2 _ _ => none
  | .flog2 _ _ => none
  | .cvtFI _ _ => none
  | .cvtFU _ _ => none
  | .cvtIF _ _ => none
  | .cvtUF _ _ => none
  | .cvtBfp _ _ _ _ => none
  | .cvtFBf _ _ e => illElement e 1
  | .cvtHp _ _ _ _ => none
  | .cvtFH _ _ e => illElement e 1
  | .cvtE4l _ _ _ _ => none
  | .cvtE4h _ _ _ _ => none
  | .cvtFE4 _ _ e => illElement e 3
  | .cvtE5l _ _ _ _ => none
  | .cvtE5h _ _ _ _ => none
  | .cvtFE5 _ _ e => illElement e 3
  | .dp4S8 _ _ _ _ => none
  | .dp4N8 _ _ _ _ => none
  | .dp4Sn8 _ _ _ _ => none
  | .dp8S4 _ _ _ _ => none
  | .dp8N4 _ _ _ _ => none
  | .dp8Sn4 _ _ _ _ => none
  | .dp4E4 _ _ _ _ => none
  | .dp4E5 _ _ _ _ => none
  | .scacc _ _ _ _ => none
  | .scacc2 _ _ _ _ => none
  | .scmul _ _ _ _ => none
  | .cmpEq _ _ _ _ _ => none
  | .cmpNe _ _ _ _ _ => none
  | .cmpLt _ _ _ _ _ => none
  | .cmpLe _ _ _ _ _ => none
  | .cmpGt _ _ _ _ _ => none
  | .cmpGe _ _ _ _ _ => none
  | .cmpLtu _ _ _ _ _ => none
  | .cmpLeu _ _ _ _ _ => none
  | .cmpGtu _ _ _ _ _ => none
  | .cmpGeu _ _ _ _ _ => none
  | .fcmpEq _ _ _ _ _ => none
  | .fcmpNe _ _ _ _ _ => none
  | .fcmpLt _ _ _ _ _ => none
  | .fcmpLe _ _ _ _ _ => none
  | .fcmpGt _ _ _ _ _ => none
  | .fcmpGe _ _ _ _ _ => none
  | .fcmpUn _ _ _ _ _ => none
  | .fcmpOrd _ _ _ _ _ => none
  | .pand _ _ _ => none
  | .por _ _ _ => none
  | .pxor _ _ _ => none
  | .pandn _ _ _ => none
  | .pnot _ _ => none
  | .pmov _ _ => none
  | .sel _ _ _ _ _ _ => none
  | .mov _ _ => none
  | .movs _ _ => none
  | .movix _ _ => none
  | .movixW _ _ => none
  | .lane _ => none
  | .lword _ => none
  | .movsv _ _ => none
  | .lim _ _ _ => none
  | .sadd _ _ _ => none
  | .ssub _ _ _ => none
  | .smul _ _ _ => none
  | .sand _ _ _ => none
  | .sor _ _ _ => none
  | .sxor _ _ _ => none
  | .sshl _ _ _ => none
  | .sshr _ _ _ => none
  | .ssra _ _ _ => none
  | .smin _ _ _ => none
  | .smax _ _ _ => none
  | .sminu _ _ _ => none
  | .smaxu _ _ _ => none
  | .saddi _ _ _ => none
  | .scmpEq _ _ _ => none
  | .scmpNe _ _ _ => none
  | .scmpLt _ _ _ => none
  | .scmpLe _ _ _ => none
  | .scmpGt _ _ _ => none
  | .scmpGe _ _ _ => none
  | .scmpLtu _ _ _ => none
  | .scmpLeu _ _ _ => none
  | .scmpGtu _ _ _ => none
  | .scmpGeu _ _ _ => none
  | .shflIdx _ _ _ _ => none
  | .shflUp _ _ _ _ => none
  | .shflDn _ _ _ _ => none
  | .shflXor _ _ _ _ => none
  | .voteAny _ _ => none
  | .voteAll _ _ => none
  | .ballot _ _ => none
  | .redadd _ _ => none
  | .redmax _ _ => none
  | .ldG s _ _ _ w => illSize s <|> illWait w
  | .stG s _ _ _ w => illSize s <|> illWait w
  | .stGx s _ _ _ w => illSize s <|> illWait w
  | .ldA s _ _ c w => illSize s <|> illScope c <|> illWait w
  | .stL s _ _ c w _ => illSize s <|> illScope c <|> illWait w
  | .atAdd _ _ c w o => illScope c <|> illWait w <|> illRelaxedScope c o
  | .atAnd _ _ c w o => illScope c <|> illWait w <|> illRelaxedScope c o
  | .atOr _ _ c w o => illScope c <|> illWait w <|> illRelaxedScope c o
  | .atXor _ _ c w o => illScope c <|> illWait w <|> illRelaxedScope c o
  | .atMin _ _ c w o => illScope c <|> illWait w <|> illRelaxedScope c o
  | .atMax _ _ c w o => illScope c <|> illWait w <|> illRelaxedScope c o
  | .atMinu _ _ c w o => illScope c <|> illWait w <|> illRelaxedScope c o
  | .atMaxu _ _ c w o => illScope c <|> illWait w <|> illRelaxedScope c o
  | .atXchg _ _ c w o => illScope c <|> illWait w <|> illRelaxedScope c o
  | .atCas _ _ c w o => illScope c <|> illWait w <|> illRelaxedScope c o
  | .atFadd _ _ c w o => illScope c <|> illWait w <|> illRelaxedScope c o
  | .vatF32 _ _ c w o => illVatOrder o <|> illScope c <|> illWait w <|> illRelaxedScope c o
  | .vatBf16 _ _ c w o => illVatOrder o <|> illScope c <|> illWait w <|> illRelaxedScope c o
  | .ldS s _ _ _ w => illSize s <|> illWait w
  | .stS s _ _ _ w => illSize s <|> illWait w
  | .ldSq s _ _ _ w => illSize s <|> illWait w
  | .stSq s _ _ _ w => illSize s <|> illWait w
  | .tlook _ _ => none
  | .tins _ _ _ _ => none
  | .tinv _ _ => none
  | .tflush => none
  | .ldU _ _ _ _ w => illWait w
  | .stU _ _ _ _ w => illWait w
  | .annc _ _ w => illWait w
  | .wdrw _ _ w => illWait w
  | .rlook _ _ _ w => illWait w
  | .hmove _ _ w => illWait w
  | .rstat _ t w => illTable t <|> illWait w
  | .qpush _ _ _ w => illWait w
  | .qpop _ _ w => illWait w
  | .qtry _ _ _ => none
  | .qfence _ _ => none
  | .qstat _ _ => none
  | .cpyG2s _ _ w _ => illWait w
  | .cpyS2g _ _ w _ => illWait w
  | .cpyG2g _ _ w _ => illWait w
  | .cpyPln _ _ w p m _ => illPlanes p m <|> illWait w
  | .cpyS2sq _ _ w _ => illWait w
  | .cyc _ => none
  | .sleepc _ => none
  | .mma _ _ _ _ => none
  | .mmaZ _ _ _ _ => none
  | .mmaB _ _ _ => none
  | .mmaBz _ _ _ => none
  | .amov _ _ _ => none
  | .awr _ _ _ => none
  | .aclr _ => none
  | .aovf _ _ _ => none
  | .plnw _ _ p m => illPlanes p m
  | .plnr _ _ p m => illPlanes p m
  | .plnrS _ _ p m => illPlanes p m
  | .tset t _ => illTile t
  | .tget _ t => illTile t
  | .netPut _ _ _ w => illWait w
  | .netGet _ _ _ w => illWait w
  | .netAt _ _ _ w _ => illWait w
  | .netFlush _ w => illWait w
  | .barArv _ n l => illBarrier n l
  | .barWait n l => illBarrier n l
  | .barSync _ n l => illBarrier n l
  | .barTo _ _ n l => illBarrier n l
  | .pbInit _ _ => none
  | .pbArv _ => none
  | .pbExp _ _ => none
  | .pbWait _ _ => none
  | .pbTest _ _ _ => none
  | .fenceAcq l => illScope l
  | .fenceRel l => illScope l
  | .fenceAr l => illScope l
  | .fenceQ l => illScope l
  | .br _ _ _ => none
  | .bra _ => none
  | .call _ _ _ => none
  | .exit _ _ => none
  | .bz c _ _ => illClass c 3
  | .bnz c _ _ => illClass c 3
  | .bpend c _ _ => illClass c 5
  | .bpendN c _ _ => illClass c 5
  | .jmps _ _ => none
  | .calls _ _ => none
  | .ret _ _ _ => none
  | .loop _ _ _ => none
  | .frmode m => illMax m 1
  | .fryld => none
  | .join _ => none
  | .mact _ k => illMax k 32
  | .deferOn => none
  | .deferOff => none
  | .deferStrict m => illMax m 1
  | .rdrain => none
  | .rfstat _ k => illMax k 4
  | .acqx c n => illPool c <|> illZero n
  | .relx c n => illPool c <|> illZero n
  | .allq _ c => illPool c
  | .ptst _ _ k l => illClass l 5 <|> illPtstWord k l
  | .pchk _ l => illClass l 5
  | .pchks a n => illSpan a n
  | .post _ _ => none
  | .done _ => none
  | .ctok _ => none
  | .tid _ => none
  | .trap _ => none
  | .tresume _ => none
  | .tkill _ => none
  | .trelaunch _ => none
  | .trecord _ _ _ => none
  | .rdsys _ _ => none
  | .wrsys _ _ => none
  | .smp _ _ => none
  | .landing _ => none
  | .replyReceive _ => none
  | .residualEntryRun _ => none
  | .arrayPass _ => none
  | .copyStart _ _ => none
  | .copyComplete _ _ => none
  | .q8Command _ => none
  | .routeCommandStart _ => none
  | .routeRound _ => none
  | .announcementReceive _ => none
  | .routeAckReceive _ => none
  | .requestArrive _ _ _ => none
  | .nakReceive _ => none
  | .ofReleasePerform _ => none
  | .voidNoticeReceive _ => none
  | .mirrorPrepareReceive _ => none
  | .prepareAckReceive _ => none
  | .mirrorCommitReceive _ => none
  | .flitReceive _ _ _ _ => none
  | .replayTimeout _ _ => none
  | .flowControlSignal _ _ _ _ => none
  | .linkLostTimeout _ _ => none
  | .linkLostNotice _ => none
  | .silenceNoticeReceive _ => none
  | .windowRequestArrive _ => none
  | .hostRingDoorbell _ _ => none
  | .hostRingEntry _ => none
  | .mgmtRequestTail _ => none
  | .mgmtResponseHead _ => none
  | .bar0IgnoredWrite _ _ => none
  | .getVersion _ => none
  | .getCapabilities _ => none
  | .negotiateAlgorithms _ => none
  | .getDigests _ => none
  | .getCertificate _ => none
  | .challenge _ => none
  | .getMeasurements _ => none
  | .keyExchange _ => none
  | .finish _ => none
  | .keyUpdate _ => none
  | .heartbeat _ => none
  | .endSession _ => none
  | .spdmUnsupportedRequest _ => none
  | .lockInterface _ _ => none
  | .startInterface _ _ => none
  | .stopInterface _ _ _ => none
  | .getDeviceInterfaceReport _ _ => none
  | .getDeviceInterfaceState _ _ => none
  | .worldCreate _ _ => none
  | .worldKey _ _ _ _ => none
  | .worldDestroy _ _ => none
  | .rangeAssign _ _ _ _ _ => none
  | .contextSet _ _ _ _ => none
  | .contextInval _ _ _ _ _ => none
  | .ringSet _ _ _ _ _ _ _ _ => none
  | .sliceSet _ _ _ => none
  | .handlerSet _ _ _ _ _ _ _ => none
  | .watchArm _ _ _ _ _ _ _ => none
  | .watchDisarm _ _ _ => none
  | .logExport _ _ _ => none
  | .mrExtend _ _ _ => none
  | .restartFull _ => none
  | .netTableSet _ _ _ _ => none
  | .netConnSet _ _ _ _ _ _ _ _ _ _ => none
  | .netKey _ _ _ _ => none
  | .netConnClose _ _ => none
  | .sampleSet _ _ _ _ _ _ _ _ => none
  | .sampleSetActivate _ _ => none
  | .errlogExport _ _ _ _ => none
  | .dispatch _ => none
  | .crewRetire _ => none
  | .cardComplete _ => none
  | .sliceExpiry _ => none
  | .drainLimitExpiry _ => none
  | .crewSave _ => none
  | .trapRecordWrite _ => none
  | .teamResume _ => none
  | .relaunchHoldRelease _ => none
  | .dieReset _ => none
  | .joinTimeout _ => none
  | .barrierTimeout _ => none
  | .barrierRelease _ => none
  | .phaseBarrierWake _ => none
  | .sleepWake _ => none
  | .promiseMissed _ => none
  | .allotmentGrant _ => none
  | .scrubVisit _ _ _ => none
  | .sampleTick _ _ => none
  | .sampleTimerExpiry _ => none
  | .stopctlArm _ => none
  | .stopReached _ => none
  | .stopTrap _ => none
  | .bootStart => none
  | .startWatchdogExpiry => none
  | .dieEnterService _ => none
  | .calibrationComplete => none
  | .bringUpEnd => none
  | .datagramReceive _ => none
  | .connRecordFetch _ => none
  | .netRetransmitTimeout _ => none
  | .rnrRetransmit _ => none
  | .rateUpdate _ _ _ => none
  | .powerLoss _ _ _ => none
  | .dramTrainingFailed _ => none
  | .dieCalibrationFailed _ => none
  | .pierReset _ => none

/-- An instruction whose encoding R29 step 6 accepts. -/
def Instr.wf (i : Instr) : Bool := i.check.isNone

end Sys2Proof
end

