-- ==== Sys2Proof/Certificates/Slice0/Obligations.lean ====
section
/-! DEFINITION. The statements for the provers. Tables name the instructions of one shape with what the spec's entry of each computes. -/

namespace Sys2Proof.Claims

open Sys2Proof.Machine

/-! ## Integer arithmetic, lane by lane -/

/-- `Wrap32(n)` of R6 and `Word(n)` of R110. -/
def wrap (n : Int) : Word := BitVec.ofInt 32 n

/-- `Sat(n, lo, hi)` of R6. -/
def sat (n lo hi : Int) : Int := max lo (min n hi)

/-- `Sh(x)` of R110. -/
def sh (x : Word) : Nat := x.toNat % 32

/-- The members of IALU and IALU2 with two operands (R111, R112). -/
def integerBinary : List ((BitVec 7 → BitVec 7 → BitVec 7 → BitVec 1 → Instr) × (Word → Word → Word)) :=
  [(.add, fun a b => wrap (a.toNat + b.toNat)), (.sub, fun a b => wrap (a.toNat - b.toNat)), (.mullo, fun a b => wrap (a.toInt * b.toInt)),
   (.mulhi, fun a b => wrap (a.toInt * b.toInt / 2 ^ 32)), (.mulhu, fun a b => wrap ((a.toNat * b.toNat / 2 ^ 32 : Nat))),
   (.and, fun a b => a &&& b), (.or, fun a b => a ||| b), (.xor, fun a b => a ^^^ b), (.andn, fun a b => a &&& ~~~b),
   (.shl, fun a b => wrap (a.toNat * 2 ^ sh b)), (.shr, fun a b => wrap ((a.toNat / 2 ^ sh b : Nat))), (.sra, fun a b => wrap (a.toInt / 2 ^ sh b)),
   (.min, fun a b => wrap (min a.toInt b.toInt)), (.max, fun a b => wrap (max a.toInt b.toInt)),
   (.minu, fun a b => wrap (min a.toNat b.toNat : Nat)), (.maxu, fun a b => wrap (max a.toNat b.toNat : Nat)),
   (.adds, fun a b => wrap (sat (a.toInt + b.toInt) (-2 ^ 31) (2 ^ 31 - 1))), (.subs, fun a b => wrap (sat (a.toInt - b.toInt) (-2 ^ 31) (2 ^ 31 - 1))),
   (.addus, fun a b => wrap (sat (a.toNat + b.toNat) 0 (2 ^ 32 - 1))), (.subus, fun a b => wrap (sat (a.toNat - b.toNat) 0 (2 ^ 32 - 1))),
   (.rotl, fun a b => a.rotateLeft (sh b)), (.absd, fun a b => wrap (a.toInt - b.toInt).natAbs),
   (.avgu, fun a b => wrap ((a.toNat + b.toNat + 1) / 2 : Nat))]

/-- The members of IALU2, I and SHI with one vector operand (R112 to R114). -/
def integerUnary (imm : BitVec 12) (n : BitVec 5) : List ((BitVec 7 → BitVec 7 → Instr) × (Word → Word)) :=
  [(.popc, fun a => wrap ((List.range 32).filter (fun i => a.getLsbD i)).length),
   (.clz, fun a => wrap ((List.range 32).takeWhile (fun i => !a.getLsbD (31 - i))).length),
   (.brev, fun a => maskWord (fun j => a.getLsbD (31 - j))),
   (fun d a => .addi d a imm, fun a => wrap (a.toNat + imm.toInt)), (fun d a => .andi d a imm, fun a => a &&& wrap imm.toInt),
   (fun d a => .ori d a imm, fun a => a ||| wrap imm.toInt), (fun d a => .xori d a imm, fun a => a ^^^ wrap imm.toInt),
   (fun d a => .shli d a n, fun a => wrap (a.toNat * 2 ^ n.toNat)), (fun d a => .shri d a n, fun a => wrap ((a.toNat / 2 ^ n.toNat : Nat))),
   (fun d a => .srai d a n, fun a => wrap (a.toInt / 2 ^ n.toNat)), (fun d a => .rotli d a n, fun a => a.rotateLeft n.toNat)]

/-- What a word writes into the acting lanes of a vector register. -/
def laneWrites (d : BitVec 7) (m : Mask) (f : Nat → Val) : List (UnitRef × UnitVal) := (Mask.lanes m).map (fun l => (.vec d.toNat l, .w (f l)))

/-- What a word writes into a predicate: for each executed word, the acting lanes' bits and poison, the other lanes as they were (R123). -/
def predWrites (t : Team) (p : BitVec 3) (m : Mask) (f : Nat → Bool × Bool) : List (UnitRef × UnitVal) :=
  (Mask.words m).map (fun k => (.pred p.toNat k,
    .p (maskWord (fun j => if (m.getD k 0).getLsbD j then (f (32 * k + j)).1 else t.flag p (32 * k + j)))
      (maskWord (fun j => if (m.getD k 0).getLsbD j then (f (32 * k + j)).2 else t.flagBad p (32 * k + j)))))

/-! ## Compares and predicates -/

/-- The CMP conditions (R123). -/
def integerConditions : List (Word → Word → Bool) :=
  [fun a b => decide (a = b), fun a b => decide (a ≠ b), fun a b => decide (a.toInt < b.toInt), fun a b => decide (a.toInt ≤ b.toInt),
   fun a b => decide (a.toInt > b.toInt), fun a b => decide (a.toInt ≥ b.toInt), fun a b => decide (a.toNat < b.toNat),
   fun a b => decide (a.toNat ≤ b.toNat), fun a b => decide (a.toNat > b.toNat), fun a b => decide (a.toNat ≥ b.toNat)]

/-- An FCMP condition (R124): the relation of two numbers, the result with a NaN, and whether any NaN sets NV or only a signalling one. -/
def floatTest (rel : FVal → FVal → Bool) (withNan anyNan : Bool) (a b : Word) : Bool × Flags :=
  let x := fp32.val a.toNat
  let y := fp32.val b.toNat
  if x.isNan ∨ y.isNan then (withNan, if anyNan ∨ x.isSnan ∨ y.isSnan then flagNV else 0) else (rel x y, 0)

/-- CMP and FCMP, each with its condition and the flags it raises (R123, R124). -/
def compares : List ((BitVec 3 → BitVec 7 → BitVec 7 → BitVec 1 → BitVec 2 → Instr) × (Word → Word → Bool × Flags)) :=
  [Instr.cmpEq, Instr.cmpNe, Instr.cmpLt, Instr.cmpLe, Instr.cmpGt, Instr.cmpGe, Instr.cmpLtu, Instr.cmpLeu, Instr.cmpGtu, Instr.cmpGeu].zip
    (integerConditions.map (fun c a b => (c a b, 0)))
  ++ [(.fcmpEq, floatTest (fun x y => !x.lt y && !y.lt x) false false), (.fcmpNe, floatTest (fun x y => x.lt y || y.lt x) true false),
      (.fcmpLt, floatTest (fun x y => x.lt y) false true), (.fcmpLe, floatTest (fun x y => !y.lt x) false true),
      (.fcmpGt, floatTest (fun x y => y.lt x) false true), (.fcmpGe, floatTest (fun x y => !x.lt y) false true),
      (.fcmpUn, floatTest (fun _ _ => false) true false), (.fcmpOrd, floatTest (fun _ _ => true) false false)]

/-- A compare's lane: poison when an operand is poisoned, or the old bit where it is read; else the combination with the old bit
(R123), and the flags of a lane that is not poisoned (R98). -/
def compareLane (cb : BitVec 2) (f : Word → Word → Bool × Flags) (a b : Val) (old oldBad : Bool) : (Bool × Bool) × Flags :=
  match a, b with
  | .word x, .word y =>
    if cb ≠ 0 ∧ oldBad = true then ((false, true), 0)
    else
      let c := (f x y).1
      ((if cb = 0 then c else if cb = 1 then old && c else if cb = 2 then old || c else old != c, false), (f x y).2)
  | _, _ => ((false, true), 0)

/-- PRED with two sources and with one (R125). -/
def predicateBinary : List ((BitVec 3 → BitVec 3 → BitVec 3 → Instr) × (Bool → Bool → Bool)) :=
  [(.pand, fun x y => x && y), (.por, fun x y => x || y), (.pxor, fun x y => x != y), (.pandn, fun x y => x && !y)]
def predicateUnary : List ((BitVec 3 → BitVec 3 → Instr) × (Bool → Bool)) := [(.pnot, fun x => !x), (.pmov, fun x => x)]

/-! ## Uniform arithmetic -/

/-- SALU and scmp (R127). -/
def uniformBinary : List ((BitVec 7 → BitVec 7 → BitVec 7 → Instr) × (Word → Word → Word)) :=
  [(.sadd, fun a b => wrap (a.toNat + b.toNat)), (.ssub, fun a b => wrap (a.toNat - b.toNat)), (.smul, fun a b => wrap (a.toInt * b.toInt)),
   (.sand, fun a b => a &&& b), (.sor, fun a b => a ||| b), (.sxor, fun a b => a ^^^ b),
   (.sshl, fun a b => wrap (a.toNat * 2 ^ sh b)), (.sshr, fun a b => wrap ((a.toNat / 2 ^ sh b : Nat))), (.ssra, fun a b => wrap (a.toInt / 2 ^ sh b)),
   (.smin, fun a b => wrap (min a.toInt b.toInt)), (.smax, fun a b => wrap (max a.toInt b.toInt)),
   (.sminu, fun a b => wrap (min a.toNat b.toNat : Nat)), (.smaxu, fun a b => wrap (max a.toNat b.toNat : Nat))]
  ++ [Instr.scmpEq, Instr.scmpNe, Instr.scmpLt, Instr.scmpLe, Instr.scmpGt, Instr.scmpGe, Instr.scmpLtu, Instr.scmpLeu, Instr.scmpGtu,
      Instr.scmpGeu].zip (integerConditions.map (fun c a b => if c a b then 1 else 0))

/-! ## Exchanges within a mask word -/

/-- The shuffles: the lane of the same mask word that lane j copies for n (R128). -/
def shuffles : List ((BitVec 7 → BitVec 7 → BitVec 7 → BitVec 1 → Instr) × (Nat → Nat → Nat)) :=
  [(.shflIdx, fun _ n => n), (.shflUp, fun j n => if n ≤ j then j - n else j), (.shflDn, fun j n => if j + n ≤ 31 then j + n else j),
   (.shflXor, fun j n => j ^^^ n)]

/-- Votes, ballot and reductions: of the contributing lanes of a word with their values (R128). -/
def votes : List ((BitVec 7 → BitVec 7 → Instr) × (List (Nat × Word) → Word)) :=
  [(.voteAny, fun xs => if ∃ x ∈ xs, x.2 ≠ 0 then 1 else 0), (.voteAll, fun xs => if ∀ x ∈ xs, x.2 ≠ 0 then 1 else 0),
   (.ballot, fun xs => maskWord (fun i => decide (∃ x ∈ xs, x.1 = i ∧ x.2 ≠ 0))),
   (.redadd, fun xs => wrap (xs.map (fun x => (x.2.toNat : Int))).sum),
   (.redmax, fun xs => wrap ((xs.map (fun x => x.2.toInt)).foldl max (-2 ^ 31)))]

/-- The acting lanes of mask word k. -/
def lanesIn (m : Mask) (k : Nat) : List Nat := (Mask.lanes m).filter (fun l => l / 32 == k)

/-! ## Floating point -/

/-- An FP32 result with its flags, as a word. -/
def word32 (r : Nat × Flags) : Word × Flags := (BitVec.ofNat 32 r.1, r.2)

/-- F(x) of an FP32 word (R110), and F of element i of w bits in another format (R92). -/
def F (x : Word) : FVal := fp32.val x.toNat
def elem (f : Fmt) (x : Word) (w i : Nat) : FVal := f.val (x.toNat / 2 ^ (w * i) % 2 ^ w)

/-- Two 16-bit results in one word, flags together (R117). -/
def two16 (lo hi : Nat × Flags) : Word × Flags := (BitVec.ofNat 32 (lo.1 + 2 ^ 16 * hi.1), lo.2 ||| hi.2)

/-- A packed operation element by element. -/
def packed (f : Fmt) (g : FVal → FVal → Nat × Flags) (a b : Word) : Word × Flags :=
  two16 (g (elem f a 16 0) (elem f b 16 0)) (g (elem f a 16 1) (elem f b 16 1))
def packed3 (f : Fmt) (rm : BitVec 2) (a b d : Word) : Word × Flags :=
  two16 (f.fma rm (elem f a 16 0) (elem f b 16 0) (elem f d 16 0)) (f.fma rm (elem f a 16 1) (elem f b 16 1) (elem f d 16 1))

/-- Integer elements of a dot product: w bits, signed or not (R121). -/
def dotElement (isSigned : Bool) (w i : Nat) (x : Word) : Int :=
  let n := x.toNat / 2 ^ (w * i) % 2 ^ w
  if isSigned ∧ 2 ^ (w - 1) ≤ n then n - 2 ^ w else n
def dot (w : Nat) (sa sb : Bool) (a b d : Word) : Word × Flags :=
  (wrap (d.toInt + ((List.range (32 / w)).map (fun i => dotElement sa w i a * dotElement sb w i b)).sum), 0)
def dotFloat (f : Fmt) (a b d : Word) : Word × Flags :=
  word32 (dotFp ((List.range 4).map (elem f a 8)) ((List.range 4).map (elem f b 8)) (F d))

/-- The bytes that a byte-packing conversion keeps and writes (R119). -/
def byteParts (hi : Bool) (x y : Nat × Flags) (d : Word) : Word × Flags :=
  (if hi then BitVec.ofNat 8 y.1 ++ BitVec.ofNat 8 x.1 ++ d.extractLsb' 0 16
   else d.extractLsb' 16 16 ++ BitVec.ofNat 8 y.1 ++ BitVec.ofNat 8 x.1, x.2 ||| y.2)

/-- Byte e of a scale word (R105). -/
def scaleByte (x : Word) (e : Nat) : Nat := x.toNat / 2 ^ (8 * e) % 2 ^ 8

/-- Floating-point members with two sources: under RM, from a and b (R105, R115, R117, R119, R122). -/
def floatBinary : List ((BitVec 7 → BitVec 7 → BitVec 7 → BitVec 1 → Instr) × (BitVec 2 → Word → Word → Word × Flags)) :=
  [(.fadd, fun rm a b => word32 (fp32.addV rm (F a) (F b))), (.fsub, fun rm a b => word32 (fp32.addV rm (F a) (F b).neg)),
   (.fmul, fun rm a b => word32 (fp32.mul rm (F a) (F b))),
   (.fmin, fun _ a b => word32 (fp32.minMax false a.toNat b.toNat)), (.fmax, fun _ a b => word32 (fp32.minMax true a.toNat b.toNat)),
   (.fcopysign, fun _ a b => if (F a).isNan then (0x7FC00000, if (F a).isSnan then flagNV else 0)
      else (b.extractLsb' 31 1 ++ a.extractLsb' 0 31, 0)),
   (.hadd2, fun rm => packed fp16 (fp16.addV rm)), (.hmul2, fun rm => packed fp16 (fp16.mul rm)),
   (.badd2, fun rm => packed bf16 (bf16.addV rm)), (.bmul2, fun rm => packed bf16 (bf16.mul rm)),
   (.hmin2, fun _ a b => two16 (fp16.minMax false (a.toNat % 2 ^ 16) (b.toNat % 2 ^ 16)) (fp16.minMax false (a.toNat / 2 ^ 16) (b.toNat / 2 ^ 16))),
   (.hmax2, fun _ a b => two16 (fp16.minMax true (a.toNat % 2 ^ 16) (b.toNat % 2 ^ 16)) (fp16.minMax true (a.toNat / 2 ^ 16) (b.toNat / 2 ^ 16))),
   (.cvtBfp, fun rm a b => two16 (bf16.convert rm (F a)) (bf16.convert rm (F b))),
   (.cvtHp, fun rm a b => two16 (fp16.convert rm (F a)) (fp16.convert rm (F b))),
   (.scmul, fun rm a b => if scaleByte b 0 = 255 then (0x7FC00000, 0) else word32 (roundInt fp32 rm false a.toInt (scaleByte b 0 - 127)))]

/-- Floating-point and dot-product members that read the old vd too (R103, R105, R115 to R122). -/
def floatTernary : List ((BitVec 7 → BitVec 7 → BitVec 7 → BitVec 1 → Instr) × (BitVec 2 → Word → Word → Word → Word × Flags)) :=
  [(.fma, fun rm a b d => word32 (fp32.fma rm (F a) (F b) (F d))), (.fnma, fun rm a b d => word32 (fp32.fma rm (F a).neg (F b) (F d))),
   (.hfma2, packed3 fp16), (.bfma2, packed3 bf16),
   (.cvtE4l, fun rm a b => byteParts false (e4m3.convert rm (F a)) (e4m3.convert rm (F b))),
   (.cvtE4h, fun rm a b => byteParts true (e4m3.convert rm (F a)) (e4m3.convert rm (F b))),
   (.cvtE5l, fun rm a b => byteParts false (e5m2.convert rm (F a)) (e5m2.convert rm (F b))),
   (.cvtE5h, fun rm a b => byteParts true (e5m2.convert rm (F a)) (e5m2.convert rm (F b))),
   (.dp4S8, fun _ => dot 8 true true), (.dp4N8, fun _ => dot 8 false false), (.dp4Sn8, fun _ => dot 8 true false),
   (.dp8S4, fun _ => dot 4 true true), (.dp8N4, fun _ => dot 4 false false), (.dp8Sn4, fun _ => dot 4 true false),
   (.dp4E4, fun _ => dotFloat e4m3), (.dp4E5, fun _ => dotFloat e5m2),
   (.scacc, fun rm a b d => word32 (scaleFp rm a.toInt (scaleByte b 0 - 127) (scaleByte b 0 = 255) (some (F d)))),
   (.scacc2, fun rm a b d => word32 (scaleFp rm a.toInt (scaleByte b 0 + scaleByte b 1 - 254) (scaleByte b 0 = 255 ∨ scaleByte b 1 = 255) (some (F d))))]

/-- Floating-point members with one source (R118, R119). -/
def floatUnary : List ((BitVec 7 → BitVec 7 → Instr) × (BitVec 2 → Word → Word × Flags)) :=
  [(.frcp, fun _ a => word32 (frcp32 a (F a))), (.frsq, fun _ a => word32 (frsq32 a (F a))), (.fsqrt, fun _ a => word32 (fsqrt32 (F a))),
   (.fexp2, fun _ a => word32 (fexp2_32 a (F a))), (.flog2, fun _ a => word32 (flog2_32 a (F a))),
   (.cvtFI, fun rm a => word32 (roundInt fp32 rm false a.toInt 0)), (.cvtFU, fun rm a => word32 (roundInt fp32 rm false a.toNat 0)),
   (.cvtIF, fun rm a => let r := toIntSat rm (-2 ^ 31) (2 ^ 31 - 1) (F a); (wrap r.1, r.2)),
   (.cvtUF, fun rm a => let r := toIntSat rm 0 (2 ^ 32 - 1) (F a); (wrap r.1, r.2))]

/-- The widening conversions with their formats, element widths and highest element (R119). -/
def widenings : List ((BitVec 7 → BitVec 7 → BitVec 7 → Instr) × Fmt × Nat × Nat) :=
  [(.cvtFBf, bf16, 16, 1), (.cvtFH, fp16, 16, 1), (.cvtFE4, e4m3, 8, 3), (.cvtFE5, e5m2, 8, 3)]

/-- A lane's result from its source words: poison, and no flag, when one of them is poisoned (R98, R106). -/
def laneResult (xs : List Val) (f : List Word → Word × Flags) : Val × Flags :=
  if xs.any Val.isPoison then (.poison, 0) else (.word (f (xs.map Val.bits)).1, (f (xs.map Val.bits)).2)

/-- What a floating-point word writes, and the flags of all its lanes. -/
def floatWrites (d : BitVec 7) (m : Mask) (f : Nat → Val × Flags) : List (UnitRef × UnitVal) := laneWrites d m (fun l => (f l).1)
def floatFlags (m : Mask) (f : Nat → Val × Flags) : Flags := Flags.all ((Mask.lanes m).map (fun l => (f l).2))

/-! ## Exact values -/

/-- (−1)^neg × m × 2^e as a rational. -/
def exact (neg : Bool) (m : Nat) (e : Int) : ℚ := (if neg then -1 else 1) * m * (2 : ℚ) ^ e

end Sys2Proof.Claims

open Sys2Proof Sys2Proof.Machine Sys2Proof.Claims

/-! ## Lane-class words -/

/-- R111, R112, R106: on each acting lane, va and vb|sB give vd, poison if either is poisoned; nothing else changes. -/
def Sys2Proof.Claims.IntegerBinaryResults : Prop :=
  ∀ op ∈ integerBinary, ∀ (d a b : BitVec 7) (u : BitVec 1) (s : State) (t : Team) (k : Crew) (c : Clause),
    s.Ready t k c → Mask.none (t.acting c) = false → t.holds [d, a] → (u = 0 → t.holds [b]) →
    t.landed (laneUnits a (t.acting c) ++ secondUnits b u (t.acting c)) → s.writable t (laneUnits d (t.acting c)) →
    s.Completes (op.1 d a b u) t k 1 (Mask.passes (t.acting c))
      (laneWrites d (t.acting c) (fun l => Val.map2 op.2 (t.lane a.toNat l) (t.second b u l))) 0

/-- R112 to R114, R106: the members with one vector operand, and an immediate or an amount. -/
def Sys2Proof.Claims.IntegerUnaryResults : Prop :=
  ∀ (imm : BitVec 12) (n : BitVec 5), ∀ op ∈ integerUnary imm n, ∀ (d a : BitVec 7) (s : State) (t : Team) (k : Crew) (c : Clause),
    s.Ready t k c → Mask.none (t.acting c) = false → t.holds [d, a] →
    t.landed (laneUnits a (t.acting c)) → s.writable t (laneUnits d (t.acting c)) →
    s.Completes (op.1 d a) t k 1 (Mask.passes (t.acting c)) (laneWrites d (t.acting c) (fun l => Val.map op.2 (t.lane a.toNat l))) 0

/-- R123, R124: each acting lane of pd gets the condition, combined with the old bit as CB says. -/
def Sys2Proof.Claims.CompareResults : Prop :=
  ∀ op ∈ compares, ∀ (p : BitVec 3) (a b : BitVec 7) (u : BitVec 1) (cb : BitVec 2) (s : State) (t : Team) (k : Crew) (c : Clause),
    s.Ready t k c → Mask.none (t.acting c) = false → p ≠ 0 → t.holds [a] → (u = 0 → t.holds [b]) →
    t.landed (laneUnits a (t.acting c) ++ secondUnits b u (t.acting c)) → s.writable t (wordUnits p (t.acting c)) →
    let r := fun l => compareLane cb op.2 (t.lane a.toNat l) (t.second b u l) (t.flag p l) (t.flagBad p l)
    s.Completes (op.1 p a b u cb) t k 1 (Mask.passes (t.acting c)) (predWrites t p (t.acting c) (fun l => (r l).1))
      (Flags.all ((Mask.lanes (t.acting c)).map (fun l => (r l).2)))

/-- R127: uniform arithmetic, once for the whole team, counts one pass. -/
def Sys2Proof.Claims.UniformResults : Prop :=
  ∀ (d a b : BitVec 7) (imm : BitVec 12) (s : State) (t : Team) (k : Crew) (c : Clause),
    s.Ready t k c → Mask.none (t.acting c) = false → t.landed [.uni a.toNat] → s.writable t [.uni d.toNat] →
    (∀ op ∈ uniformBinary, t.landed [.uni b.toNat] →
      s.Completes (op.1 d a b) t k 1 1 [(.uni d.toNat, .w (Val.map2 op.2 (t.uniform a.toNat) (t.uniform b.toNat)))] 0)
    ∧ s.Completes (.saddi d a imm) t k 1 1 [(.uni d.toNat, .w (Val.map (fun x => wrap (x.toNat + imm.toInt)) (t.uniform a.toNat)))] 0

/-- R67, R81, R82, R66: the moves and the identity words copy values unchanged, poison included; `lim` is two words long. -/
def Sys2Proof.Claims.MoveResults : Prop :=
  ∀ (d a : BitVec 7) (lit : Word) (n : BitVec 8) (s : State) (t : Team) (k : Crew) (c : Clause),
    s.Ready t k c → Mask.none (t.acting c) = false →
    let m := t.acting c
    (t.holds [d] → s.writable t (laneUnits d m) →
      (t.holds [a] → t.landed (laneUnits a m) → s.Completes (.mov d a) t k 1 (Mask.passes m) (laneWrites d m (t.lane a.toNat)) 0)
      ∧ (t.landed [.uni a.toNat] → s.Completes (.movsv d a) t k 1 (Mask.passes m) (laneWrites d m (fun _ => t.uniform a.toNat)) 0)
      ∧ s.Completes (.lane d) t k 1 (Mask.passes m) (laneWrites d m (fun l => .word (BitVec.ofNat 32 l))) 0
      ∧ s.Completes (.lword d) t k 1 (Mask.passes m) (laneWrites d m (fun l => .word (m.getD (l / 32) 0))) 0
      ∧ s.Completes (.lim 0 d lit) t k 2 (Mask.passes m) (laneWrites d m (fun _ => .word lit)) 0)
    ∧ (s.writable t [.uni d.toNat] →
      (∀ l0, (Mask.lanes m).head? = some l0 → t.holds [a] → t.landed [.vec a.toNat l0] →
        s.Completes (.movs d a) t k 1 1 [(.uni d.toNat, .w (t.lane a.toNat l0))] 0)
      ∧ s.Completes (.lim 1 d lit) t k 2 1 [(.uni d.toNat, .w (.word lit))] 0
      ∧ (n.toNat < 32 → s.Completes (.mact d n) t k 1 1 [(.uni d.toNat, .w (.word (m.getD n.toNat 0)))] 0)
      ∧ s.Completes (.mact d 32) t k 1 1 [(.uni d.toNat, .w (.word (maskWord (fun j => m.getD j 0 != 0))))] 0)

/-- R81: `movix` reads and `movix.w` writes the vector register that a landed uniform index names. -/
def Sys2Proof.Claims.IndexedMoveResults : Prop :=
  ∀ (d a b : BitVec 7) (n : Word) (s : State) (t : Team) (k : Crew) (c : Clause),
    s.Ready t k c → Mask.none (t.acting c) = false → t.landed [.uni b.toNat] → t.uniform b.toNat = .word n → n.toNat < t.vN → n.toNat < 128 →
    (t.holds [d] → t.landed (laneUnits (n.setWidth 7) (t.acting c)) → s.writable t (laneUnits d (t.acting c)) →
      s.Completes (.movix d b) t k 1 (Mask.passes (t.acting c)) (laneWrites d (t.acting c) (t.lane n.toNat)) 0)
    ∧ (t.holds [a] → t.landed (laneUnits a (t.acting c)) → s.writable t (laneUnits (n.setWidth 7) (t.acting c)) →
      s.Completes (.movixW a b) t k 1 (Mask.passes (t.acting c)) (laneWrites (n.setWidth 7) (t.acting c) (t.lane a.toNat)) 0)

/-- R126: with no selector lane poisoned, each acting lane copies the operand it selects, poison included. -/
def Sys2Proof.Claims.SelectResults : Prop :=
  ∀ (p : BitVec 3) (n : BitVec 1) (d a b : BitVec 7) (u : BitVec 1) (s : State) (t : Team) (k : Crew) (c : Clause),
    s.Ready t k c → Mask.none (t.acting c) = false → t.holds [d, a] → (u = 0 → t.holds [b]) →
    t.landed (wordUnits p (t.acting c) ++ laneUnits a (t.acting c) ++ secondUnits b u (t.acting c)) → s.writable t (laneUnits d (t.acting c)) →
    (∀ l ∈ Mask.lanes (t.acting c), t.flagBad p l = false) →
    s.Completes (.sel p n d a b u) t k 1 (Mask.passes (t.acting c))
      (laneWrites d (t.acting c) (fun l => if t.flag p l != (n == 1) then t.lane a.toNat l else t.second b u l)) 0

/-- R128, R129: shuffles copy a lane of the same word, acting or not; votes and reductions gather the acting lanes of each word. -/
def Obligations.ExchangeResults : Prop :=
  ∀ (d a b : BitVec 7) (u : BitVec 1) (s : State) (t : Team) (k : Crew) (c : Clause),
    s.Ready t k c → Mask.none (t.acting c) = false → t.holds [d, a] → s.writable t (laneUnits d (t.acting c)) →
    (∀ op ∈ shuffles, (u = 0 → t.holds [b]) → t.landed (secondUnits b u (t.acting c)) →
      (∀ w ∈ Mask.words (t.acting c), ∀ j < 32, t.pend (.vec a.toNat (32 * w + j)) = false) →
      s.Completes (op.1 d a b u) t k 1 (Mask.passes (t.acting c)) (laneWrites d (t.acting c) (fun l =>
        match t.second b u l with
        | .poison => .poison
        | .word n => t.lane a.toNat (l / 32 * 32 + op.2 (l % 32) (sh n)))) 0)
    ∧ (∀ op ∈ votes, t.landed (laneUnits a (t.acting c)) →
      s.Completes (op.1 d a) t k 1 (Mask.passes (t.acting c)) ((Mask.words (t.acting c)).flatMap (fun w =>
        (lanesIn (t.acting c) w).map (fun l => (.vec d.toNat l, .w
          (if ∃ x ∈ lanesIn (t.acting c) w, (t.lane a.toNat x).isPoison then .poison
           else .word (op.2 ((lanesIn (t.acting c) w).map (fun x => (x % 32, (t.lane a.toNat x).bits))))))))) 0)

/-- R115 to R122, R105, R98: each acting lane's result under the team's rounding mode, and the flags of all lanes raised together. -/
def Obligations.FloatResults : Prop :=
  ∀ (d a b e : BitVec 7) (u : BitVec 1) (s : State) (t : Team) (k : Crew) (c : Clause),
    s.Ready t k c → Mask.none (t.acting c) = false → t.holds [d, a] → s.writable t (laneUnits d (t.acting c)) →
    t.landed (laneUnits a (t.acting c)) →
    let m := t.acting c
    let x := fun l => t.lane a.toNat l
    let y := fun l => t.second b u l
    ((u = 0 → t.holds [b]) → t.landed (secondUnits b u m) →
      (∀ op ∈ floatBinary,
        let r := fun l => laneResult [x l, y l] (fun xs => op.2 t.rm (xs.getD 0 0) (xs.getD 1 0))
        s.Completes (op.1 d a b u) t k 1 (Mask.passes m) (floatWrites d m r) (floatFlags m r))
      ∧ ∀ op ∈ floatTernary,
        let r := fun l => laneResult [x l, y l, t.lane d.toNat l] (fun xs => op.2 t.rm (xs.getD 0 0) (xs.getD 1 0) (xs.getD 2 0))
        s.Completes (op.1 d a b u) t k 1 (Mask.passes m) (floatWrites d m r) (floatFlags m r))
    ∧ (∀ op ∈ floatUnary,
        let r := fun l => laneResult [x l] (fun xs => op.2 t.rm (xs.getD 0 0))
        s.Completes (op.1 d a) t k 1 (Mask.passes m) (floatWrites d m r) (floatFlags m r))
    ∧ (∀ op ∈ widenings, e.toNat ≤ op.2.2.2 →
        let r := fun l => laneResult [x l] (fun xs => word32 (fp32.convert 0 (elem op.2.1 (xs.getD 0 0) op.2.2.1 e.toNat)))
        s.Completes (op.1 d a e) t k 1 (Mask.passes m) (floatWrites d m r) (floatFlags m r))

/-- R74, R29 step 7, R70: a vector register beyond the allotment, and pd = p0, trap 0x04 illegal operand before any effect. -/
def Sys2Proof.Claims.IllegalOperandTraps : Prop :=
  ∀ (p : BitVec 3) (d a b : BitVec 7) (u : BitVec 1) (imm : BitVec 12) (n : BitVec 5) (cb : BitVec 2) (s : State) (t : Team) (k : Crew) (c : Clause),
    s.Ready t k c → Mask.none (t.acting c) = false →
    (¬ t.holds [d, a] ∨ (u = 0 ∧ ¬ t.holds [b]) →
      (∀ op ∈ integerBinary, ∃ s' t', exec (op.1 d a b u) s = .next s' ∧ s.Trapped s' t t' 0x04 c.hdrVA)
      ∧ (∀ op ∈ floatBinary, ∃ s' t', exec (op.1 d a b u) s = .next s' ∧ s.Trapped s' t t' 0x04 c.hdrVA)
      ∧ (∀ op ∈ floatTernary, ∃ s' t', exec (op.1 d a b u) s = .next s' ∧ s.Trapped s' t t' 0x04 c.hdrVA)
      ∧ (∀ op ∈ shuffles, ∃ s' t', exec (op.1 d a b u) s = .next s' ∧ s.Trapped s' t t' 0x04 c.hdrVA))
    ∧ (¬ t.holds [d, a] →
      (∀ op ∈ integerUnary imm n, ∃ s' t', exec (op.1 d a) s = .next s' ∧ s.Trapped s' t t' 0x04 c.hdrVA)
      ∧ (∀ op ∈ floatUnary, ∃ s' t', exec (op.1 d a) s = .next s' ∧ s.Trapped s' t t' 0x04 c.hdrVA)
      ∧ ∀ op ∈ votes, ∃ s' t', exec (op.1 d a) s = .next s' ∧ s.Trapped s' t t' 0x04 c.hdrVA)
    ∧ (p = 0 ∨ ¬ t.holds [a] ∨ (u = 0 ∧ ¬ t.holds [b]) →
      ∀ op ∈ compares, ∃ s' t', exec (op.1 p a b u cb) s = .next s' ∧ s.Trapped s' t t' 0x04 c.hdrVA)

/-- R126, R7: a poisoned selector on an acting lane traps 0x10 and no lane is written. -/
def Sys2Proof.Claims.PoisonedSelectorTraps : Prop :=
  ∀ (p : BitVec 3) (n : BitVec 1) (d a b : BitVec 7) (u : BitVec 1) (s : State) (t : Team) (k : Crew) (c : Clause),
    s.Ready t k c → t.holds [d, a] → (u = 0 → t.holds [b]) →
    t.landed (wordUnits p (t.acting c) ++ laneUnits a (t.acting c) ++ secondUnits b u (t.acting c)) → t.landed (laneUnits d (t.acting c)) →
    (∃ l ∈ Mask.lanes (t.acting c), t.flagBad p l = true) →
    ∃ s' t', exec (.sel p n d a b u) s = .next s' ∧ s.Trapped s' t t' 0x10 c.hdrVA

/-- R111 to R129: whatever becomes of a lane-class word (its effect, a wait, a capture, a trap), no byte of memory and no other team changes. -/
def Obligations.LaneWordsLeaveMemory : Prop :=
  ∀ (p q r : BitVec 3) (d a b : BitVec 7) (u g : BitVec 1) (imm : BitVec 12) (n : BitVec 5) (cb : BitVec 2) (s s' : State),
    let keeps := fun i => exec i s = .next s' → s'.mem = s.mem ∧ ∀ v, v ≠ s.cur → s'.team? v = s.team? v
    (∀ op ∈ integerBinary, keeps (op.1 d a b u)) ∧ (∀ op ∈ floatBinary, keeps (op.1 d a b u)) ∧ (∀ op ∈ floatTernary, keeps (op.1 d a b u))
    ∧ (∀ op ∈ shuffles, keeps (op.1 d a b u)) ∧ (∀ op ∈ integerUnary imm n, keeps (op.1 d a)) ∧ (∀ op ∈ floatUnary, keeps (op.1 d a))
    ∧ (∀ op ∈ votes, keeps (op.1 d a)) ∧ (∀ op ∈ compares, keeps (op.1 p a b u cb)) ∧ (∀ op ∈ predicateBinary, keeps (op.1 p q r))
    ∧ (∀ op ∈ predicateUnary, keeps (op.1 p q)) ∧ (∀ op ∈ uniformBinary, keeps (op.1 d a b)) ∧ keeps (.sel p g d a b u) ∧ keeps (.mov d a) ∧ keeps (.movs d a) ∧ keeps (.movix d b)
    ∧ keeps (.movixW a b)

/-! ## Floating-point arithmetic -/

/-- R95: a number rounded to a multiple of 2^q: nearest with ties to even, toward zero, toward +∞ and toward −∞; it is inexact exactly when
the multiple is another number. -/
def Sys2Proof.Claims.RoundingModes : Prop :=
  ∀ (rm : BitVec 2) (neg : Bool) (m : Nat) (e q : Int),
    let r := roundAt rm neg m e false q
    let x := exact neg m e
    let y := exact neg r.1 q
    (r.2 = true ↔ x ≠ y)
    ∧ (rm = 0 → |x - y| ≤ (2 : ℚ) ^ q / 2 ∧ (|x - y| = (2 : ℚ) ^ q / 2 → r.1 % 2 = 0))
    ∧ (rm = 1 → |y| ≤ |x| ∧ |x| - |y| < (2 : ℚ) ^ q)
    ∧ (rm = 2 → x ≤ y ∧ y - x < (2 : ℚ) ^ q)
    ∧ (rm = 3 → y ≤ x ∧ x - y < (2 : ℚ) ^ q)

/-- R100 to R102: the difference x − x, products with a zero, the minimum and maximum with NaN operands, and conversions to integers out of range. -/
def Sys2Proof.Claims.FloatSpecialCases : Prop :=
  (∀ (rm : BitVec 2) (x : Word), (∃ g m e, F x = .fin g m e) → fp32.addV rm (F x) (F x).neg = (if rm = 3 then 0x80000000 else 0, 0))
  ∧ (∀ (rm : BitVec 2) (x y : Word) (g h : Bool) (m n : Nat) (e f : Int), F x = .fin g m e → F y = .fin h n f → m = 0 ∨ n = 0 →
      fp32.mul rm (F x) (F y) = (if g = h then 0 else 0x80000000, 0))
  ∧ (∀ (big : Bool) (x y : Word),
      ((F x).isNan = true → (F y).isNan = false → fp32.minMax big x.toNat y.toNat = (y.toNat, if (F x).isSnan then flagNV else 0))
      ∧ ((F x).isNan = false → (F y).isNan = true → fp32.minMax big x.toNat y.toNat = (x.toNat, if (F y).isSnan then flagNV else 0))
      ∧ ((F x).isNan = true → (F y).isNan = true →
          fp32.minMax big x.toNat y.toNat = (0x7FC00000, if (F x).isSnan ∨ (F y).isSnan then flagNV else 0)))
  ∧ (∀ (rm : BitVec 2) (lo hi : Int) (x : Word), lo ≤ hi →
      lo ≤ 0 → 0 ≤ hi → lo ≤ (toIntSat rm lo hi (F x)).1 ∧ (toIntSat rm lo hi (F x)).1 ≤ hi
      ∧ ((F x).isNan = true → toIntSat rm lo hi (F x) = (0, flagNV))
      ∧ (∀ g, F x = .inf g → toIntSat rm lo hi (F x) = (if g then lo else hi, flagNV)))

/-! ## Clauses and control flow -/

/-- R24, R25, R29, R48: a header whose checks and waits pass opens its clause: the words are fetched, the guard is read for every mask word,
and with E the region entry is recorded. A header costs no port cycle. -/
def Obligations.HeaderOpensClause : Prop :=
  ∀ (n : BitVec 1) (g : BitVec 3) (v : BitVec 4) (e y : BitVec 1) (w : BitVec 6) (cl : BitVec 3) (cnt : BitVec 4) (s s1 : State) (t : Team)
    (k : Crew) (ws : List Word),
    let h : Word := 0xB7#8 ++ n ++ g ++ v ++ 0#1 ++ e ++ y ++ w ++ cl ++ cnt
    s.current = some (t, k) → t.clause = none → t.status = .running → t.hold = .none → t.late = none → t.stop.arm = false →
    t.stop.redo = false → t.stop.mode = false →
    s.fetchWords k (t.pc + 4) cnt.toNat = (s1, .ok ws) → clauseBad h ws = false →
    (t.defOn = true → e = 1 → t.fifo = []) → (t.defOn = false → ∀ i < 6, w.getLsbD i = true → t.counter i = 0) →
    (∀ j ∈ Mask.words t.active, t.pend (.pred g.toNat j) = false) → (∀ l ∈ t.activeLanes, t.flagBad g l = false) →
    ∃ s' t', exec (.clauseHeader n g v e y w cl cnt) s = .next s' ∧ s'.team? s.cur = some t'
      ∧ t'.clause = some { hdrVA := t.pc, hdr := h, words := ws, issued := true, deferring := t.defOn
                           guard := (List.range t.width).map (fun j =>
                             let x := (t.unit (.pred g.toNat j)).preds.1
                             if n = 1 then ~~~x else x) }
      ∧ t'.fr = { t.fr with quantum := min 64 (t.fr.quantum + 1) }
      ∧ (t'.regionVA, t'.region, t'.regionCount, t'.passes)
          = (if e = 1 then (t.pc, t'.fr, t.regionCount + 1, 0) else (t.regionVA, t.region, t.regionCount, t.passes))
      ∧ t' = { t with clause := t'.clause, fr := t'.fr, regionVA := t'.regionVA, region := t'.region, regionCount := t'.regionCount
                      passes := t'.passes, stall := 0, fryldTurn := false }
      ∧ (∀ u, u ≠ s.cur → s'.team? u = s.team? u) ∧ s' = { s1 with teams := s'.teams } ∧ s.Looked s1

/-- R51: how a per-lane branch parts the active lanes. -/
def Sys2Proof.Claims.parted (t : Team) (c : Clause) (taken : Nat → Bool) (target : VA) : Team :=
  let gone : Team := { t with clause := none, yielded := c.gaveWay }
  if ∀ l ∈ t.activeLanes, taken l = true then { gone with pc := target }
  else if target.toNat ≤ c.hdrVA.toNat then
    { gone with pc := target, fr := t.fr.setLanes (t.activeLanes.filter (fun l => !taken l)) (.waiting c.fallThrough) }
  else { gone with pc := c.fallThrough, fr := t.fr.setLanes (t.activeLanes.filter taken) (.waiting target) }

/-- A branch word does what R51 says with the lanes taken: with none it is passed; with some, and a target that passes its checks, the lanes
part, and the link words are written; a target that fails its checks traps (R29 step 2). -/
def Sys2Proof.Claims.branches (s : State) (i : Instr) (t : Team) (k : Crew) (c : Clause) (taken : Nat → Bool) (target : VA) (passes : Nat)
    (ws : List (UnitRef × UnitVal)) : Prop :=
  ((∀ l ∈ t.activeLanes, taken l = false) → s.Completes i t k 1 passes [] 0)
  ∧ ((∃ l ∈ t.activeLanes, taken l = true) → (s.checkTarget k target).2 = none →
      ∃ s1, s.Looked s1 ∧ s.Does i s1 (parted t c taken target) (parted t c taken target) k t.counter passes ws [] 0)
  ∧ ((∃ l ∈ t.activeLanes, taken l = true) → ∀ tr, (s.checkTarget k target).2 = some tr →
      ∃ s' t', exec i s = .next s' ∧ s.Trapped s' t t' tr.cause c.hdrVA)

/-- The link pair of some lanes: the fall-through VA in v2:v3 (R58, R60). -/
def Sys2Proof.Claims.links (c : Clause) (ls : List Nat) : List (UnitRef × UnitVal) :=
  ls.flatMap (fun l => [(.vec 2 l, .w (.word (c.fallThrough.extractLsb' 0 32))), (.vec 3 l, .w (.word (c.fallThrough.extractLsb' 32 32)))])

/-- A VA n words on from a clause's header (R31). -/
def Sys2Proof.Claims.onFrom {w : Nat} (c : Clause) (o : BitVec w) : VA := c.hdrVA + 4 * o.signExtend 64

/-- R58, R51: `br`, `bra` and `call` with no condition lane poisoned. -/
def Sys2Proof.Claims.DirectBranches : Prop :=
  ∀ (p : BitVec 3) (n : BitVec 1) (o : BitVec 18) (s : State) (t : Team) (k : Crew) (c : Clause), s.Ready t k c →
    (Mask.none t.active = false → branches s (.bra o) t k c (fun _ => true) (onFrom c o) 1 [])
    ∧ (Mask.none (t.acting c) = false → t.landed (wordUnits p (t.acting c)) → (∀ l ∈ Mask.lanes (t.acting c), t.flagBad p l = false) →
      let taken := fun l => decide (l ∈ Mask.lanes (t.acting c)) && (t.flag p l != (n == 1))
      branches s (.br p n o) t k c taken (onFrom c o) (Mask.passes (t.acting c)) []
      ∧ (3 < t.vN → s.writable t (laneUnits 2 (t.acting c) ++ laneUnits 3 (t.acting c)) →
        branches s (.call p n o) t k c taken (onFrom c o) (Mask.passes (t.acting c)) (links c ((Mask.lanes (t.acting c)).filter taken))))

/-- R58: a poisoned condition lane traps 0x10. -/
def Sys2Proof.Claims.PoisonedConditionTraps : Prop :=
  ∀ (p : BitVec 3) (n : BitVec 1) (o : BitVec 18) (s : State) (t : Team) (k : Crew) (c : Clause), s.Ready t k c →
    t.landed (wordUnits p (t.acting c)) → (∃ l ∈ Mask.lanes (t.acting c), t.flagBad p l = true) →
    (∃ s' t', exec (.br p n o) s = .next s' ∧ s.Trapped s' t t' 0x10 c.hdrVA)
    ∧ ∃ s' t', exec (.exit p n) s = .next s' ∧ s.Trapped s' t t' 0x10 c.hdrVA

/-- R59: `bz` and `bnz` on a vector word, a uniform register and a predicate, with nothing poisoned. The guard is ignored. -/
def Sys2Proof.Claims.ZeroBranches : Prop :=
  ∀ (r : BitVec 7) (o : BitVec 12) (s : State) (t : Team) (k : Crew) (c : Clause), s.Ready t k c → Mask.none t.active = false →
    ∀ z ∈ [(Instr.bz, true), (Instr.bnz, false)],
    (t.holds [r] → t.landed (laneUnits r t.active) → (∀ l ∈ Mask.lanes t.active, (t.lane r.toNat l).isPoison = false) →
      branches s (z.1 0 r o) t k c (fun l => decide (l ∈ Mask.lanes t.active) && (((t.lane r.toNat l).bits == 0) == z.2)) (onFrom c o)
        (Mask.passes t.active) [])
    ∧ (t.landed [.uni r.toNat] → ∀ x, t.uniform r.toNat = .word x →
      branches s (z.1 1 r o) t k c (fun _ => (x == 0) == z.2) (onFrom c o) 1 [])
    ∧ (r.toNat < 8 → t.landed (wordUnits (r.setWidth 3) t.active) → (∀ l ∈ Mask.lanes t.active, t.flagBad (r.setWidth 3) l = false) →
      branches s (z.1 2 r o) t k c (fun l => decide (l ∈ Mask.lanes t.active) && ((!t.flag (r.setWidth 3) l) == z.2)) (onFrom c o)
        (Mask.passes t.active) [])

/-- R144: `bpend` and `bpend.n` move every active lane by whether a register of each class is pending, or a queue holds no result. -/
def Sys2Proof.Claims.PendingBranches : Prop :=
  ∀ (r : BitVec 7) (o : BitVec 12) (s : State) (t : Team) (k : Crew) (c : Clause), s.Ready t k c → Mask.none t.active = false →
    ∀ z ∈ [(Instr.bpend, true), (Instr.bpendN, false)],
    (t.holds [r] → branches s (z.1 0 r o) t k c (fun _ => t.activeLanes.any (fun l => t.pend (.vec r.toNat l)) == z.2) (onFrom c o) 1 [])
    ∧ branches s (z.1 1 r o) t k c (fun _ => t.pend (.uni r.toNat) == z.2) (onFrom c o) 1 []
    ∧ (r.toNat < 8 → branches s (z.1 2 r o) t k c (fun _ => (Mask.words t.active).any (fun w => t.pend (.pred r.toNat w)) == z.2) (onFrom c o) 1 [])
    ∧ (r.toNat < t.aN → branches s (z.1 3 r o) t k c (fun _ => t.pend (.acc r.toNat) == z.2) (onFrom c o) 1 [])
    ∧ (r.toNat < 14 → (s.capNet = true ∨ r.toNat < 10) →
      branches s (z.1 4 r o) t k c (fun _ => (tget [] t.results r.toNat).isEmpty == z.2) (onFrom c o) 1 [])

/-- R60: the indirect transfers. `jmps`, `calls` and `ret sN` move every active lane to one target; `ret vN` sends each to its own, the lowest
goes on and the others wait. -/
def Sys2Proof.Claims.IndirectTransfers : Prop :=
  ∀ (r : BitVec 7) (o : BitVec 12) (s : State) (t : Team) (k : Crew) (c : Clause), s.Ready t k c → Mask.none t.active = false →
    r.toNat % 2 = 0 →
    (∀ lo hi : Word, t.uniform r.toNat = .word lo → t.uniform (r.toNat + 1) = .word hi → t.landed [.uni r.toNat, .uni (r.toNat + 1)] →
      let target : VA := (hi ++ lo) + 4 * o.signExtend 64
      let gone : Team := { t with pc := target, clause := none, yielded := c.gaveWay }
      (s.checkTargets k [target]).2 = none →
      (∃ s1, s.Looked s1 ∧ s.Does (.jmps r o) s1 gone gone k t.counter 1 [] [] 0)
      ∧ (∃ s1, s.Looked s1 ∧ s.Does (.ret 1 r o) s1 gone gone k t.counter 1 [] [] 0)
      ∧ (3 < t.vN → s.writable t (laneUnits 2 t.active ++ laneUnits 3 t.active) →
        ∃ s1, s.Looked s1 ∧ s.Does (.calls r o) s1 gone gone k t.counter 1 (links c t.activeLanes) [] 0))
    ∧ (r.toNat + 1 < t.vN → t.landed (laneUnits r t.active) → (∀ l ∈ Mask.lanes t.active, t.pend (.vec (r.toNat + 1) l) = false) →
      (∀ l ∈ Mask.lanes t.active, (t.lane r.toNat l).isPoison = false ∧ (t.lane (r.toNat + 1) l).isPoison = false) →
      let dst := fun l => ((t.lane (r.toNat + 1) l).bits ++ (t.lane r.toNat l).bits : VA) + 4 * o.signExtend 64
      (s.checkTargets k (distinctVA (t.activeLanes.map dst))).2 = none →
      ∃ s1 gone least, s.Looked s1 ∧ s.Does (.ret 0 r o) s1 gone gone k t.counter (Mask.passes t.active) [] [] 0
        ∧ (∃ l ∈ t.activeLanes, dst l = least) ∧ (∀ l ∈ t.activeLanes, least.toNat ≤ (dst l).toNat)
        ∧ gone = { t with pc := least, clause := none, yielded := c.gaveWay, fr := gone.fr }
        ∧ gone.fr = { t.fr with lanes := gone.fr.lanes }
        ∧ ∀ l, gone.fr.lane l = if l ∈ t.activeLanes ∧ dst l ≠ least then .waiting (dst l) else t.fr.lane l)

/-- R61: a loop of a nonzero count starts its counter as the most recently started one and goes on; a count of 0 leaves the counter and goes
on at the word after the end word. -/
def Sys2Proof.Claims.LoopStarts : Prop :=
  ∀ (l : BitVec 1) (a : BitVec 7) (o : BitVec 18) (n : Word) (s : State) (t : Team) (k : Crew) (c : Clause),
    s.Ready t k c → Mask.none t.active = false → t.landed [.uni a.toNat] → t.uniform a.toNat = .word n →
    (n ≠ 0 →
      let x : LoopC := { count := n, start := c.fallThrough, stop := onFrom c o, active := true }
      let tm : Team := { t with fr := if l = 0 then { t.fr with l0 := x, inner1 := false } else { t.fr with l1 := x, inner1 := true } }
      s.Does (.loop l a o) s tm (tm.advance 1) k t.counter 1 [] [] 0)
    ∧ (n = 0 → let next := s.afterEnd k 65536 c.fallThrough (onFrom c o)
      (s.checkTarget k next).2 = none →
      let gone : Team := { t with pc := next, clause := none, yielded := c.gaveWay }
      ∃ s1, s.Looked s1 ∧ s.Does (.loop l a o) s1 gone gone k t.counter 1 [] [] 0)

/-- R56: moving past a word that ends an active loop counts it down; the last pass makes it inactive and goes on, any other goes back to its
start. A word that ends no active loop leaves the frontier as it is. -/
def Sys2Proof.Claims.LoopEndTest : Prop :=
  ∀ (t : Team) (c : Clause), t.clause = some c → c.idx + 1 < c.words.length → t.fr.l1.active = false →
    let here := c.hdrVA + BitVec.ofNat 64 (4 * (1 + c.idx))
    let next : Clause := { c with idx := c.idx + 1, issuedTo := 0, opId := 0, flags := 0, waited := 0 }
    ((t.fr.l0.active = false ∨ t.fr.l0.stop ≠ here) →
      t.advance 1 = { t with clause := some next })
    ∧ (t.fr.l0.active = true → t.fr.l0.stop = here → t.fr.l0.count ≠ 1 →
      t.advance 1 = { t with pc := t.fr.l0.start, clause := none, yielded := c.gaveWay
                             fr := { t.fr with l0 := { t.fr.l0 with count := t.fr.l0.count - 1 }, inner1 := false } })
    ∧ (t.fr.l0.active = true → t.fr.l0.stop = here → t.fr.l0.count = 1 →
      t.advance 1 = { t with clause := some next
                             fr := { t.fr with l0 := { t.fr.l0 with count := 0, active := false }, inner1 := false } })

/-- R63, R64: `frmode` sets the frontier mode and resets the quantum; `fryld` gives the turn to the group with the lowest wait-PC above the
header, else the lowest, and has no effect when there is none. Where it ends a loop, the test of R56 is made, and the lanes of a loop that
goes on wait at its start (the model's reading, notes/assumptions/16.md). -/
def Sys2Proof.Claims.FrontierModeAndYield : Prop :=
  ∀ (s : State) (t : Team) (k : Crew) (c : Clause), s.Ready t k c → Mask.none (t.acting c) = false →
    (∀ m : BitVec 8, m.toNat ≤ 1 →
      let tm : Team := { t with fr := { t.fr with rotate := m == 1, quantum := 0 } }
      s.Does (.frmode m) s tm (tm.advance 1) k t.counter 1 [] [] 0)
    ∧ (t.waitPCs = [] → s.Completes .fryld t k 1 1 [] 0)
    ∧ (∀ m ∈ t.waitPCs,
      ((c.hdrVA.toNat < m.toNat ∧ ∀ x ∈ t.waitPCs, c.hdrVA.toNat < x.toNat → m.toNat ≤ x.toNat)
        ∨ ((∀ x ∈ t.waitPCs, x.toNat ≤ c.hdrVA.toNat) ∧ ∀ x ∈ t.waitPCs, m.toNat ≤ x.toNat)) →
      let ended := t.endTest 1
      let wait := ended.2.getD c.fallThrough
      ∃ gone, s.Does .fryld s gone gone k t.counter 1 [] [] 0
        ∧ gone = { t with pc := m, clause := none, yielded := c.gaveWay, fryldTurn := true, fr := gone.fr }
        ∧ gone.fr = { ended.1.fr with lanes := gone.fr.lanes, quantum := 0 }
        ∧ ∀ l ∈ t.lanes, gone.fr.lane l
            = if t.fr.lane l = .active then (if m = wait then .active else .waiting wait)
              else if t.fr.lane l = .waiting m then .active else t.fr.lane l)

/-- R65: `join` holds the active lanes at the fall-through; the first arrival reads the timeout and sets the deadline, later ones read
nothing; the arrival that leaves no other lane completes it, and the held lanes become active at the fall-through, or at the start of a loop
that the word ends and that goes on (R56; the model's reading, notes/assumptions/16.md). -/
def Sys2Proof.Claims.JoinHoldsAndCompletes : Prop :=
  ∀ (a : BitVec 7) (s : State) (t : Team) (k : Crew) (c : Clause), s.Ready t k c → Mask.none (t.acting c) = false →
    c.idx + 1 = c.words.length → (t.fr.joinVA = none ∨ t.fr.joinVA = some (c.wordVA c.idx)) →
    (∀ l pc, t.fr.lane l = .held pc → pc = c.fallThrough) → (t.fr.joinVA = none → ∀ l ∈ t.lanes, ∀ pc, t.fr.lane l ≠ .held pc) →
    ∀ n : Word, (t.fr.joinVA = none → t.landed [.uni a.toNat] ∧ t.uniform a.toNat = .word n) →
    let deadline := if t.fr.joinVA = none then (if n = 0 then none else some ((s.die k.die).dcc + n.setWidth 64)) else t.joinDeadline
    let all := ∀ l ∈ t.lanes, t.fr.lane l = .active ∨ t.fr.lane l = .exited ∨ ∃ pc, t.fr.lane l = .held pc
    let ended := t.endTest 1
    ∃ gone, s.Does (.join a) s gone gone k t.counter 1 [] [] 0
      ∧ gone = { t with pc := if all then ended.2.getD c.fallThrough else t.pc, clause := none, yielded := c.gaveWay
                        joinDeadline := if all then none else deadline, fr := gone.fr }
      ∧ gone.fr = { ended.1.fr with lanes := gone.fr.lanes, joinVA := if all then none else some (c.wordVA c.idx) }
      ∧ ∀ l ∈ t.lanes, gone.fr.lane l
          = if t.fr.lane l = .active then (if all then .active else .held c.fallThrough)
            else if all ∧ t.fr.lane l ≠ .exited then .active else t.fr.lane l

/-- R58, R46, R284: the lanes whose condition holds exit. While others are active the team goes on; with every lane exited it ends; with the
last team its crew retires. -/
def Sys2Proof.Claims.ExitEndsLanes : Prop :=
  ∀ (p : BitVec 3) (n : BitVec 1) (s : State) (t : Team) (k : Crew) (c : Clause), s.Ready t k c → Mask.none (t.acting c) = false →
    t.landed (wordUnits p (t.acting c)) → (∀ l ∈ Mask.lanes (t.acting c), t.flagBad p l = false) →
    let out := (Mask.lanes (t.acting c)).filter (fun l => t.flag p l != (n == 1))
    let tm : Team := { t with fr := t.fr.setLanes out .exited }
    ((∃ l ∈ t.activeLanes, l ∉ out) → s.Does (.exit p n) s tm (tm.advance 1) k t.counter (Mask.passes (t.acting c)) [] [] 0)
    ∧ ((∀ l ∈ t.lanes, l ∈ out ∨ t.fr.lane l = .exited) → (∃ u ∈ k.teams, u ≠ s.cur ∧ ∃ x, s.team? u = some x ∧ x.status ≠ .ended) →
      let gone : Team := { tm with status := .ended, clause := none, yielded := c.gaveWay, stall := 0 }
      s.Does (.exit p n) s gone gone k t.counter (Mask.passes (t.acting c)) [] [] 0)
    ∧ ((∀ l ∈ t.lanes, l ∈ out ∨ t.fr.lane l = .exited) → (∀ u ∈ k.teams, u ≠ s.cur → ∃ x, s.team? u = some x ∧ x.status = .ended) →
      s.cur ∈ k.teams → k.storePoison = false →
      ∃ s' t' k', exec (.exit p n) s = .next s' ∧ s'.team? s.cur = some t' ∧ t'.status = .ended ∧ t'.fr = tm.fr ∧ s'.mem = s.mem
        ∧ s'.crew? t.crew = some k' ∧ k' = { k with status := .retiring, drainTill := none })

/-- R29 step 6: a word whose encoding checks fail traps 0x01 illegal instruction before any effect. -/
def Sys2Proof.Claims.IllFormedWordsTrap : Prop :=
  ∀ (i : Instr) (s : State) (t : Team) (k : Crew) (c : Clause), s.Ready t k c → s.capNet = true → i.wf = false →
    ∃ s' t', exec i s = .next s' ∧ s.Trapped s' t t' 0x01 c.hdrVA

/-! ## Global memory, from the core -/

/-- A(L) of R222: the base pair, the offset word and the scaled offset; none when a word is poisoned. -/
def Sys2Proof.Claims.address (t : Team) (x : Val) (off : Word) : Option VA :=
  match t.uniform 127, t.uniform 126, x with
  | .word hi, .word lo, .word o => some ((hi ++ lo) + (o + off).setWidth 64)
  | _, _, _ => none

/-- The accesses of a load and of a store of n registers from vd, over some lanes (R224). -/
def Sys2Proof.Claims.loads (t : Team) (m : Mask) (a : BitVec 7) (off : Word) : List Acc :=
  (Mask.lanes m).map (fun l => { lane := l, va := address t (t.lane a.toNat l) off, bad := false, reqs := fun pa => [{ lane := l, pa := pa, data := [] }] })
def Sys2Proof.Claims.stores (t : Team) (m : Mask) (d a : BitVec 7) (n size : Nat) (off : Word) : List Acc :=
  (Mask.lanes m).map (fun l =>
    let ws := (List.range n).map (fun j => t.lane (d.toNat + j) l)
    { lane := l, va := address t (t.lane a.toNat l) off, bad := ws.any Val.isPoison, reqs := fun pa => [{ lane := l, pa := pa, data := bytesOf size ws }] })

/-- The global base and the units of a register group have landed. -/
abbrev Sys2Proof.Claims.baseLanded (t : Team) : Prop := t.landed [.uni 126, .uni 127]
def Sys2Proof.Claims.group (d : BitVec 7) (n : Nat) (m : Mask) : List UnitRef :=
  (List.range n).flatMap (fun j => (Mask.lanes m).map (UnitRef.vec (d.toNat + j)))

/-- A register group is aligned to its size and within a bound (R74). -/
abbrev Sys2Proof.Claims.groupOk (d : BitVec 7) (n top : Nat) : Prop := d.toNat % n = 0 ∧ d.toNat + n ≤ top

/-- What the packets of an access are like (R224, R225): their kind, their order, and the ordered path of its holder. -/
structure Sys2Proof.Claims.Wire where
  kind : ReqKind
  ordered : Bool := true
  release : Bool := false
  ofFlag : Bool := false
  acquire : Bool := false

/-- An access goes out: when no acquire of the team is outstanding (R228), the checks of R223 pass for every access, nothing holds a packet
back (R227, R229, R230) and the counter is not full (R26), the instruction sends its packets, one for each mask word, holder and line (R224),
carrying every access and no other, on the path that R225 gives; its counter rises, the units it will write are pending, and no byte of memory
has changed. -/
def Sys2Proof.Claims.goesOut (s : State) (i : Instr) (t : Team) (k : Crew) (c : Clause) (passes : Nat) (q : Ask) (l : Wire) (xs : List Acc) (w : BitVec 3)
    (dest : Nat → List UnitRef) : Prop :=
  ∀ s1 ps, s.acquiring s.cur = false → s.resolve k q xs = (s1, .ok ps) → ps ≠ [] → (l.release = true → k.storePoison = false) →
    (∀ x ∈ ps, ∀ r ∈ x.acc.reqs x.pa, s.granuleBusy s.cur x.ann.holder l.ordered (r.pa / 16) = false) →
    (∀ x ∈ ps, s.egressFull k.die x.ann.holder ((s.pickPath k.die x.ann.holder l.ordered).getD 0) l.kind.writes = false) →
    s.heldBack s.cur = false → (w.toNat < 6 → t.counter w.toNat ≠ 63) →
    s.writable t (ps.flatMap (fun x => dest x.acc.lane)) → (ps.map (fun x => x.acc.lane)).Nodup →
    ∃ s2 new op, s.Does i s2 t (t.advance 1) k (t.raised w) passes [] (ps.flatMap (fun x => dest x.acc.lane)) 0
      ∧ s2 = { s with teams := s2.teams, cores := s2.cores, dies := s2.dies, piers := s2.piers, pkts := s.pkts ++ new, ops := s.ops ++ [op]
                      nextId := s2.nextId, free := s2.free, tagFails := s2.tagFails }
      ∧ (∀ u, u ≠ s.cur → s2.team? u = s.team? u) ∧ new.length = (groupKeys ps).length
      ∧ (∀ p ∈ new, p.kind = l.kind ∧ p.ordered = l.ordered ∧ p.team = s.cur ∧ p.src = k.die ∧ p.world = k.world ∧ p.size = q.size
          ∧ p.hdrVA = c.hdrVA ∧ p.ofFlag = l.ofFlag ∧ (l.ordered = true → p.path = (s.orderedPath k.die p.holder).getD 0)
          ∧ ∀ r ∈ p.lanes, r.lane / 32 = p.pass)
      ∧ (∀ x ∈ ps, ∃ p ∈ new, p.holder = x.ann.holder ∧ ∀ r ∈ x.acc.reqs x.pa, r ∈ p.lanes)
      ∧ (∀ p ∈ new, ∀ r ∈ p.lanes, ∃ x ∈ ps, p.holder = x.ann.holder ∧ r ∈ x.acc.reqs x.pa)
      ∧ op.team = s.cur ∧ op.w = w ∧ op.acquire = l.acquire ∧ op.outs.map Out.pkt = new.map Packet.id

/-- R233 to R235: `ld.g`, `ld.a` and `ld.u` send their requests. -/
def Sys2Proof.Claims.GlobalLoadsGoOut : Prop :=
  ∀ (z : BitVec 3) (d a : BitVec 7) (f : BitVec 6) (sc w : BitVec 3) (z1 : BitVec 1) (s : State) (t : Team) (k : Crew) (c : Clause),
    s.Ready t k c → Mask.none (t.acting c) = false → z ≠ 7 → sc.toNat < 6 → w ≠ 6 → baseLanded t →
    let m := t.acting c
    let dest := fun l => (List.range (szRegs z)).map (fun j => UnitRef.vec (d.toNat + j) l)
    let n := if z1 = 1 then 2 else 1
    (groupOk d (szRegs z) t.vN → t.holds [a] → t.landed (laneUnits a m) → t.landed (group d (szRegs z) m) →
      goesOut s (.ldG z d a f w) t k c (Mask.passes m) { rights := { rd := true }, size := szBytes z, homeOnly := false, touch := d == 0 }
        { kind := .load } (loads t m a (f.signExtend 32 * BitVec.ofNat 32 (szBytes z))) w dest
      ∧ goesOut s (.ldA z d a sc w) t k c (Mask.passes m) { rights := { rd := true }, size := szBytes z, homeOnly := true, touch := d == 0 }
        { kind := .acquire, acquire := true } (loads t m a 0) w dest)
    ∧ (groupOk d n 128 → t.landed [.uni a.toNat] → t.landed ((List.range n).map (fun j => UnitRef.uni (d.toNat + j))) →
      goesOut s (.ldU z1 d a f w) t k c 1 { rights := { rd := true }, size := 4 * n, homeOnly := false, uniform := true } { kind := .load }
        [{ lane := 0, va := address t (t.uniform a.toNat) (f.signExtend 32 * BitVec.ofNat 32 (4 * n)), bad := false
           reqs := fun pa => [{ lane := 0, pa := pa, data := [] }] }] w
        (fun _ => (List.range n).map (fun j => UnitRef.uni (d.toNat + j))))

/-- R233 to R235: `st.g`, `st.gx`, `st.l` and `st.u` send their bytes; poisoned words go as poisoned bytes (R154). -/
def Sys2Proof.Claims.GlobalStoresGoOut : Prop :=
  ∀ (z : BitVec 3) (d a : BitVec 7) (f : BitVec 6) (sc w : BitVec 3) (z1 o : BitVec 1) (s : State) (t : Team) (k : Crew) (c : Clause),
    s.Ready t k c → Mask.none (t.acting c) = false → z ≠ 7 → sc.toNat < 6 → w ≠ 6 → baseLanded t →
    let m := t.acting c
    let n := if z1 = 1 then 2 else 1
    let q : Ask := { rights := { wr := true }, size := szBytes z, homeOnly := true }
    let off := f.signExtend 32 * BitVec.ofNat 32 (szBytes z)
    (groupOk d (szRegs z) t.vN → t.holds [a] → t.landed (laneUnits a m) → t.landed (group d (szRegs z) m) →
      goesOut s (.stG z d a f w) t k c (Mask.passes m) q { kind := .store } (stores t m d a (szRegs z) (szBytes z) off) w (fun _ => [])
      ∧ goesOut s (.stGx z d a f w) t k c (Mask.passes m) q { kind := .relaxed, ordered := false } (stores t m d a (szRegs z) (szBytes z) off) w (fun _ => [])
      ∧ goesOut s (.stL z d a sc w o) t k c (Mask.passes m) q { kind := .release, release := true, ofFlag := o == 1 }
          (stores t m d a (szRegs z) (szBytes z) 0) w (fun _ => []))
    ∧ (groupOk d n 128 → t.landed [.uni a.toNat] → t.landed ((List.range n).map (fun j => UnitRef.uni (d.toNat + j))) →
      let ws := (List.range n).map (fun j => t.uniform (d.toNat + j))
      goesOut s (.stU z1 d a f w) t k c 1 { rights := { wr := true }, size := 4 * n, homeOnly := true, uniform := true } { kind := .store }
        [{ lane := 0, va := address t (t.uniform a.toNat) (f.signExtend 32 * BitVec.ofNat 32 (4 * n)), bad := ws.any Val.isPoison
           reqs := fun pa => [{ lane := 0, pa := pa, data := bytesOf (4 * n) ws }] }] w (fun _ => []))

/-- The atomics with their function numbers and operand registers (R236). -/
def Sys2Proof.Claims.atomics : List ((BitVec 7 → BitVec 7 → BitVec 3 → BitVec 3 → BitVec 2 → Instr) × Nat × Nat) :=
  [(.atAdd, 0, 1), (.atAnd, 1, 1), (.atOr, 2, 1), (.atXor, 3, 1), (.atMin, 4, 1), (.atMax, 5, 1), (.atMinu, 6, 1), (.atMaxu, 7, 1),
   (.atXchg, 8, 1), (.atCas, 9, 2), (.atFadd, 10, 1)]

/-- R236, R238: atomics send their operand words and will write the old words; a vector atomic sends one packet for each pass to the line at
the address of the pass's lowest acting lane, and writes no register. -/
def Sys2Proof.Claims.AtomicsGoOut : Prop :=
  ∀ (d a : BitVec 7) (sc w : BitVec 3) (o : BitVec 2) (s : State) (t : Team) (k : Crew) (c : Clause),
    s.Ready t k c → Mask.none (t.acting c) = false → sc.toNat < 6 → (o = 0 → sc = 0) → w ≠ 6 → baseLanded t →
    t.holds [a] → t.landed (laneUnits a (t.acting c)) →
    let m := t.acting c
    (∀ op ∈ atomics, groupOk d op.2.2 t.vN → t.landed (group d op.2.2 m) →
      goesOut s (op.1 d a sc w o) t k c (Mask.passes m) { rights := { rd := true, wr := true }, size := 4, homeOnly := true }
        { kind := .atomic op.2.1, release := o == 2 || o == 3, acquire := o == 1 || o == 3 }
        (stores t m d a op.2.2 (4 * op.2.2) 0) w (fun l => [.vec d.toNat l]))
    ∧ (o = 0 ∨ o = 2 → t.holds [d] → t.landed (laneUnits d m) →
      ∀ op ∈ [(Instr.vatF32, false), (Instr.vatBf16, true)],
        goesOut s (op.1 d a sc w o) t k c (Mask.passes m) { rights := { rd := true, wr := true }, size := 128, homeOnly := true }
          { kind := .vatomic op.2, ordered := o == 2, release := o == 2 }
          ((Mask.words m).filterMap (fun j => (lanesIn m j).head?.map (fun l0 =>
            { lane := l0, va := address t (t.lane a.toNat l0) 0, bad := (lanesIn m j).any (fun l => (t.lane d.toNat l).isPoison)
              reqs := fun pa => (lanesIn m j).map (fun l => { lane := l, pa := pa + 4 * (l % 32), data := bytesOf 4 [t.lane d.toNat l] }) }))) w (fun _ => []))

/-- R223: the checks come in order, each over every access before the next, and the first that fails reports its lowest lane: a poisoned
address, then misalignment with the address as the fault VA. -/
def Sys2Proof.Claims.AccessChecksInOrder : Prop :=
  ∀ (s : State) (k : Crew) (q : Ask) (xs : List Acc), q.uniform = false →
    (∀ x, xs.find? (fun a => a.va.isNone) = some x → ∃ tr, s.resolve k q xs = (s, .error tr) ∧ tr.cause = 0x10 ∧ tr.lane = some x.lane)
    ∧ ((∀ a ∈ xs, a.va.isSome) → ∀ x va, xs.find? (fun a => (a.va.getD 0).toNat % q.size != 0) = some x → x.va = some va →
        ∃ tr, s.resolve k q xs = (s, .error tr) ∧ tr.cause = 0x09 ∧ tr.lane = some x.lane ∧ tr.va = some va)
    ∧ (∀ s1 ps, s.resolve k q xs = (s1, .ok ps) → s.Looked s1
        ∧ ∀ p ∈ ps, p.acc ∈ xs ∧ (∃ va, p.acc.va = some va ∧ va.toNat % q.size = 0) ∧ s1.choose k.die k.die k.world q.homeOnly p.pa = some p.ann
          ∧ (s1.orderedPath k.die p.ann.holder).isSome ∧ ¬ (p.acc.bad = true ∧ p.ann.noPoison = true))

/-- R206: the entry chosen covers the address and is usable by the world, and no other usable entry has a longer prefix, or is as long and
nearer, or as long and near with a lower holder. -/
def Sys2Proof.Claims.HolderChosenByPrefixAndDistance : Prop :=
  ∀ (s : State) (node src world : Nat) (homeOnly : Bool) (pa : Nat) (a : Ann), s.choose node src world homeOnly pa = some a →
    (a ∈ (s.node node).table ∧ a.covers pa = true ∧ (a.world = world ∨ a.world = 0) ∧ (homeOnly = true → a.kind = .home))
    ∧ ∀ b ∈ (s.node node).table, b.covers pa = true → (b.world = world ∨ b.world = 0) → (homeOnly = true → b.kind = .home) →
      b.len < a.len ∨ (b.len = a.len ∧ (distance src a.holder < distance src b.holder
        ∨ (distance src a.holder = distance src b.holder ∧ a.holder ≤ b.holder)))

/-! ## Words whose passes issue one by one (R49) -/

/-- The mask words still to issue, the pass that issues now, and how many are left after it. -/
def Sys2Proof.Claims.left (t : Team) (c : Clause) : Mask := Mask.from (t.acting c) c.issuedTo
def Sys2Proof.Claims.pass (t : Team) (c : Clause) : Mask := Mask.first (left t c) 1
def Sys2Proof.Claims.later (t : Team) (c : Clause) : Nat := Mask.passes (left t c) - 1

/-- The team after the pass: past the word when it was the last, else at the word, whose outstanding instruction is `op`. -/
def Sys2Proof.Claims.onwards (t : Team) (c : Clause) (op : Nat) : Team :=
  if later t c = 0 then t.advance 1 else { t with clause := some (c.cutAt (pass t c) op) }

/-- The team stands at such a word with a pass still to issue. -/
structure Sys2Proof.Claims.AtPass (s : State) (t : Team) (k : Crew) (c : Clause) : Prop extends s.AtWord t k c where
  some : Mask.none (left t c) = false
  flags : c.flags = 0

/-- The number of the word's outstanding instruction: new with the first pass. Its record: what the pass owes, and the passes left. -/
def Sys2Proof.Claims.opNumber (s : State) (c : Clause) : Nat := if c.opId = 0 then s.nextId else c.opId
def Sys2Proof.Claims.outstanding (s s2 : State) (c : Clause) (w : BitVec 3) (owed : List Owed) (n : Nat) : Prop :=
  (c.opId = 0 → ∃ o, s2.ops = s.ops ++ [o] ∧ o.id = s.nextId ∧ o.team = s.cur ∧ o.w = w ∧ o.owed = owed ∧ o.parts = n)
  ∧ (c.opId ≠ 0 → ∀ o, s.op? c.opId = some o →
      s2.ops = s.ops.map (fun x => if x.id = c.opId then { o with owed := o.owed ++ owed, parts := n } else x))

/-- The wait counters after a pass: the first raises the word's counter, and one that is complete when its last pass has issued lowers it
again (R26). -/
def Sys2Proof.Claims.entering (t : Team) (c : Clause) (w : BitVec 3) : Nat → BitVec 6 := if c.opId = 0 then t.raised w else t.counter
def Sys2Proof.Claims.leaving (t : Team) (c : Clause) (w : BitVec 3) (i : Nat) : BitVec 6 :=
  if later t c = 0 ∧ w.toNat < 6 ∧ i = w.toNat then entering t c w i - 1 else entering t c w i

/-! ## The scratchpad, the quad window and the tag table -/

/-- No team has changed; and no more of any team than its wait counters has. -/
def Sys2Proof.Claims.teamsKept (s s2 : State) : Prop := ∀ u, s2.team? u = s.team? u
def Sys2Proof.Claims.calm (s s2 : State) : Prop :=
  ∀ u, (s.team? u = none → s2.team? u = none) ∧ ∀ t, s.team? u = some t → ∃ t', s2.team? u = some t' ∧ t' = { t with waits := t'.waits }

/-- The byte address of a lane whose offset word is x, and its place in a scratchpad of the crew (R148). -/
def Sys2Proof.Claims.spot (x off : Word) : Nat := (x + off).toNat
abbrev Sys2Proof.Claims.spotOk (k : Crew) (A size : Nat) : Prop := A % size = 0 ∧ A + size ≤ 1024 * k.spk

/-- The last of some writes to byte b, in order, and what byte b then holds where a granule of g bytes is poisoned as a whole: a poisoned
byte poisons it, part of a poisoned granule leaves it poisoned, and the whole of it with ordinary data clears it (R79, R151, R244). -/
def Sys2Proof.Claims.lastWrite (ws : List (Nat × PByte)) (b : Nat) : Option PByte := (ws.reverse.find? (fun w => w.1 == b)).map Prod.snd
def Sys2Proof.Claims.stored (g : Nat) (old : Nat → PByte) (ws : List (Nat × PByte)) (b : Nat) : PByte :=
  let all := (List.range g).map (fun i => b / g * g + i)
  if all.any (fun x => lastWrite ws x == some none) then none
  else if all.all (fun x => (lastWrite ws x).isSome) || (old b).isSome then (lastWrite ws b).getD (old b)
  else none

/-- R33: a sub-word load extends by zero or by the sign, a wider one fills its registers in order, and a store writes the low bytes; a
poisoned byte poisons its word, a poisoned word gives poisoned bytes. -/
def Sys2Proof.Claims.BytesAndRegisterWords : Prop :=
  (∀ b : Byte, wordsOf 1 false [some b] = [.word (b.setWidth 32)] ∧ wordsOf 1 true [some b] = [.word (b.signExtend 32)])
  ∧ (∀ b c : Byte, wordsOf 2 false [some b, some c] = [.word ((c ++ b).setWidth 32)] ∧ wordsOf 2 true [some b, some c] = [.word ((c ++ b).signExtend 32)])
  ∧ (∀ (n : Nat) (ws : List Word), 1 ≤ n → ws.length = n → wordsOf (4 * n) false (bytesOf (4 * n) (ws.map Val.word)) = ws.map Val.word)
  ∧ (∀ (n : Nat) (sg : Bool) (bs : List PByte), n < 4 → none ∈ bs → wordsOf n sg bs = [.poison])
  ∧ (∀ (n i : Nat) (ws : List Val), i < n → ws[i / 4]? = some .poison → (bytesOf n ws)[i]? = some none)
  ∧ (∀ (n i : Nat) (ws : List Val) (x : Word), i < n → ws[i / 4]? = some (.word x) → (bytesOf n ws)[i]? = some (some (x.extractLsb' (8 * (i % 4)) 8)))

/-- R49, R154: the passes of `ld.s` and `st.s` issue one by one. Each pass of `ld.s` takes the bytes of its lanes and will write them; each
pass of `st.s` writes its lanes' bytes as one store, the higher lane last (R151), and leaves every other byte. -/
def Sys2Proof.Claims.ScratchpadAccesses : Prop :=
  ∀ (z : BitVec 3) (d a : BitVec 7) (f : BitVec 6) (w : BitVec 3) (s : State) (t : Team) (k : Crew) (c : Clause) (x : Nat → Word),
    AtPass s t k c → z ≠ 7 → w ≠ 6 → s.acquiring s.cur = false → s.windowBusy s.cur = false →
    (c.opId = 0 → w.toNat < 6 → t.counter w.toNat ≠ 63) →
    let m := pass t c
    let size := szBytes z
    let A := fun l => spot (x l) (f.signExtend 32 * BitVec.ofNat 32 size)
    groupOk d (szRegs z) t.vN → t.holds [a] → t.landed (laneUnits a m) → t.landed (group d (szRegs z) m) →
    (∀ l ∈ Mask.lanes (left t c), t.lane a.toNat l = .word (x l) ∧ spotOk k (A l) size) →
    (s.writable t (group d (szRegs z) m) →
      ∃ s2 ld, s.Does (.ldS z d a f w) s2 t (onwards t c (opNumber s c)) k (entering t c w) 1 [] (group d (szRegs z) m) 0
        ∧ s2 = { s with teams := s2.teams, ops := s2.ops, lands := s.lands ++ [ld], nextId := s2.nextId }
        ∧ (∀ u, u ≠ s.cur → s2.team? u = s.team? u) ∧ outstanding s s2 c w (ld.writes.map Prod.fst) (later t c)
        ∧ ld.op = opNumber s c ∧ ld.team = s.cur
        ∧ ld.holder = (if ∃ y ∈ ld.writes, y.2 = .w .poison then some 0xFF else none)
        ∧ ld.writes = (Mask.lanes m).flatMap (fun l => (List.range (szRegs z)).map (fun j =>
            ({ unit := .vec (d.toNat + j) l, gen := t.gen (.vec (d.toNat + j) l) + 1 },
              .w ((wordsOf size (szSigned z) ((List.range size).map (fun i => k.spadByte (A l + i)))).getD j .poison)))))
    ∧ (s.matrixBusy s.cur = false →
      (c.opId ≠ 0 → ∃ o, s.op? c.opId = some o ∧ o.team = s.cur ∧ o.w = w ∧ o.outs = [] ∧ o.gathers = [] ∧ o.owed = []
        ∧ (w.toNat < 6 → t.counter w.toNat ≠ 0)) →
      let ws := (Mask.lanes m).flatMap (fun l => (List.range size).map (fun i =>
        (A l + i, (bytesOf size ((List.range (szRegs z)).map (fun j => t.lane (d.toNat + j) l))).getD i none)))
      ∃ s2 k2, s.Does (.stS z d a f w) s2 t (onwards t c (opNumber s c)) k (leaving t c w) 1 [] [] 0
        ∧ s2 = { s with teams := s2.teams, crews := s2.crews, ops := s2.ops, nextId := s2.nextId } ∧ (∀ u, u ≠ s.cur → s2.team? u = s.team? u)
        ∧ (∀ o ∈ s.ops, o.id ≠ c.opId → o ∈ s2.ops)
        ∧ (∀ u, s2.crew? u = if u = t.crew then some k2 else s.crew? u) ∧ k2 = { k with spad := k2.spad, spadPoison := k2.spadPoison }
        ∧ ∀ b, k2.spadByte b = stored 4 k.spadByte ws b)

/-- R155 to R157: `ld.sq` and `st.sq` send one request for each pass and target core, with the lanes' addresses and bytes. -/
def Sys2Proof.Claims.QuadWindowRequests : Prop :=
  ∀ (z : BitVec 3) (d a : BitVec 7) (f : BitVec 5) (w : BitVec 3) (wr : Bool) (s : State) (t : Team) (k : Crew) (c : Clause) (x : Nat → Word),
    s.Ready t k c → Mask.none (t.acting c) = false → z ≠ 7 → w ≠ 6 → s.acquiring s.cur = false → (w.toNat < 6 → t.counter w.toNat ≠ 63) →
    let m := t.acting c
    let size := szBytes z
    let A := fun l => spot (x l) (f.signExtend 32 * BitVec.ofNat 32 size)
    let place := fun l => k.core / 4 * 4 + A l / 2 ^ 19 % 4
    let dest := if wr then [] else group d (szRegs z) m
    groupOk d (szRegs z) t.vN → t.holds [a] → t.landed (laneUnits a m) → t.landed (group d (szRegs z) m) → s.writable t dest →
    (wr = true → (∃ l ∈ Mask.lanes m, place l = k.core) → s.matrixBusy s.cur = false) →
    (∀ l ∈ Mask.lanes m, t.lane a.toNat l = .word (x l) ∧ A l < 2 ^ 21
      ∧ ∃ q, s.ticketCrew k.die (place l) k.ticket = some q ∧ spotOk q.2 (A l % 2 ^ 19) size) →
    ∃ s2 op new, s.Does (if wr then .stSq z d a f w else .ldSq z d a f w) s2 t (t.advance 1) k (t.raised w) (Mask.passes m) [] dest 0
      ∧ s2 = { s with teams := s2.teams, ops := s.ops ++ [op], wins := s.wins ++ new, nextId := s2.nextId }
      ∧ (∀ u, u ≠ s.cur → s2.team? u = s.team? u) ∧ op.team = s.cur ∧ op.w = w ∧ op.parts = new.length
      ∧ (∀ r ∈ new, r.op = op.id ∧ r.team = s.cur ∧ r.ticket = k.ticket ∧ r.write = wr ∧ r.size = size ∧ r.hdrVA = c.hdrVA)
      ∧ (new.map (fun r => (r.core, r.lanes.head?.map (fun q => q.lane / 32)))).Nodup
      ∧ (∀ l ∈ Mask.lanes m, ∃ r ∈ new, r.core = coreKey k.die (place l) ∧ (r.lanes.filter (fun q => q.lane == l)) =
          [{ lane := l, pa := A l % 2 ^ 19, data := if wr then bytesOf size ((List.range (szRegs z)).map (fun j => t.lane (d.toNat + j) l)) else [] }])
      ∧ (∀ r ∈ new, ∀ q ∈ r.lanes, q.lane ∈ Mask.lanes m ∧ r.core = coreKey k.die (place q.lane) ∧ some (q.lane / 32) = r.lanes.head?.map (fun q => q.lane / 32))

/-- R153, R156: a window request at its port, with no earlier one of its team before it, reads or writes the scratchpad of the crew that
holds the ticket; where no crew holds it or the address is bad it writes nothing, poison lands, and the team will trap. -/
def Sys2Proof.Claims.WindowRequestAtItsPort : Prop :=
  ∀ (id : Nat) (s : State) (r : WinReq), s.wins.find? (fun x => x.id == id) = some r →
    (∀ x ∈ s.wins.takeWhile (fun x => x.id != id), x.team ≠ r.team ∨ x.core ≠ r.core) →
    (∀ u q, s.windowTarget r = .ok (u, q) → s.crew? u = some q → r.write = true →
      let ws := r.lanes.flatMap (fun l => (List.range l.data.length).map (fun i => (l.pa + i, l.data.getD i none)))
      ∃ s2 q2, exec (.windowRequestArrive id) s = .next s2 ∧ calm s s2 ∧ s2.crew? u = some q2 ∧ (∀ v, v ≠ u → s2.crew? v = s.crew? v)
        ∧ s2 = { s with wins := s.wins.filter (fun x => x.id != id), crews := s2.crews, ops := s2.ops, teams := s2.teams }
        ∧ q2 = { q with spad := q2.spad, spadPoison := q2.spadPoison } ∧ ∀ b, q2.spadByte b = stored 4 q.spadByte ws b)
    ∧ (∀ u q, s.windowTarget r = .ok (u, q) → r.write = false → r.dest ≠ [] →
      ∃ s2 ld, exec (.windowRequestArrive id) s = .next s2 ∧ calm s s2
        ∧ s2 = { s with wins := s.wins.filter (fun x => x.id != id), lands := s.lands ++ [ld], ops := s2.ops, teams := s2.teams, nextId := s.nextId + 1 }
        ∧ ld.op = r.op ∧ ld.team = r.team
        ∧ ld.writes = r.lanes.flatMap (fun l => landWrites r.dest r.size r.signed l.lane (q.spadBytes l.pa r.size)))
    ∧ (∀ tr t, s.windowTarget r = .error tr → 0 < r.size → s.team? r.team = some t → t.late = none →
      ∃ s2 t2 i, exec (.windowRequestArrive id) s = .next s2 ∧ s2.crews = s.crews ∧ s2.mem = s.mem ∧ s2.team? r.team = some t2
        ∧ t2 = { t with waits := t2.waits, late := some i } ∧ i.cause = tr.cause ∧ i.hdrVA = r.hdrVA ∧ i.laneMask = 0
        ∧ (∀ ld ∈ s2.lands, ld ∈ s.lands ∨ ∀ x ∈ ld.writes, x.2 = .w .poison))
    ∧ (s.ticketCrew (r.core / 144) (r.core % 144) r.ticket = none → ∃ tr, s.windowTarget r = .error tr ∧ tr.cause = 0x0B)
    ∧ (∀ q, s.ticketCrew (r.core / 144) (r.core % 144) r.ticket = some q → (∃ l ∈ r.lanes, ¬ spotOk q.2 l.pa r.size) →
        ∃ tr, s.windowTarget r = .error tr ∧ tr.cause = 0x09)

/-- The lanes of a tag instruction in ascending order, each seeing the bindings that those before it made (R161): the slots' tags after them
and the word of each lane. N slots, tags of 2^z bytes. -/
def Sys2Proof.Claims.tagRun (N z : Nat) (va : Nat → VA) (slot : Nat → Option Nat) (drop : Bool) :
    List Nat → (Nat → Option VA) → (Nat → Option VA) × (Nat → Word)
  | [], T => (T, fun _ => 0)
  | l :: ls, T =>
    let tag : VA := BitVec.ofNat 64 ((va l).toNat / 2 ^ z * 2 ^ z)
    let old := (List.range N).find? (fun n => T n == some tag)
    let T1 := fun n => if drop = true ∧ old = some n then none else T n
    let T2 := fun n => match slot l with | some j => if n = j then some tag else T1 n | none => T1 n
    let rest := tagRun N z va slot drop ls T2
    (rest.1, fun x => if x = l then (match old with | some n => BitVec.ofNat 32 n | none => 0xFFFFFFFF) else rest.2 x)

/-- R49, R158 to R161: `tlook`, `tins` and `tinv`, each pass of them, and `tflush`. -/
def Sys2Proof.Claims.TagTableResults : Prop :=
  ∀ (d a b : BitVec 7) (u : BitVec 1) (s : State) (t : Team) (k : Crew) (c : Clause) (va : Nat → VA) (n : Nat → Word),
    let tags := fun (k : Crew) (i : Nat) => (tget none k.tags i : Option VA)
    (AtPass s t k c → c.opId = 0 →
      let m := pass t c
      a.toNat % 2 = 0 → t.holds [d, a] → a.toNat + 1 < t.vN → t.landed (group a 2 m) → s.writable t (laneUnits d m) →
      (∀ l ∈ Mask.lanes (left t c), ∃ hi lo, t.lane a.toNat l = .word lo ∧ t.lane (a.toNat + 1) l = .word hi ∧ va l = hi ++ lo) →
      ∀ x ∈ [(Instr.tlook d a, false, false), (Instr.tinv d a, true, false), (Instr.tins d a b u, true, true)],
        (x.2.2 = true → (u = 0 → t.holds [b]) ∧ t.landed (secondUnits b u m)
          ∧ ∀ l ∈ Mask.lanes (left t c), t.second b u l = .word (n l) ∧ (n l).toNat < k.tent) →
        let r := tagRun k.tent (8 + k.tsz) va (fun l => if x.2.2 then some (n l).toNat else none) x.2.1 (Mask.lanes m) (tags k)
        ∃ s2 k2, s.Does x.1 s2 t (onwards t c 0) k t.counter 1 (laneWrites d m (fun l => .word (r.2 l))) [] 0
          ∧ s2 = { s with teams := s2.teams, crews := s2.crews } ∧ (∀ v, v ≠ s.cur → s2.team? v = s.team? v)
          ∧ (∀ v, s2.crew? v = if v = t.crew then some k2 else s.crew? v) ∧ k2 = { k with tags := k2.tags } ∧ ∀ i, tags k2 i = r.1 i)
    ∧ (s.Ready t k c → Mask.none (t.acting c) = false →
        ∃ s2 k2, s.Does .tflush s2 t (t.advance 1) k t.counter 1 [] [] 0 ∧ s2 = { s with teams := s2.teams, crews := s2.crews }
          ∧ (∀ v, v ≠ s.cur → s2.team? v = s.team? v) ∧ (∀ v, s2.crew? v = if v = t.crew then some k2 else s.crew? v)
          ∧ k2 = { k with tags := [] })

/-! ## The fabric: holders, replies, landings -/

/-- The new word of an atomic of R236 on ordinary words: the old word, x, and y of `cas`. -/
def Sys2Proof.Claims.atomicWord (fn : Nat) (old x y : Word) : Word :=
  if fn = 0 then wrap (old.toNat + x.toNat) else if fn = 1 then old &&& x else if fn = 2 then old ||| x else if fn = 3 then old ^^^ x
  else if fn = 4 then wrap (min old.toInt x.toInt) else if fn = 5 then wrap (max old.toInt x.toInt)
  else if fn = 6 then wrap (min old.toNat x.toNat : Nat) else if fn = 7 then wrap (max old.toNat x.toNat : Nat) else if fn = 8 then x
  else if fn = 9 then (if old = x then y else old) else (word32 (fp32.addV 0 (F old) (F x))).1

/-- The new word of an atomic or vector atomic, from the operand bytes of the lane and the old word (R236 to R238). -/
def Sys2Proof.Claims.atomicResult (kind : ReqKind) (data : List PByte) (old : Val) : Val :=
  match kind, valOf (data.take 4), old with
  | .atomic fn, .word x, .word o =>
    if fn = 9 then (match valOf (data.drop 4) with | .word y => .word (atomicWord 9 o x y) | .poison => .poison) else .word (atomicWord fn o x 0)
  | .atomic fn, .word x, .poison => if fn = 8 then .word x else .poison
  | .vatomic false, .word x, .word o => .word (word32 (fp32.addV 0 (F o) (F x))).1
  | .vatomic true, .word x, .word o => .word (packed bf16 (bf16.addV 0) o x).1
  | _, _, _ => .poison

/-- The lanes of an atomic at its holder, ascending, each seeing those before it: the bytes after them and what each returns. -/
def Sys2Proof.Claims.atomicRun (g : Nat) (kind : ReqKind) (at_ : LaneReq → Nat) : List LaneReq → (Nat → PByte) → (Nat → PByte) × List (Nat × List PByte)
  | [], M => (M, [])
  | r :: rs, M =>
    let old := (List.range 4).map (fun i => M (at_ r + i))
    let new := (List.range 4).map (fun i => (at_ r + i, (bytesOf 4 [atomicResult kind r.data (valOf old)]).getD i none))
    let rest := atomicRun g kind at_ rs (stored g M new)
    (rest.1, (r.lane, old) :: rest.2)

/-- A packet at its turn that nothing at its holder holds back, refuses or sends to mirrors (R201, R208, R211, R223, R226, R229, R240). -/
def Sys2Proof.Claims.unhindered (s : State) (p : Packet) : Prop :=
  s.holderSilent p.holder = false ∧ (8 ≤ p.holder ∧ p.holder < 16 → (s.pier (p.holder - 8)).fenced = false)
  ∧ p.lanes.filterMap (s.laneTransfer p) = [] ∧ s.refusal p = none ∧ s.lockedAt p = false ∧ s.reached p = true
  ∧ (p.carried.isSome → p.src ∉ (s.holder p.holder).marks) ∧ s.badLines p = [] ∧ (p.kind.writes = true → s.membersOf p = [])
  ∧ s.fencedWay p = false ∧ (s.die p.src).silent = false ∧ (∀ e ∈ (s.holder p.holder).owners, e.2.2 ≤ 45)
  ∧ (∀ r ∈ p.lanes, s.chanFailed p.holder (s.laneOff p r) = false ∧ s.laneOff p r + p.laneSize + r.data.length < 2 ^ 44
      ∧ s.laneOff p r % 128 + p.laneSize ≤ 128 ∧ ((∀ fn, p.kind ≠ .atomic fn) → r.data.length ≤ p.laneSize)
      ∧ ∀ i < p.laneSize + r.data.length, s.chanFailed p.holder (s.laneOff p r + i) = false)
  ∧ (∀ fn, p.kind = .atomic fn → fn ≤ 10 ∧ p.size = 4) ∧ (∀ b, p.kind = .vatomic b → ∀ r ∈ p.lanes, r.data.length = 4)

/-- The holder has performed a packet: a load returns its bytes, a store writes them, an atomic rewrites its words and returns the old ones.
No other byte, no team and no other part of the package changes but the holder's counts, its pier's watches and what the sending die keeps of
its egress (R343). -/
def Sys2Proof.Claims.performed (s s2 : State) (p : Packet) : Prop :=
  let M := s.byteAt p.holder
  let r := match p.kind with
    | .load => (M, p.lanes.map (fun (r : LaneReq) => (r.lane, (List.range p.size).map (fun i => M (s.laneOff p r + i)))))
    | .acquire => (M, p.lanes.map (fun (r : LaneReq) => (r.lane, (List.range p.size).map (fun i => M (s.laneOff p r + i)))))
    | .atomic _ => atomicRun (granuleOf p.holder) p.kind (s.laneOff p) p.lanes M
    | .vatomic _ => atomicRun (granuleOf p.holder) p.kind (s.laneOff p) p.lanes M
    | _ => (stored (granuleOf p.holder) M (p.lanes.flatMap (fun (r : LaneReq) => (List.range r.data.length).map (fun i => (s.laneOff p r + i, r.data.getD i none)))), [])
  ∃ rep, s2 = { s with pkts := s.pkts.filter (fun x => x.id != p.id), replies := s.replies ++ [rep], mem := s2.mem, holders := s2.holders
                       piers := s2.piers, transfers := s2.transfers, nextId := s2.nextId, dies := s2.dies }
    ∧ (∀ d, s2.die d = { s.die d with egress := (s2.die d).egress }) ∧ rep.pkt = p ∧ rep.ans = .done r.2 ∧ (p.kind.writes = false → s2.mem = s.mem)
    ∧ (∀ b, b < 2 ^ 44 → s2.byteAt p.holder b = r.1 b) ∧ (∀ h b, h ≠ p.holder → b < 2 ^ 44 → s2.byteAt h b = s.byteAt h b)
    ∧ (∀ h, s2.holder h = { s.holder h with arr := (s2.holder h).arr, seen := (s2.holder h).seen })

/-- R201, R224, R226, R229, R236 to R238: a packet at its turn is performed and answered; so is a held release whose counts are reached. -/
def Sys2Proof.Claims.HoldersPerformRequests : Prop :=
  ∀ (id : Nat) (s : State) (p : Packet), s.pkts.find? (fun x => x.id == id) = some p → unhindered s p → s.blocked p = false →
    (p.unsent = false → p.held = false → s.inFront p = false → s.replays p.src p.holder p.path false = false →
      s.stopped p.src p.holder p.path 0 false = false →
      ∃ s2, exec (.requestArrive id 0 0) s = .next s2 ∧ performed s s2 p)
    ∧ (p.held = true → ∃ s2, exec (.ofReleasePerform id) s = .next s2 ∧ performed s s2 { p with held := false })

/-- R201, R19, R299, R211, R240: where the holder does not perform a packet it changes no byte and answers why: poison when it is silent,
"moved" once a transfer has reached step 5, the cause of the first lane refused, "frozen" for a write from step 3 on. -/
def Sys2Proof.Claims.HoldersRefuseRequests : Prop :=
  ∀ (id : Nat) (s : State) (p : Packet), s.pkts.find? (fun x => x.id == id) = some p → p.unsent = false → p.held = false → s.blocked p = false →
    s.inFront p = false → s.replays p.src p.holder p.path false = false → s.stopped p.src p.holder p.path 0 false = false →
    (s.die p.src).silent = false →
    let answers := fun (a : Answer) => ∃ s2 rep, exec (.requestArrive id 0 0) s = .next s2 ∧ s2.replies = s.replies ++ [rep] ∧ rep.pkt = p ∧ rep.ans = a
      ∧ s2.pkts = s.pkts.filter (fun x => x.id != p.id) ∧ s2.mem = s.mem ∧ s2.teams = s.teams
      ∧ (a.isNak = true → p.kind.writes = true → p.src ∈ (s2.holder p.holder).marks)
    (s.holderSilent p.holder = true ∨ s.fencedWay p = true → answers .poisoned)
    ∧ (s.holderSilent p.holder = false → s.fencedWay p = false → (8 ≤ p.holder ∧ p.holder < 16 → (s.pier (p.holder - 8)).fenced = false) →
        let ts := p.lanes.filterMap (s.laneTransfer p)
        (∀ x, ts.find? (fun x => decide (5 ≤ x.step)) = some x → answers (.nakMoved x.newHome))
        ∧ ((∀ x ∈ ts, x.step < 5) → ∀ cause, s.refusal p = some cause → answers (.refused cause))
        ∧ ((∀ x ∈ ts, x.step < 5) → s.refusal p = none → p.kind.writes = true → (∃ x ∈ ts, 3 ≤ x.step) → answers .nakFrozen))
    ∧ (∀ r ∈ p.lanes, (s.mapAt p.holder p.world r.pa = none → s.laneRefusal p r = some 0x0A)
        ∧ ∀ a off, s.mapAt p.holder p.world r.pa = some (a, off) →
            (capacity p.holder ≤ off → s.laneRefusal p r = some 0x09)
            ∧ (off < capacity p.holder → s.ownerOf p.holder off ≠ p.world → s.ownerOf p.holder off ≠ 0 → s.laneRefusal p r = some 0x0C)
            ∧ (off < capacity p.holder → s.ownerOf p.holder off = p.world ∨ s.ownerOf p.holder off = 0 → s.laneRefusal p r = none))

/-- R228, R229: a packet held back goes out when the earlier accesses it waits for are done, a write with the next position of its path, an
ordered-flag release with the counts of that moment; until then it stays. A void notice counts its position once and marks the source (R360). -/
def Sys2Proof.Claims.PositionsAndCounts : Prop :=
  (∀ (id : Nat) (s : State) (p : Packet), s.pkts.find? (fun x => x.id == id) = some p → p.unsent = true →
    (s.maySend p = false → exec (.requestArrive id 0 0) s = .next s)
    ∧ (s.maySend p = true → ∃ s2 q, exec (.requestArrive id 0 0) s = .next s2
        ∧ s2 = { s with pkts := s.pkts.filter (fun x => x.id != id) ++ [q], dies := s2.dies, free := s2.free }
        ∧ q = { p with unsent := false, pos := q.pos, carried := q.carried, path := (s.pickPath p.src p.holder p.ordered).getD p.path }
        ∧ (p.ofFlag = false → q.carried = none)
        ∧ (p.ofFlag = true → q.carried = some ((List.range 4).map (fun i => tget 0 (s.die p.src).sent (sentKey p.holder i))))
        ∧ (p.kind.writes = true → q.pos = tget 0 (s.die p.src).sent (sentKey p.holder q.path) + 1
            ∧ tget 0 (s2.die p.src).sent (sentKey p.holder q.path) = q.pos)))
  ∧ (∀ (id h src path : Nat) (pos : BitVec 16) (s : State), s.notices.find? (fun n => n.1 == id) = some (id, .void h src path pos) → path < 4 →
      (s.holder h).seen.Nodup →
      let past := (pos - tget 0 (s.holder h).arr (arrKey src path)).toNat
      ∃ s2, exec (.voidNoticeReceive id) s = .next s2 ∧ s2.notices = s.notices.filter (fun n => n.1 != id) ∧ src ∈ (s2.holder h).marks
        ∧ s2 = { s with notices := s2.notices, holders := s2.holders } ∧ (∀ x, x ≠ h → s2.holder x = s.holder x)
        ∧ (s2.holder h).arrived src path = (s.holder h).arrived src path + (if past = 0 ∨ 32768 < past ∨ (arrKey src path, pos) ∈ (s.holder h).seen then 0 else 1))

/-- R224, R223, R240, R245, R246: a reply to a load puts each pass whose lines have all come on its way to the registers, poisoned where it
is poison, with the holder to report; a refusal lands poison and will trap the team; a poisoned write sets the crew's store-poison flag. -/
def Sys2Proof.Claims.RepliesReachTheTeam : Prop :=
  ∀ (id : Nat) (s : State) (r : Reply), s.replies.find? (fun x => x.id == id) = some r → s.replyFirst r = true → r.ans.isNak = false →
    let p := r.pkt
    let data := match r.ans with | .done data => data | _ => p.lanes.map (fun q => (q.lane, List.replicate p.laneSize none))
    ∃ s2, exec (.replyReceive id) s = .next s2 ∧ s2.replies = s.replies.filter (fun x => x.id != id) ∧ s2.mem = s.mem
      ∧ (∀ u, (s.team? u = none → s2.team? u = none)
          ∧ ∀ t, s.team? u = some t → ∃ t2, s2.team? u = some t2 ∧ t2 = { t with waits := t2.waits, late := t2.late }
            ∧ (t2.late ≠ t.late → u = p.team ∧ ∃ cause i, r.ans = .refused cause ∧ t2.late = some i ∧ i.cause = cause ∧ i.hdrVA = p.hdrVA ∧ i.laneMask = 0))
      ∧ (∀ t cause, s.team? p.team = some t → t.late = none → r.ans = .refused cause → ∃ t2, s2.team? p.team = some t2 ∧ t2.late.isSome)
      ∧ (∀ o g, s.op? p.op = some o → g ∈ o.gathers → g.pkts = [p.id] → g.dest ≠ [] →
          ∃ ld ∈ s2.lands, ld.op = p.op ∧ ld.team = p.team ∧ ld.writes = (g.got ++ data).flatMap (fun q => landWrites g.dest g.size g.signed q.1 q.2)
            ∧ ld.holder = if data.any (fun q => q.2.any Option.isNone) then some (BitVec.ofNat 8 p.holder) else g.poisonFrom.map (BitVec.ofNat 8))
      ∧ (∀ o ∈ s2.ops, o.id = p.op → ∀ x ∈ o.outs, x.pkt ≠ p.id)
      ∧ (∀ k, s.crew? p.crew = some k → s2.crew? p.crew = some { k with storePoison := k.storePoison || (r.ans == .poisoned && p.kind.writes) })
      ∧ (∀ v, v ≠ p.crew → s2.crew? v = s.crew? v)

/-- R78, R245: a landing writes a unit and clears its pending bit only if the generation it carries is still the unit's, and poison that it
brings in is charged to the holder it came from; no other unit and no other team changes but in wait counters. -/
def Sys2Proof.Claims.LandingsWriteRegisters : Prop :=
  ∀ (id : Nat) (s : State) (l : Landing) (t : Team), s.lands.find? (fun x => x.id == id) = some l → s.team? l.team = some t →
    (l.writes.map (fun w => w.1.unit)).Nodup → (∀ w ∈ l.writes, ∃ v, w.2 = .w v ∧ ((∃ n i, w.1.unit = .vec n i) ∨ ∃ n, w.1.unit = .uni n)) →
    ∃ s2 t2, exec (.landing id) s = .next s2 ∧ s2.lands = s.lands.filter (fun x => x.id != id) ∧ s2.team? l.team = some t2
      ∧ s2 = { s with lands := s2.lands, teams := s2.teams, ops := s2.ops }
      ∧ (∀ w ∈ l.writes, w.1.unit.wired = false → t.gen w.1.unit = w.1.gen → t2.unit w.1.unit = w.2 ∧ t2.pend w.1.unit = false)
      ∧ (∀ r, (∀ w ∈ l.writes, w.1.unit = r → r.wired = true ∨ t.gen r ≠ w.1.gen) → t2.unit r = t.unit r ∧ t2.pend r = t.pend r)
      ∧ (∀ r, t2.gen r = t.gen r) ∧ t2 = { t with v := t2.v, u := t2.u, fifo := t2.fifo, waits := t2.waits, poisonHolder := t2.poisonHolder }
      ∧ t2.poisonHolder = (if (∃ w ∈ l.writes, w.2 = .w .poison ∧ t.gen w.1.unit = w.1.gen) then l.holder.getD t.poisonHolder else t.poisonHolder)
      ∧ (∀ u, u ≠ l.team → (s.team? u = none → s2.team? u = none) ∧ ∀ q, s.team? u = some q → ∃ q2, s2.team? u = some q2 ∧ q2 = { q with waits := q2.waits })

/-- R212: a NAKed request is sent again, counting its NAKs; the 64th ends its retries with trap 0x0A and a lane mask of 0. -/
def Sys2Proof.Claims.NaksAreResent : Prop :=
  ∀ (id : Nat) (s : State) (r : Reply), s.replies.find? (fun x => x.id == id) = some r → s.replyFirst r = true → r.ans.isNak = true →
    let p := r.pkt
    (63 ≤ p.naks → ∀ t, s.team? p.team = some t → t.late = none →
      ∃ s2 t2 i, exec (.nakReceive id) s = .next s2 ∧ s2.replies = s.replies.filter (fun x => x.id != id) ∧ s2.pkts = s.pkts ∧ s2.mem = s.mem
        ∧ s2.team? p.team = some t2 ∧ t2 = { t with waits := t2.waits, late := some i } ∧ i.cause = 0x0A ∧ i.hdrVA = p.hdrVA ∧ i.laneMask = 0)
    ∧ (p.naks < 63 → (∀ a, r.ans ≠ .nakMoved a) →
        (s.pickPath p.src p.holder p.ordered).isSome = true →
        ∃ s2 q, exec (.nakReceive id) s = .next s2 ∧ s2.replies = s.replies.filter (fun x => x.id != id) ∧ s2.pkts = s.pkts ++ [q] ∧ s2.mem = s.mem
          ∧ s2.teams = s.teams ∧ q.naks = p.naks + 1 ∧ q.id = p.id ∧ q.holder = p.holder ∧ q.lanes = p.lanes ∧ q.kind = p.kind ∧ q.ofFlag = false
          ∧ q.carried = none ∧ q.held = false)
    ∧ (p.naks < 63 → ∀ a, r.ans = .nakMoved a → ∃ s2, exec (.nakReceive id) s = .next s2 ∧ s2.replies = s.replies.filter (fun x => x.id != id)
        ∧ s2.mem = s.mem ∧ ((∀ e ∈ (s.node p.src).table, e.sameKey a = false) → a ∈ (s2.node p.src).table))

/-- R208: a mirror that receives a prepare records its bytes and acknowledges; the last acknowledgement makes the home perform the write and
send the commits; a mirror that receives the commit then holds the bytes. -/
def Obligations.MirrorWritesInTwoSteps : Prop :=
  (∀ (id : Nat) (s : State) (m : MirrorMsg), s.prepares.find? (fun x => x.id == id) = some m → s.forwardStopped m.home m.mirror 1 = false →
    s.holderSilent m.mirror = false →
    exec (.mirrorPrepareReceive id) s = .next { s with
      prepares := s.prepares.filter (fun x => x.id != id), nextId := s.nextId + 1, prepAcks := s.prepAcks ++ [{ m with id := s.nextId }]
      prepared := s.prepared ++ [{ write := m.write, mirror := m.mirror, home := m.home, cells := s.allowed m, accs := m.accs }] })
  ∧ (∀ (id : Nat) (s : State) (m : MirrorMsg) (w : MirrorWrite), s.prepAcks.find? (fun x => x.id == id) = some m →
      s.mirrors.find? (fun x => x.id == m.write) = some w → s.forwardStopped m.mirror m.home 2 = false →
      (w.waiting.filter (· != m.mirror) ≠ [] → exec (.prepareAckReceive id) s = .next { s with
        prepAcks := s.prepAcks.filter (fun x => x.id != id)
        mirrors := s.mirrors.map (fun x => if x.id == m.write then { w with waiting := w.waiting.filter (· != m.mirror) } else x) })
      ∧ (w.waiting.filter (· != m.mirror) = [] → w.id = m.write → (s.die w.pkt.src).silent = false →
          ∃ s2 rep, exec (.prepareAckReceive id) s = .next s2 ∧ s2.mirrors = s.mirrors.filter (fun x => x.id != w.id)
            ∧ s2.mem = (s.perform w.pkt).1.mem ∧ s2.replies = s.replies ++ [rep] ∧ rep.pkt = w.pkt ∧ s2.teams = s.teams
            ∧ (∀ h ∈ w.members, s.holderSilent h = false → ∃ x ∈ s2.commits, x.write = w.id ∧ x.mirror = h)))
  ∧ (∀ (id : Nat) (s : State) (m : MirrorMsg) (x : Prepared), s.commits.find? (fun c => c.id == id) = some m →
      s.forwardStopped m.home m.mirror 1 = false →
      s.prepared.find? (fun y => y.write == m.write && y.mirror == m.mirror) = some x →
      ∃ s2, exec (.mirrorCommitReceive id) s = .next s2 ∧ s2.commits = s.commits.filter (fun c => c.id != id)
        ∧ s2.prepared = s.prepared.filter (fun y => !(y.write == m.write && y.mirror == m.mirror)) ∧ s2.mem = (s.putBytes m.mirror x.cells).mem
        ∧ s2.teams = s.teams ∧ s2.replies = s.replies)

/-! ## The matrix array -/

/-- K of a plane count, and an element of a row of P planes: the weighted sum of its bits, of a row in scratchpad at x and of the bytes of a
row (R94). -/
def Sys2Proof.Claims.K (planes : Nat) : Nat := [384, 192, 128, 96, 72, 64, 48, 48].getD (planes - 1) 48
def Sys2Proof.Claims.planeByte (x kk g i : Nat) : Nat := x + (g * kk / 8 + i / 8)
def Sys2Proof.Claims.weighted (byte : Nat → Byte) (kk planes : Nat) (sgn : Bool) (i : Nat) : Int :=
  ((List.range planes).map (fun g =>
    if (byte (g * kk / 8 + i / 8)).getLsbD (i % 8) then (if sgn = true ∧ g + 1 = planes then -(2 : Int) ^ g else 2 ^ g) else 0)).sum
def Sys2Proof.Claims.element (k : Crew) (x kk planes : Nat) (sgn : Bool) (i : Nat) : Int := weighted (fun n => tget 0 k.spad (x + n)) kk planes sgn i
def Sys2Proof.Claims.columnElement (row : List PByte) (kk planes : Nat) (sgn : Bool) (i : Nat) : Int :=
  weighted (fun n => (row.getD n none).getD 0) kk planes sgn i

/-- A row in scratchpad holds a poisoned word; the sum of products of it and a column row under a descriptor, none where one is poisoned
(R166). -/
def Sys2Proof.Claims.rowPoisoned (k : Crew) (x kk planes : Nat) : Prop := ∃ i, i < planes * kk / 8 ∧ tget false k.spadPoison ((x + i) / 4) = true
def Sys2Proof.Claims.products (k : Crew) (d : BitVec 64) (x : Nat) (row : List PByte) : Int :=
  ((List.range (tileK d)).map (fun i =>
    element k x (tileK d) (tilePA d) (tileSA d) i * columnElement row (tileK d) (tilePB d) (tileSB d) i)).sum
def Sys2Proof.Claims.eitherPoisoned (k : Crew) (d : BitVec 64) (x : Nat) (row : List PByte) : Prop :=
  rowPoisoned k x (tileK d) (tilePA d) ∨ none ∈ row

/-- One element of an accumulator; and what it becomes of its old value (0 under a zeroing form) and a sum, which overflows where it leaves
the INT32 range (R166). -/
def Sys2Proof.Claims.accElement (t : Team) (a i c : Nat) : Val := tget (.word 0) (t.unit (.acc a)).accu.1 (64 * i + c)
def Sys2Proof.Claims.becomes (zero : Bool) (old new : Val) (bad : Prop) (sum : Int) : Prop :=
  (bad → new = .poison) ∧ (¬ bad → ∀ w, (if zero then Val.word 0 else old) = .word w → new = .word (BitVec.ofInt 32 (w.toInt + sum)))
  ∧ (¬ bad → zero = false → old = .poison → new = .poison)
def Sys2Proof.Claims.overflows (zero : Bool) (old : Val) (bad : Prop) (sum : Int) : Prop :=
  ¬ bad ∧ ∃ w : Word, (if zero then Val.word 0 else old) = .word w ∧ (w.toInt + sum < -2 ^ 31 ∨ 2 ^ 31 ≤ w.toInt + sum)

/-- R49, R168 to R172: a matrix word whose checks pass enters the array queue pass by pass, each while the queue has a place, with the row
addresses of its acting lanes and the base of each quarter or product that takes part; its accumulators are pending, and nothing else has
changed. -/
def Sys2Proof.Claims.MatrixWordsQueue : Prop :=
  ∀ (ad : BitVec 6) (a b : BitVec 7) (tl : BitVec 4) (zero batched : Bool) (d : BitVec 64) (s : State) (t : Team) (k : Crew) (c : Clause) (w : Nat),
    AtPass s t k c → Mask.words (pass t c) = [w] → s.acquiring s.cur = false →
    let m := left t c
    let i := match zero, batched with
      | false, false => Instr.mma ad a b tl
      | true, false => .mmaZ ad a b tl
      | false, true => .mmaB ad a tl
      | true, true => .mmaBz ad a tl
    let accs := (List.range 4).map (fun q => UnitRef.acc (ad.toNat + 4 * w + q))
    let base := fun w q => (List.range 8).map (fun j => 32 * w + 8 * q + j) |>.find? (fun l => Mask.has m l)
    let address := fun (r : BitVec 7) l => (t.lane r.toNat l).bits.toNat
    let rowOk := fun x planes => x % 4 = 0 ∧ x + planes * tileK d / 8 ≤ 1024 * k.spk
    let runs := fun v j => Mask.has m (32 * v + 2 * j) = true ∧ Mask.has m (32 * v + 2 * j + 1) = true
    ad.toNat % 4 = 0 → (∀ v ∈ Mask.words m, ad.toNat + 4 * v + 3 < t.aN) → t.holds [a] → (batched = false → t.holds [b]) →
    t.landed (laneUnits a (pass t c)) → (batched = false → ∀ q < 4, ∀ l, base w q = some l → t.pend (.vec b.toNat l) = false) →
    t.landed [.tile tl.toNat] → (∀ r ∈ accs, t.gen r + 1 ∉ s.carried s.cur t r) → t.unit (.tile tl.toNat) = .t d false →
    tilePA d ≠ 0 → tilePB d ≠ 0 → tileBAT d = batched → (∀ l ∈ Mask.lanes m, (t.lane a.toNat l).isPoison = false) →
    (batched = false → ∀ l ∈ Mask.lanes m, rowOk (address a l) (tilePA d)
      ∧ (base (l / 32) (l % 32 / 8) = some l → (t.lane b.toNat l).isPoison = false ∧ ∀ y < 64, rowOk (address b l + y * tileBSTR d) (tilePB d))) →
    (batched = true → ∀ v ∈ Mask.words m, ∀ j < 16, runs v j →
      (∀ y < 8, rowOk (address a (32 * v + 2 * j) + y * tileASTR d) (tilePA d)) ∧ ∀ y < 16, rowOk (address a (32 * v + 2 * j + 1) + y * tileBSTR d) (tilePB d)) →
    (s.core k.coreKey).array.length < 8 →
    ∃ s2 p, s.Does i s2 t (onwards t c (opNumber s c)) k t.counter 1 [] accs 0
      ∧ s2 = { s with teams := s2.teams, cores := s2.cores, ops := s2.ops, nextId := s2.nextId } ∧ (∀ u, u ≠ s.cur → s2.team? u = s.team? u)
      ∧ (∀ n, s2.core n = if n = k.coreKey then { s.core n with array := (s.core n).array ++ [p] } else s.core n)
      ∧ outstanding s s2 c 7 p.gens (later t c) ∧ p.gens = accs.map (fun r => { unit := r, gen := t.gen r + 1 })
      ∧ p.op = opNumber s c ∧ p.team = s.cur ∧ p.acc = ad.toNat + 4 * w ∧ p.zero = zero ∧ p.batched = batched ∧ p.desc = d ∧ p.acting = m.getD w 0
      ∧ p.rowsA = ((List.range 32).filter (fun j => Mask.has m (32 * w + j))).map (fun j => (j, address a (32 * w + j)))
      ∧ (batched = false → p.bases = (List.range 4).filterMap (fun q => (base w q).map (fun l => (q, address b l))))
      ∧ (batched = true → ∀ j x, (j, x) ∈ p.bases ↔ j < 16 ∧ runs w j ∧ x = address a (32 * w + 2 * j + 1))

/-- R162, R163, R166, R167, R170, R171: the array goes on with the pass at the head of its queue. Where the column rows in it are not those of
the pass, the B grant fetches them. Else the A grant is made, and each product block's elements take their sums; the rows of lanes that do not
act are zeroed under a zeroing form in quarter mode, every other element stays, and the overflow bit only rises. The pass leaves the queue
when no base of it is left, and then its accumulators are no longer pending from it. -/
def Sys2Proof.Claims.ArrayPassSums : Prop :=
  ∀ (core : Nat) (s : State) (p : MmaPass) (rest : List MmaPass) (t : Team) (k : Crew),
    (s.core core).array = p :: rest → s.fetchHeld p core = false → s.team? p.team = some t → s.crew? t.crew = some k →
    let bytes := fun x planes => (List.range (planes * tileK p.desc / 8)).map (fun i => k.spadByte (x + i))
    let per := if p.batched then 16 else 64
    ((∀ cs, (s.core core).cols = some cs → cs.serves p = false) →
      ∃ s2 cs, exec (.arrayPass core) s = .next s2 ∧ s2 = { s with cores := s2.cores } ∧ cs.serves p = true
        ∧ (∀ n, s2.core n = if n = core then { s.core n with cols := some cs } else s.core n)
        ∧ ∀ n c, c < per → (p.batched = true ∨ n = 0) → ∀ b, p.now[n]? = some b →
            cs.rows.getD (per * n + c) [] = bytes (b.2 + c * tileBSTR p.desc) (tilePB p.desc))
    ∧ ∀ cs, (s.core core).cols = some cs → cs.serves p = true → (∀ row ∈ cs.rows, row.length = tilePB p.desc * tileK p.desc / 8) →
      cs.rows.length = per * (if p.batched then p.now.length else 1) →
      (p.bases.map Prod.fst).Nodup → (p.rowsA.map Prod.fst).Nodup → (∀ o ∈ p.gens, ∃ n, o.unit = .acc n) →
      let rest' := p.bases.filter (fun b => !p.now.contains b)
      ∃ s2 t2, exec (.arrayPass core) s = .next s2 ∧ s2.team? p.team = some t2 ∧ s2.mem = s.mem ∧ s2.crews = s.crews
        ∧ (∀ n, s2.core n = if n = core then { s.core n with array := if rest' = [] then rest else { p with bases := rest' } :: rest } else s.core n)
        ∧ t2 = { t with a := t2.a, fifo := t2.fifo, waits := t2.waits } ∧ (∀ r, t2.gen r = t.gen r)
        ∧ (rest' = [] → ∀ o ∈ p.gens, t.gen o.unit = o.gen → t2.pend o.unit = false) ∧ (rest' ≠ [] → ∀ r, t2.pend r = t.pend r)
        ∧ (p.batched = false →
            (∀ q base, (q, base) ∈ p.now → ∀ i < 8, ∀ c < 64,
              let col := cs.rows.getD c []
              (∀ x, (8 * q + i, x) ∈ p.rowsA →
                becomes p.zero (accElement t (p.acc + q) i c) (accElement t2 (p.acc + q) i c) (eitherPoisoned k p.desc x col) (products k p.desc x col)
                ∧ (overflows p.zero (accElement t (p.acc + q) i c) (eitherPoisoned k p.desc x col) (products k p.desc x col) →
                    (t2.unit (.acc (p.acc + q))).accu.2 = true))
              ∧ ((∀ x, (8 * q + i, x) ∉ p.rowsA) → accElement t2 (p.acc + q) i c = if p.zero then .word 0 else accElement t (p.acc + q) i c))
            ∧ (∀ n, (∀ b ∈ p.now, n ≠ p.acc + b.1) → t2.unit (.acc n) = t.unit (.acc n)))
        ∧ (p.batched = true →
            (∀ n j base, p.now[n]? = some (j, base) → ∀ i < 8, ∀ c < 16, ∀ x, (2 * j, x) ∈ p.rowsA →
              becomes p.zero (accElement t (p.acc + j / 4) i (16 * (j % 4) + c)) (accElement t2 (p.acc + j / 4) i (16 * (j % 4) + c))
                (eitherPoisoned k p.desc (x + i * tileASTR p.desc) (cs.rows.getD (16 * n + c) []))
                (products k p.desc (x + i * tileASTR p.desc) (cs.rows.getD (16 * n + c) [])))
            ∧ (∀ j, (∀ b ∈ p.now, b.1 ≠ j) → ∀ i < 8, ∀ c < 16,
                accElement t2 (p.acc + j / 4) i (16 * (j % 4) + c) = accElement t (p.acc + j / 4) i (16 * (j % 4) + c)))
        ∧ (∀ n, (t.unit (.acc n)).accu.2 = true → (t2.unit (.acc n)).accu.2 = true)

/-- R174, R175, R178: `amov`, `awr`, `aclr`, `aovf`, `tset` and `tget`. -/
def Sys2Proof.Claims.AccumulatorAndTileResults : Prop :=
  ∀ (d a : BitVec 7) (n : BitVec 6) (part : BitVec 4) (cl : BitVec 1) (tl : BitVec 7) (s : State) (t : Team) (k : Crew) (c : Clause),
    s.Ready t k c → Mask.none (t.acting c) = false →
    let m := t.acting c
    let accs := (Mask.words m).map (fun w => UnitRef.acc (n.toNat + 4 * w))
    let key := fun l => 64 * (part.toNat / 2) + (32 * (part.toNat % 2) + l % 32)
    ((∀ w ∈ Mask.words m, n.toNat + 4 * w < t.aN) → t.holds [d] → t.landed accs → t.landed (laneUnits d m) →
      (s.writable t (laneUnits d m) → s.Completes (.amov d n part) t k 1 (Mask.passes m)
        (laneWrites d m (fun l => tget (.word 0) (t.unit (.acc (n.toNat + 4 * (l / 32)))).accu.1 (key l))) 0)
      ∧ (s.writable t accs → s.Completes (.awr d n part) t k 1 (Mask.passes m)
        ((Mask.words m).map (fun w => (.acc (n.toNat + 4 * w),
          .a ((lanesIn m w).foldl (fun x l => tset (.word 0) x (key l) (t.lane d.toNat l)) (t.unit (.acc (n.toNat + 4 * w))).accu.1)
            (t.unit (.acc (n.toNat + 4 * w))).accu.2))) 0))
    ∧ (n.toNat < t.aN → t.landed [.acc n.toNat] → s.writable t [.acc n.toNat] →
      s.Completes (.aclr n) t k 1 1 [(.acc n.toNat, .a [] false)] 0
      ∧ (s.writable t [.uni d.toNat] →
          let es := (t.unit (.acc n.toNat)).accu
          s.Completes (.aovf d n cl) t k 1 1 ((.uni d.toNat, .w (.word ((if ∃ e ∈ es.1, e.2 = Val.poison then 2 else 0) + (if es.2 then 1 else 0))))
            :: (if cl = 1 then [(.acc n.toNat, .a es.1 false)] else [])) 0))
    ∧ (tl.toNat < 16 →
      (a.toNat % 2 = 0 → t.landed [.uni a.toNat, .uni (a.toNat + 1)] → s.writable t [.tile tl.toNat] →
        ∀ lo hi, t.uniform a.toNat = .word lo → t.uniform (a.toNat + 1) = .word hi → tileBad (hi ++ lo) = false →
          s.Completes (.tset tl a) t k 1 1 [(.tile tl.toNat, .t (hi ++ lo) false)] 0)
      ∧ (d.toNat % 2 = 0 → t.landed [.tile tl.toNat] → s.writable t [.uni d.toNat, .uni (d.toNat + 1)] → ∀ x, t.unit (.tile tl.toNat) = .t x false →
          s.Completes (.tget d tl) t k 1 1 [(.uni d.toNat, .w (.word (x.extractLsb' 0 32))), (.uni (d.toNat + 1), .w (.word (x.extractLsb' 32 32)))] 0))

/-- R49, R176, R177: the passes of the plane words issue one by one. A pass of `plnw` writes bit g of each acting lane's word into plane g of the
row and leaves every other bit; a poisoned lane poisons the words that would take its bits. A pass of `plnr` or `plnr.s` will write the
elements, as a load does. -/
def Sys2Proof.Claims.PlaneRowResults : Prop :=
  ∀ (d a : BitVec 7) (p q : BitVec 3) (s : State) (t : Team) (k : Crew) (c : Clause) (w : Word),
    AtPass s t k c → s.acquiring s.cur = false → s.windowBusy s.cur = false → p.toNat ≤ q.toNat → t.holds [d] →
    t.landed [.uni a.toNat] → t.uniform a.toNat = .word w →
    let m := pass t c
    let planes := p.toNat + 1
    let kk := K (q.toNat + 1)
    let x := w.toNat % 2 ^ 19
    let e := w.toNat / 2 ^ 19 % 2 ^ 9
    w.toNat < 2 ^ 28 → x % 4 = 0 → e % 8 = 0 → (∀ v ∈ Mask.words (left t c), e + 32 * v + 31 < kk) → x + planes * kk / 8 ≤ 1024 * k.spk →
    t.landed (laneUnits d m) →
    (s.matrixBusy s.cur = false → c.opId = 0 →
      ∃ s2 k2, s.Does (.plnw d a p q) s2 t (onwards t c 0) k t.counter 1 [] [] 0 ∧ s2 = { s with teams := s2.teams, crews := s2.crews }
        ∧ (∀ u, u ≠ s.cur → s2.team? u = s.team? u) ∧ (∀ u, s2.crew? u = if u = t.crew then some k2 else s.crew? u)
        ∧ k2 = { k with spad := k2.spad, spadPoison := k2.spadPoison }
        ∧ ∀ b, (k2.spadByte b = none ↔ k.spadByte b = none
              ∨ ∃ l ∈ Mask.lanes m, (t.lane d.toNat l).isPoison = true ∧ ∃ g < planes, planeByte x kk g (e + l) / 4 = b / 4)
          ∧ ∀ b1 b2, k.spadByte b = some b1 → k2.spadByte b = some b2 →
              (∀ l ∈ Mask.lanes m, ∀ g < planes, ∀ v, planeByte x kk g (e + l) = b → t.lane d.toNat l = .word v → b2.getLsbD ((e + l) % 8) = v.getLsbD g)
              ∧ ∀ i < 8, (∀ l ∈ Mask.lanes m, ∀ g < planes, planeByte x kk g (e + l) = b → (e + l) % 8 ≠ i) → b2.getLsbD i = b1.getLsbD i)
    ∧ (s.writable t (laneUnits d m) → ∀ sgn : Bool,
      ∃ s2 ld, s.Does (if sgn then .plnrS d a p q else .plnr d a p q) s2 t (onwards t c (opNumber s c)) k t.counter 1 [] (laneUnits d m) 0
        ∧ s2 = { s with teams := s2.teams, ops := s2.ops, lands := s.lands ++ [ld], nextId := s2.nextId }
        ∧ (∀ u, u ≠ s.cur → s2.team? u = s.team? u) ∧ outstanding s s2 c 7 (ld.writes.map Prod.fst) (later t c)
        ∧ ld.op = opNumber s c ∧ ld.team = s.cur
        ∧ ld.writes = (Mask.lanes m).map (fun l => ({ unit := .vec d.toNat l, gen := t.gen (.vec d.toNat l) + 1 },
            .w (if ∃ g ∈ List.range planes, k.spadByte (planeByte x kk g (e + l)) = none then .poison
              else .word (BitVec.ofInt 32 (element k x kk planes sgn (e + l)))))))

/-! ## Engine queues, time and phase-bit barriers -/

/-- The team with its result FIFO of a register replaced, and the pair of words of a 64-bit value. -/
def Sys2Proof.Claims.withResults (t : Team) (q : Nat) (xs : List (BitVec 64)) : Team := { t with results := tset [] t.results q xs }
def Sys2Proof.Claims.pair (d : BitVec 7) (x : BitVec 64) : List (UnitRef × UnitVal) :=
  [(.uni d.toNat, .w (.word (x.extractLsb' 0 32))), (.uni (d.toNat + 1), .w (.word (x.extractLsb' 32 32)))]
def Sys2Proof.Claims.pairUnits (d : BitVec 7) : List UnitRef := [.uni d.toNat, .uni (d.toNat + 1)]

/-- R182 (with R324 on the network registers): `qpush` puts its words into the task unit's queue in lane order, or names the connection. -/
def Sys2Proof.Claims.QueuePushes : Prop :=
  ∀ (q : BitVec 4) (r : BitVec 7) (u : BitVec 1) (w : BitVec 3) (s : State) (t : Team) (k : Crew) (c : Clause) (x : Nat → Word),
    s.Ready t k c → Mask.none (t.acting c) = false → w ≠ 6 → s.acquiring s.cur = false → (w.toNat < 6 → t.counter w.toNat ≠ 63) →
    let m := t.acting c
    let ls := if u = 1 then [0] else Mask.lanes m
    let passes := if u = 1 then 1 else Mask.passes m
    (u = 0 → t.holds [r]) → t.landed (secondUnits r u m) → (∀ l ∈ ls, t.second r u l = .word (x l)) →
    (q = 8 →
      let half := ((s.die k.die).q8.filter (fun y => y.team == s.cur)).length % 2
      s.resultsFull s.cur 8 (min 16 ((ls.length + half) / 2)) = false → (s.die k.die).q8 = [] ∨ (s.die k.die).q8.length + ls.length ≤ 128 →
      ∃ s2 new, s.Does (.qpush q r u w) s2 t (t.advance 1) k t.counter passes [] [] 0
        ∧ s2 = { s with teams := s2.teams, dies := s2.dies } ∧ (∀ v, v ≠ s.cur → s2.team? v = s.team? v)
        ∧ (∀ n, s2.die n = if n = k.die then { s.die n with q8 := (s.die n).q8 ++ new } else s.die n)
        ∧ new.map Q8Word.word = ls.map x ∧ ∀ y ∈ new, y.team = s.cur ∧ y.crew = t.crew ∧ y.world = k.world ∧ y.asn = k.asn ∧ y.tid = k.tid)
    ∧ (10 ≤ q.toNat → q.toNat ≤ 13 → s.capNet = true → (∀ l ∈ ls, (x l).toNat < 2 ^ 20) → ∀ l, ls.getLast? = some l →
      s.Does (.qpush q r u w) s t (({ t with conn := tset 0 t.conn q.toNat ((x l).setWidth 20) } : Team).advance 1) k t.counter passes [] [] 0)

/-- R183, R184: `qpop` and `qtry` take the oldest result; with none, `qpop` in deferring mode leaves its pair pending and `qtry` clears its
predicate; `qstat` counts; `qfence` puts one entry into each named copy queue. -/
def Sys2Proof.Claims.QueueResults : Prop :=
  ∀ (q : BitVec 4) (d : BitVec 7) (w p : BitVec 3) (f : BitVec 7) (s : State) (t : Team) (k : Crew) (c : Clause),
    s.Ready t k c → Mask.none (t.acting c) = false → w ≠ 6 → (w.toNat < 6 → t.counter w.toNat ≠ 63) → q.toNat < 14 →
    (10 ≤ q.toNat → s.capNet = true) →
    let m := t.acting c
    let fifo : List (BitVec 64) := tget [] t.results q.toNat
    (d.toNat % 2 = 0 → s.writable t (pairUnits d) →
      (s.popWaiting s.cur q.toNat = none → ∀ x xs, fifo = x :: xs →
        s.Does (.qpop q d w) s t ((withResults t q.toNat xs).advance 1) k t.counter 1 (pair d x) [] 0
        ∧ (p ≠ 0 → s.writable t (wordUnits p m) →
            s.Does (.qtry q d p) { s with free := s.free + 2 * m.length } t ((withResults t q.toNat xs).advance 1) k t.counter 1
              (pair d x ++ predWrites t p m (fun _ => (true, false))) [] 0))
      ∧ (fifo = [] ∨ (s.popWaiting s.cur q.toNat).isSome = true →
        (c.deferring = true → ∃ s2 op, s.Does (.qpop q d w) s2 t (t.advance 1) k (t.raised w) 1 [] (pairUnits d) 0
          ∧ s2 = { s with teams := s2.teams, ops := s.ops ++ [op], nextId := s2.nextId } ∧ (∀ v, v ≠ s.cur → s2.team? v = s.team? v)
          ∧ op.team = s.cur ∧ op.kind = .pop q.toNat ∧ op.w = w ∧ op.owed = (pairUnits d).map (fun r => { unit := r, gen := t.gen r + 1 }))
        ∧ (p ≠ 0 → s.writable t (wordUnits p m) →
            s.Does (.qtry q d p) { s with free := s.free + 2 * m.length } t (t.advance 1) k t.counter 1
              (predWrites t p m (fun _ => (false, false))) [] 0)))
    ∧ (s.writable t [.uni d.toNat] → s.Completes (.qstat q d) t k 1 1
        [(.uni d.toNat, .w (.word (BitVec.ofNat 32 (fifo.length % 256 + 256 * (s.freeSlots k q.toNat % 256)))))] 0)
    ∧ (let qs := q.toNat :: ((List.range 7).filter (fun i => f.getLsbD i)).map (fun i => q.toNat + 1 + i)
       (∀ j ∈ qs, j < 8 ∧ s.freeSlots k j ≠ 0) → s.acquiring s.cur = false →
       ∃ s2 new, s.Does (.qfence q f) s2 t (t.advance 1) k t.counter 1 [] [] 0
        ∧ s2 = { s with teams := s2.teams, copies := s.copies ++ new, nextId := s2.nextId } ∧ (∀ v, v ≠ s.cur → s2.team? v = s.team? v)
        ∧ new.map CopyCmd.queue = qs ∧ ∀ y ∈ new, y.fn = 5 ∧ y.engine = k.quad ∧ y.fenceQs = qs ∧ y.fence = s.nextId)

/-- The five copies, by function number, with their imm7 and the bytes they move (R186, R187). -/
def Sys2Proof.Claims.copies (q : BitVec 4) (r : BitVec 7) (w : BitVec 3) (cred : BitVec 1) (kib : BitVec 7) (p m : BitVec 3) (b : List Word) :
    List (Instr × Nat × BitVec 7 × Nat) :=
  let field := fun i lo n => ((b.getD i 0).extractLsb' lo n).toNat
  [(.cpyG2s q r w cred, 0, cred.setWidth 7, 16 * field 3 0 16), (.cpyS2g q r w cred, 1, cred.setWidth 7, 16 * field 3 0 16),
   (.cpyG2g q r w kib, 2, kib, 1024 * kib.toNat), (.cpyPln q r w p m cred, 3, p ++ m ++ cred, (field 2 19 13 + 1) * (p.toNat + 1) * K (m.toNat + 1) / 8),
   (.cpyS2sq q r w cred, 4, cred.setWidth 7, 16 * field 2 0 16)]

/-- R187, R189: a copy whose checks pass is accepted with its promise, 96 DCC and one for each 64 bytes of it and of the commands before it;
the promise goes to the team's result FIFO. One that moves no bytes is complete at once, and its credit of 0 may flip the barrier word. -/
def Sys2Proof.Claims.CopiesAreAccepted : Prop :=
  ∀ (q : BitVec 4) (r : BitVec 7) (w : BitVec 3) (cred : BitVec 1) (kib : BitVec 7) (p m : BitVec 3) (b : List Word) (s : State) (t : Team) (k : Crew)
    (c : Clause), s.Ready t k c → Mask.none (t.acting c) = false → w ≠ 6 → (w.toNat < 6 → t.counter w.toNat ≠ 63) → q.toNat < 8 → p.toNat ≤ m.toNat →
    r.toNat % 4 = 0 → t.landed ((List.range 4).map (fun j => UnitRef.uni (r.toNat + j))) →
    (List.range 4).map (fun j => t.uniform (r.toNat + j)) = b.map Val.word → s.acquiring s.cur = false →
    s.resultsFull s.cur q.toNat 1 = false → s.freeSlots k q.toNat ≠ 0 → s.popWaiting s.cur q.toNat = none →
    ∀ x ∈ copies q r w cred kib p m b, copyBad k x.2.1 b x.2.2.1 = none →
      let queued := ((s.copies.filter (fun y => y.engine == k.quad && y.queue == q.toNat)).map CopyCmd.bytes).sum
      let promise := s.dccOf k + BitVec.ofNat 64 (96 + (queued + x.2.2.2 + 63) / 64)
      let f := (withResults t q.toNat (tget [] t.results q.toNat ++ [promise])).advance 1
      (x.2.2.2 ≠ 0 → ∃ s2 y op, s.Does x.1 s2 t f k t.counter 1 [] [] 0
        ∧ s2 = { s with teams := s2.teams, copies := s.copies ++ [y], ops := s.ops ++ [op], nextId := s2.nextId }
        ∧ (∀ v, v ≠ s.cur → s2.team? v = s.team? v) ∧ op.team = s.cur ∧ op.kind = .copy ∧ op.id = y.op
        ∧ y.team = s.cur ∧ y.engine = k.quad ∧ y.queue = q.toNat ∧ y.fn = x.2.1 ∧ y.block = b ∧ y.imm = x.2.2.1 ∧ y.bytes = x.2.2.2
        ∧ y.promise = promise ∧ y.started = false ∧ y.hdrVA = c.hdrVA)
      ∧ (x.2.2.2 = 0 → (∀ y ∈ s.copies, y.id < s.nextId) → (∀ o ∈ s.ops, o.id < s.nextId) →
        (copyCred x.2.1 x.2.2.1 = false → ∃ s2, s.Does x.1 s2 t f k t.counter 1 [] [] 0 ∧ s2 = { s with teams := s2.teams, nextId := s2.nextId })
        ∧ (copyCred x.2.1 x.2.2.1 = true → x.2.1 ≠ 4 → ∀ z, k.phaseAt (copyBar x.2.1 b) = some z →
            ∃ s2 k2, s.Does x.1 s2 t f k t.counter 1 [] [] 0 ∧ s2 = { s with teams := s2.teams, crews := s2.crews, nextId := s2.nextId }
              ∧ s2.crew? t.crew = some k2 ∧ k2 = { k with spad := k2.spad, spadPoison := k2.spadPoison }
              ∧ k2.phaseAt (copyBar x.2.1 b) = some (if z.rem = 0 ∧ z.byt = 0 then { z with ph := !z.ph, rem := z.exp } else z)))

/-- R184, R185, R187: the head of a copy queue starts once the team's earlier accesses are performed, and moves its bytes: into the
scratchpad of the crew for `cpy.g2s`, of the window's crew for `cpy.s2sq`; a fence goes when it is at the head of all its queues; a started
command completes and, with cred, takes its bytes off the barrier word. -/
def Sys2Proof.Claims.CopyEngineMovesAndCredits : Prop :=
  ∀ (eng q : Nat) (s : State) (c : CopyCmd) (k : Crew), (s.copyQueue eng q).head? = some c → s.crew? c.crew = some k →
    (c.fn = 5 → (∀ j ∈ c.fenceQs, ∃ h, (s.copyQueue c.engine j).head? = some h ∧ h.fn = 5 ∧ h.fence = c.fence) →
      exec (.copyStart eng q) s = .next { s with copies := s.copies.filter (fun x => !(x.fn == 5 && x.fence == c.fence)) })
    ∧ (c.started = false → s.allDone c.earlier = true → (∀ x ∈ s.copies, x.id = c.id → x = c) →
      (c.fn = 0 → (∀ x ∈ c.places, s.copyWaits k x = false) → ∀ bytes : Nat → List PByte, (∀ i < c.bytes / 16, ∃ s1, s.copyRead k (blkVA c.block 0 + 16 * i) 16 = .ok (s1, bytes i)) →
        ∃ s2 k2, exec (.copyStart eng q) s = .next s2 ∧ s2.teams = s.teams ∧ s2.mem = s.mem ∧ s2.crew? c.crew = some k2
          ∧ k2 = { k with spad := k2.spad, spadPoison := k2.spadPoison } ∧ (∀ v, v ≠ c.crew → s2.crew? v = s.crew? v)
          ∧ (blk c.block 2 0 19 % 16 = 0 →
              (∀ i < c.bytes / 16, ∀ j < 16, (∀ j2 < 16, ((bytes i).getD j2 none).isSome) → k2.spadByte (blk c.block 2 0 19 + 16 * i + j) = (bytes i).getD j none)
              ∧ ∀ b, (b < blk c.block 2 0 19 ∨ blk c.block 2 0 19 + 16 * (c.bytes / 16) ≤ b) → k2.spadByte b = k.spadByte b)
          ∧ ∀ x ∈ s2.copies, x.id = c.id → x.started = true)
      ∧ (c.fn = 4 → ∀ target kt, s.copyTarget c k = .ok target → s.crew? target = some kt →
          ∃ s2 k2, exec (.copyStart eng q) s = .next s2 ∧ s2.teams = s.teams ∧ s2.mem = s.mem ∧ s2.crew? target = some k2
            ∧ k2 = { kt with spad := k2.spad, spadPoison := k2.spadPoison } ∧ (∀ v, v ≠ target → s2.crew? v = s.crew? v)
            ∧ (target ≠ c.crew → blk c.block 1 0 19 % 16 = 0 → ∀ i < c.bytes / 16, ∀ j < 16,
                (∀ j2 < 16, (k.spadByte (blk c.block 0 0 19 + 16 * i + j2)).isSome) →
                k2.spadByte (blk c.block 1 0 19 + 16 * i + j) = k.spadByte (blk c.block 0 0 19 + 16 * i + j))
            ∧ ∀ x ∈ s2.copies, x.id = c.id → x.started = true))
    ∧ (c.started = true → c.fn ≠ 5 →
      (copyCred c.fn c.imm = false → ∃ s2, exec (.copyComplete eng q) s = .next s2 ∧ calm s s2 ∧ s2.copies = s.copies.filter (fun x => !(x.id == c.id))
        ∧ s2 = { s with copies := s2.copies, ops := s2.ops, teams := s2.teams })
      ∧ (copyCred c.fn c.imm = true → c.fn ≠ 4 → ∀ w, k.phaseAt (copyBar c.fn c.block) = some w →
          let w1 := if w.byt < c.bytes then { w with byt := 0, ovr := true } else { w with byt := w.byt - c.bytes }
          ∃ s2 k2, exec (.copyComplete eng q) s = .next s2 ∧ calm s s2 ∧ s2.copies = s.copies.filter (fun x => !(x.id == c.id))
            ∧ s2.crew? c.crew = some k2 ∧ k2 = { k with spad := k2.spad, spadPoison := k2.spadPoison } ∧ s2.mem = s.mem
            ∧ k2.phaseAt (copyBar c.fn c.block) = some (if w1.rem = 0 ∧ w1.byt = 0 then { w1 with ph := !w1.ph, rem := w1.exp } else w1)))

/-- R190: `cyc` reads the DCC; `sleepc` goes on, or holds its team until the DCC has come and the copies promised by then are finished. -/
def Sys2Proof.Claims.CyclesAndSleep : Prop :=
  ∀ (d a : BitVec 7) (s : State) (t : Team) (k : Crew) (c : Clause), s.Ready t k c → Mask.none (t.acting c) = false →
    (d.toNat % 2 = 0 → s.writable t (pairUnits d) → s.Completes (.cyc d) t k 1 1 (pair d (s.die k.die).dcc) 0)
    ∧ (a.toNat % 2 = 0 → t.landed (pairUnits a) → ∀ lo hi, t.uniform a.toNat = .word lo → t.uniform (a.toNat + 1) = .word hi →
      let v := hi ++ lo
      let owing := ∃ x ∈ s.copies, x.team = s.cur ∧ x.fn ≠ 5 ∧ x.promise.toNat ≤ v.toNat
      ((s.die k.die).dcc.toNat < v.toNat → s.Does (.sleepc a) s t { t with hold := .sleep v, stall := 8 } k t.counter 1 [] [] 0)
      ∧ (v.toNat ≤ (s.die k.die).dcc.toNat → owing → s.Does (.sleepc a) s t { t with hold := .sleep v, stall := 24 } k t.counter 1 [] [] 0)
      ∧ (v.toNat ≤ (s.die k.die).dcc.toNat → ¬ owing → s.Completes (.sleepc a) t k 1 1 [] 0))

/-- R190: a sleeping team goes on once its value has come and the copies promised by then are finished, and traps 0x15 when one is unfinished
256 DCC later. -/
def Sys2Proof.Claims.SleepersWakeOrTrap : Prop :=
  ∀ (u : Nat) (s : State) (t : Team) (k : Crew) (v : BitVec 64), s.team? u = some t → s.crew? t.crew = some k → t.hold = .sleep v →
    let owing := ∃ x ∈ s.copies, x.team = u ∧ x.fn ≠ 5 ∧ x.promise.toNat ≤ v.toNat
    (v.toNat ≤ (s.die k.die).dcc.toNat → ¬ owing → exec (.sleepWake u) s = .next (s.setTeam u (({ t with hold := .none, stall := 0 } : Team).advance 1)))
    ∧ (v.toNat ≤ (s.die k.die).dcc.toNat → owing → t.status = .running → exec (.sleepWake u) s = .next (s.setTeam u { t with stall := 24 }))
    ∧ (v.toNat + 256 ≤ (s.die k.die).dcc.toNat → owing → t.status = .running →
        ∃ s2 t2 i, exec (.promiseMissed u) s = .next s2 ∧ s2.team? u = some t2 ∧ t2.status = .suspended ∧ t2.trap = some i ∧ i.cause = 0x15
          ∧ (∃ x ∈ s2.copies, x.team = u ∧ x.promise.toNat ≤ v.toNat ∧ i.faultVA = x.revised) ∧ s2.mem = s.mem
          ∧ (∀ w, w ≠ u → s2.team? w = s.team? w) ∧ s2.copies.map CopyCmd.id = s.copies.map CopyCmd.id
          ∧ ∀ x ∈ s2.copies, x.team = u → x.fn ≠ 5 → x.promise.toNat ≤ v.toNat → ∃ y ∈ s.copies, y.id = x.id ∧ y.revised.toNat ≤ x.revised.toNat)

/-- A phase-bit barrier word put in place of another: nothing else of the crew's scratchpad and of the package changes. -/
def Sys2Proof.Claims.phaseWritten (s : State) (i : Instr) (t : Team) (k : Crew) (ad : Nat) (w : PhaseWord) : Prop :=
  ∃ s2 k2, s.Does i s2 t (t.advance 1) k t.counter 1 [] [] 0 ∧ s2 = { s with teams := s2.teams, crews := s2.crews }
    ∧ (∀ u, u ≠ s.cur → s2.team? u = s.team? u) ∧ (∀ u, s2.crew? u = if u = t.crew then some k2 else s.crew? u)
    ∧ k2 = { k with spad := k2.spad, spadPoison := k2.spadPoison } ∧ k2.phaseAt ad = some w
    ∧ ∀ b, b < ad ∨ ad + 8 ≤ b → k2.spadByte b = k.spadByte b

/-- R192 to R195: the five members on an aligned word within the allotment that is not poisoned. -/
def Sys2Proof.Claims.PhaseBarrierResults : Prop :=
  ∀ (x a : BitVec 7) (p : BitVec 3) (par : BitVec 1) (s : State) (t : Team) (k : Crew) (c : Clause) (ad n : Word) (w : PhaseWord),
    s.Ready t k c → Mask.none (t.acting c) = false → s.acquiring s.cur = false → s.windowBusy s.cur = false → t.landed [.uni a.toNat] →
    t.uniform a.toNat = .word ad → spotOk k ad.toNat 8 → k.phaseAt ad.toNat = some w →
    (t.landed [.uni x.toNat] → t.uniform x.toNat = .word n →
      (1 ≤ n.toNat → n.toNat ≤ 2047 → phaseWritten s (.pbInit x a) t k ad.toNat { ph := false, exp := n.toNat, rem := n.toNat, ovr := false, byt := 0 })
      ∧ phaseWritten s (.pbExp x a) t k ad.toNat
          (if 2 ^ 40 - 1 < w.byt + n.toNat then { w with byt := 2 ^ 40 - 1, ovr := true } else { w with byt := w.byt + n.toNat }))
    ∧ (s.accessesReady s.cur = true →
        let w1 := if w.rem = 0 then { w with ovr := true } else { w with rem := w.rem - 1 }
        phaseWritten s (.pbArv a) t k ad.toNat (if w1.rem = 0 ∧ w1.byt = 0 then { w1 with ph := !w1.ph, rem := w1.exp } else w1))
    ∧ (w.ovr = false → w.ph ≠ (par == 1) → s.Completes (.pbWait a par) t k 1 1 [] 0)
    ∧ (w.ovr = false → w.ph = (par == 1) → s.Does (.pbWait a par) s t { t with hold := .phase ad.toNat (par == 1), stall := 7 } k t.counter 1 [] [] 0)
    ∧ (p ≠ 0 → s.writable t (wordUnits p (t.acting c)) →
        s.Completes (.pbTest a p par) t k 1 1 (predWrites t p (t.acting c) (fun _ => (w.ph != (par == 1), false))) 0)

/-- R194: a team that waits on a phase goes on once it differs from its parity, and traps 0x1D when the word has overrun. -/
def Sys2Proof.Claims.PhaseWaitersWake : Prop :=
  ∀ (u : Nat) (s : State) (t : Team) (k : Crew) (ad : Nat) (par : Bool) (w : PhaseWord), s.team? u = some t → s.crew? t.crew = some k →
    t.hold = .phase ad par → k.phaseAt ad = some w →
    (w.ovr = false → w.ph ≠ par → exec (.phaseBarrierWake u) s = .next (s.setTeam u (({ t with hold := .none, stall := 0 } : Team).advance 1)))
    ∧ (w.ovr = false → w.ph = par → exec (.phaseBarrierWake u) s = .next s)
    ∧ (w.ovr = true → t.status = .running → ∃ s2 t2 i, exec (.phaseBarrierWake u) s = .next s2 ∧ s2.team? u = some t2 ∧ t2.status = .suspended
        ∧ t2.trap = some i ∧ i.cause = 0x1D ∧ s2.mem = s.mem ∧ ∀ v, v ≠ u → s2.team? v = s.team? v)

/-! ## Fences and hardware barriers -/

/-- R246, R266, R267: a fence whose wait is over has no effect but its passing; a release-type fence that finds the store-poison flag set before
it has waited traps 0x11, which clears the flag. -/
def Obligations.FencesWaitAndPass : Prop :=
  ∀ (l : BitVec 3) (s : State) (t : Team) (k : Crew) (c : Clause), s.Ready t k c → Mask.none (t.acting c) = false → l.toNat < 6 →
    ∀ x ∈ [(Instr.fenceAcq l, false, true, false), (.fenceRel l, true, false, false), (.fenceAr l, true, true, false), (.fenceQ l, true, false, true)],
      ((x.2.1 = true → (k.storePoison = false ∨ 2 ≤ c.waited) ∧ s.relMet s.cur l.toNat = true) → (x.2.2.1 = true → s.acqMet s.cur l.toNat = true) →
        (x.2.2.2 = true → s.commandsLeft s.cur = false) → s.Completes x.1 t k 1 1 [] 0)
      ∧ (x.2.1 = true → k.storePoison = true → c.waited = 0 → ∃ s2 t2, exec x.1 s = .next s2 ∧ s.Trapped s2 t t2 0x11 c.hdrVA
          ∧ s2.crew? t.crew = some { k with storePoison := false })

/-- R268 to R270: an arrival opens its barrier or counts in the open phase; the last one completes it. `bar.sync` and `bar.to` then hold their
team, `bar.wait` holds it for a phase not yet delivered. -/
def Sys2Proof.Claims.BarrierArrivals : Prop :=
  ∀ (d x : BitVec 7) (n : BitVec 5) (l : BitVec 3) (s : State) (t : Team) (k : Crew) (c : Clause) (count till : Word),
    s.Ready t k c → Mask.none (t.acting c) = false → l.toNat = 1 ∨ (l.toNat = 2 ∨ l.toNat = 3) ∧ n.toNat < 16 ∨ l.toNat = 4 ∧ n.toNat < 8 →
    let key := barOf t k l.toNat n.toNat
    let b := s.bar key
    let a := t.arrival key
    a.void = false ∨ a.waitedFor = true →
    (t.landed [.uni x.toNat] → t.uniform x.toNat = .word count → s.counted s.cur key = false → k.storePoison = false → s.releaseReady s.cur = true →
      (l.toNat = 4 → (s.pier n.toNat).silent = false) → 1 ≤ count.toNat → count.toNat ≤ barLimit l.toNat →
      (b.isOpen = true → b.expected = count.toNat ∧ b.bind = barBind k l.toNat) →
      let here := (if b.isOpen then b.arrivals else []) ++ [s.cur]
      let t1 := { t with arrivals := tset {} t.arrivals key { phase := b.phase, made := true, waitedFor := false } }
      let b1 : Barrier := if here.length = count.toNat then { b with phase := b.phase + 1, expected := 0, arrivals := [], isOpen := false, bind := 0 }
        else { b with expected := count.toNat, arrivals := here, isOpen := true, bind := barBind k l.toNat }
      let arrives := fun (i : Instr) (f : Team) => ∃ s2, s.Does i s2 t f k t.counter 1 [] [] 0 ∧ s2 = { s with teams := s2.teams, bars := s2.bars }
        ∧ (∀ u, u ≠ s.cur → s2.team? u = s.team? u) ∧ ∀ y, s2.bar y = if y = key then b1 else s.bar y
      arrives (.barArv x n l) (t1.advance 1)
      ∧ arrives (.barSync x n l) { t1 with hold := .barrier key none, stall := 6 }
      ∧ (t.landed [.uni d.toNat] → t.uniform d.toNat = .word till → till ≠ 0 ∨ here.length = count.toNat →
          arrives (.barTo d x n l) { t1 with hold := .barrier key (some ((s.die k.die).dcc + till.setWidth 64)), stall := 6 }))
    ∧ (a.made = false ∨ a.waitedFor = true → s.Completes (.barWait n l) t k 1 1 [] 0)
    ∧ (a.made = true → a.waitedFor = false → a.phase < b.delivered →
        s.Does (.barWait n l) s t (({ t with arrivals := tset {} t.arrivals key { a with waitedFor := true } } : Team).advance 1) k t.counter 1 [] [] 0)
    ∧ (a.made = true → a.waitedFor = false → b.delivered ≤ a.phase →
        s.Does (.barWait n l) s t { t with hold := .barrier key none, stall := 6 } k t.counter 1 [] [] 0)

/-- R268, R270: the completed phases reach the teams that hold at the barrier, and no other; at its deadline a team's arrival is withdrawn and
it traps 0x16. -/
def Sys2Proof.Claims.BarriersReleaseOrTimeOut : Prop :=
  (∀ (key : Nat) (s : State), ∃ s2, exec (.barrierRelease key) s = .next s2 ∧ s2.mem = s.mem ∧ s2.crews = s.crews
    ∧ (∀ y, s2.bar y = if y = key then { s.bar y with delivered := (s.bar y).phase } else s.bar y)
    ∧ ∀ u t, s.team? u = some t →
        let a := t.arrival key
        (t.status = .running → (∃ till, t.hold = .barrier key till) → a.void = false → a.phase < (s.bar key).phase →
          s2.team? u = some (({ t with arrivals := tset {} t.arrivals key { a with waitedFor := true }, hold := .none, stall := 0 } : Team).advance 1))
        ∧ ((∀ till, t.hold ≠ .barrier key till) ∨ t.status ≠ .running ∨ (a.void = false ∧ (s.bar key).phase ≤ a.phase) → s2.team? u = some t))
  ∧ (∀ (u : Nat) (s : State) (t : Team) (k : Crew) (key : Nat) (till : BitVec 64), s.team? u = some t → s.crew? t.crew = some k →
      t.hold = .barrier key (some till) → t.status = .running → till.toNat ≤ (s.die k.die).dcc.toNat → s.counted u key = true →
      ∃ s2 t2 i, exec (.barrierTimeout u) s = .next s2 ∧ s2.team? u = some t2 ∧ t2.status = .suspended ∧ t2.trap = some i ∧ i.cause = 0x16
        ∧ u ∉ (s2.bar key).arrivals ∧ (s2.bar key).phase = (s.bar key).phase ∧ (∀ y, y ≠ key → s2.bar y = s.bar y)
        ∧ s2.mem = s.mem ∧ ∀ v, v ≠ u → s2.team? v = s.team? v)

/-! ## The network engine -/

/-- R324, R325: `net.put`, `net.get`, `net.at` and `net.flush` queue their commands, one for each block, for the connection the register names. -/
def Sys2Proof.Claims.NetworkCommandsQueue : Prop :=
  ∀ (q : BitVec 4) (r : BitVec 7) (u : BitVec 1) (w : BitVec 3) (o : BitVec 1) (s : State) (t : Team) (k : Crew) (c : Clause) (bs : List (List Word)),
    s.Ready t k c → Mask.none (t.acting c) = false → s.capNet = true → w ≠ 6 → s.acquiring s.cur = false → (w.toNat < 6 → t.counter w.toNat ≠ 63) →
    10 ≤ q.toNat → q.toNat ≤ 13 →
    let m := t.acting c
    let queued := fun (i : Instr) (fn : Nat) (cas : Bool) (bs : List (List Word)) (passes : Nat) =>
      s.resultsFull s.cur q.toNat (min 16 bs.length) = false → bs.length ≤ s.freeSlots k q.toNat →
      ∃ s2 new op, s.Does i s2 t (t.advance 1) k t.counter passes [] [] 0
        ∧ s2 = { s with teams := s2.teams, ops := s.ops ++ [op], net := { s.net with cmds := s.net.cmds ++ new }, nextId := s2.nextId }
        ∧ (∀ v, v ≠ s.cur → s2.team? v = s.team? v) ∧ op.team = s.cur ∧ op.kind = .net ∧ op.parts = bs.length ∧ new.map NetCmd.block = bs
        ∧ ∀ y ∈ new, y.op = op.id ∧ y.team = s.cur ∧ y.world = k.world ∧ y.asn = k.asn ∧ y.q = q.toNat ∧ y.conn = (tget 0 t.conn q.toNat : BitVec 20).toNat
            ∧ y.fn = fn ∧ y.cas = cas ∧ y.state = 0 ∧ y.result = none
    (∀ x ∈ [(Instr.netPut q r u w, 0, false), (Instr.netGet q r u w, 1, false), (Instr.netAt q r u w o, 2, o == 1)],
      let n := if x.2.1 = 2 then 8 else 4
      r.toNat % 4 = 0 → r.toNat + n ≤ (if u = 1 then 128 else t.vN) →
      (∀ j < n, ∀ l ∈ Mask.lanes m, t.pend (if u = 1 then .uni (r.toNat + j) else .vec (r.toNat + j) l) = false) →
      (if u = 1 then [0] else Mask.lanes m).map (fun l => (List.range n).map (fun j => if u = 1 then t.uniform (r.toNat + j) else t.lane (r.toNat + j) l))
        = bs.map (fun b => b.map Val.word) →
      (∀ b ∈ bs, netBad x.2.1 b = false) → queued x.1 x.2.1 x.2.2 bs (if u = 1 then 1 else Mask.passes m))
    ∧ queued (.netFlush q w) 3 false [[]] 1

/-- R317, R319, R320, R322: what a datagram does: a bad one is dropped and counted; one whose record is not cached is parked, or its sender is
told to come again; of a served connection one whose tag is wrong is dropped and counted, a put at its turn is written and acknowledged with
its own mark echoed, or refused where it lies outside the window, a packet ahead of its turn is kept, and an acknowledgement answers what came
before it and counts its echo. -/
def Sys2Proof.Claims.DatagramsAreServed : Prop :=
  ∀ (d : Datagram) (s : State), s.capNet = true → d.port < 16 →
    let c := d.conn.toNat
    let dropped := fun (s2 : State) => s2.mem = s.mem ∧ s2.teams = s.teams ∧ s2.net.sent = s.net.sent
      ∧ ∀ p, tget 0 s2.net.drops p = tget 0 s.net.drops p + (if p = d.port then 1 else 0)
    (datagramBad d = true → ∃ s2, exec (.datagramReceive d) s = .next s2 ∧ dropped s2 ∧ s2.net = { s.net with drops := s2.net.drops })
    ∧ (datagramBad d = false → c ∉ s.net.cached →
        ((((s.net.parked.filter (fun e => e.port == d.port)).map datagramSize).sum + datagramSize d ≤ 262144) →
          exec (.datagramReceive d) s = .next { s with net := { s.net with parked := s.net.parked ++ [d] } })
        ∧ (262144 < ((s.net.parked.filter (fun e => e.port == d.port)).map datagramSize).sum + datagramSize d →
          ∃ s2, exec (.datagramReceive d) s = .next s2 ∧ s2.net.parked = s.net.parked ∧ s2.mem = s.mem
            ∧ ∀ x, s.conn? c = some x → x.key.isSome = true → x.iv ≠ 0xFFFFFFFF → ∃ e, s2.net.sent = s.net.sent ++ [e] ∧ e.opcode = 7 ∧ e.seq = d.seq))
    ∧ (datagramBad d = false → c ∈ s.net.cached → (∀ e ∈ s.net.parked, e.conn ≠ d.conn) → ∀ x, s.conn? c = some x →
        (x.up = false ∨ x.authentic d = false → ∃ s2, exec (.datagramReceive d) s = .next s2 ∧ dropped s2)
        ∧ (x.up = true → x.authentic d = true → x.iv ≠ 0xFFFFFFFF →
          (d.opcode = 0 → d.seq = x.expSeq → x.buffered = [] → (s.touch c).netBusy x d = false →
            (∀ va s1, x.windowVA d.offset.toNat d.payload.length = some va →
              (s.touch c).windowWrite x (granulesOf d.payload.length va d.payload) = .ok s1 →
              ∃ s2 y e, exec (.datagramReceive d) s = .next s2 ∧ s2.mem = s1.mem ∧ s2.conn? c = some y ∧ y.expSeq = x.expSeq + 1
                ∧ s2.net.sent = s.net.sent ++ [e] ∧ e.opcode = 5 ∧ e.seq = d.seq ∧ e.conn = x.peerConn ∧ e.iv = x.iv + 1
                ∧ e.flags = (if d.mark then 1 else 0) ∧ e.udp = x.udp ∧ e.peer = x.peer ∧ e.version = 1 ∧ e.nonce = x.salt ++ (x.iv + 1))
            ∧ (x.windowVA d.offset.toNat d.payload.length = none →
              ∃ s2 y e, exec (.datagramReceive d) s = .next s2 ∧ s2.mem = s.mem ∧ s2.conn? c = some y ∧ y.expSeq = x.expSeq + 1
                ∧ s2.net.sent = s.net.sent ++ [e] ∧ e.opcode = 6 ∧ e.seq = d.seq ∧ e.payload = Config.netNakBody 3))
          ∧ (d.opcode.toNat ≤ 4 → d.seq ≠ x.expSeq → (d.seq - x.expSeq).toNat < 2 ^ 31 → (∀ e ∈ x.buffered, e.seq ≠ d.seq) → x.buffered.length < 64 →
            ∃ s2 y, exec (.datagramReceive d) s = .next s2 ∧ s2.mem = s.mem ∧ s2.conn? c = some y ∧ y = { x with buffered := x.buffered ++ [d] })
          ∧ (d.opcode = 5 → ∃ s2 y, exec (.datagramReceive d) s = .next s2 ∧ s2.mem = s.mem ∧ s2.conn? c = some y
              ∧ y = { x with timeouts := 0, unackd := x.unackd.filter (fun p => decide (2 ^ 31 ≤ (d.seq - p.seq).toNat)), rtt := y.rtt
                             backTotal := x.backTotal + 1, backMarked := x.backMarked + if d.flags.getLsbD 0 then 1 else 0 }
              ∧ ∀ p, x.unackd.find? (fun p => p.seq == d.seq) = some p → y.rtt = (s.portDcc x - p.sentAt).toNat)))

/-- R318, R319, R321, R322: a fetched record is cached and what is parked for it served; when the oldest packet has waited for twice the round
trip and 8,192 DCC it is sent again, and the 16th time in a row stops the connection and ends its commands with status 4; packets held by a
receiver not ready are free again 8,192 DCC later; after a round trip the rate follows the marks that came back. -/
def Sys2Proof.Claims.ConnectionsRecover : Prop :=
  ∀ (c : Nat) (s : State),
    ((∃ d ∈ s.net.parked, d.conn.toNat = c) → ∃ s2, exec (.connRecordFetch c) s = .next s2 ∧ c ∈ s2.net.cached
      ∧ s2.net.parked = s.net.parked.filter (fun d => d.conn.toNat != c))
    ∧ ∀ x, s.conn? c = some x → (s.net.cmds.map NetCmd.id).Nodup →
      let now := s.portDcc x
      let late := ∃ p, x.unackd.find? (fun p => p.sent) = some p ∧ 2 * x.rtt ≤ (now - p.sentAt).toNat ∧ 8192 ≤ (now - p.sentAt).toNat
      let due := fun (p : NetPkt) => ∃ a, p.rnr = some a ∧ 8192 ≤ (now - a).toNat
      (x.up = true → late →
        (15 ≤ x.timeouts → ∃ s2 y, exec (.netRetransmitTimeout c) s = .next s2 ∧ s2.mem = s.mem ∧ s2.conn? c = some y
          ∧ y = { x with up := false, unreachable := true, timeouts := 16, unackd := [], expects := [], answers := [] }
          ∧ ∀ n ∈ s2.net.cmds, n.conn = c → n.state ≠ 0 → n.result.isSome = true)
        ∧ (x.timeouts < 15 → ∃ s2 y, exec (.netRetransmitTimeout c) s = .next s2 ∧ s2.mem = s.mem ∧ s2.conn? c = some y ∧ y.timeouts = x.timeouts + 1
          ∧ y.up = true ∧ y.unackd.map NetPkt.seq = x.unackd.map NetPkt.seq))
      ∧ (x.up = false ∨ ¬ late → exec (.netRetransmitTimeout c) s = .next s)
      ∧ ((∃ p ∈ x.unackd, due p) → ∃ s2 y, exec (.rnrRetransmit c) s = .next s2 ∧ s2.mem = s.mem ∧ s2.conn? c = some y
          ∧ y.unackd.map NetPkt.seq = x.unackd.map NetPkt.seq ∧ ∀ p ∈ y.unackd, ¬ due p)
      ∧ ((∀ p ∈ x.unackd, ¬ due p) → exec (.rnrRetransmit c) s = .next s)
      ∧ (∀ marked total, (x.backTotal = 0 ∨ (now - x.rateAt).toNat < x.rtt ∨ marked ≠ x.backMarked ∨ total ≠ x.backTotal) →
          exec (.rateUpdate c marked total) s = .next s)
      ∧ (x.backTotal ≠ 0 → x.rtt ≤ (now - x.rateAt).toNat → x.backMarked ≤ x.backTotal → 0 < x.rate.1 → 0 < x.rate.2 →
          ∃ s2 y, exec (.rateUpdate c x.backMarked x.backTotal) s = .next s2
          ∧ s2 = { s with net := { s.net with conns := s2.net.conns } } ∧ s2.conn? c = some y
          ∧ y = { x with rate := y.rate, backMarked := 0, backTotal := 0, rateAt := now }
          ∧ y.rate.2 ≤ y.rate.1 ∧ y.rate.1 ≤ 1600 * y.rate.2
          ∧ (let want := if x.backMarked = 0 then (x.rate.1 + x.rate.2, x.rate.2)
               else (x.rate.1 * (2 * x.backTotal - x.backMarked), x.rate.2 * (2 * x.backTotal))
             want.2 ≤ want.1 → want.1 ≤ 1600 * want.2 → y.rate.1 * want.2 = want.1 * y.rate.2))

/-! ## Routes -/

/-- R213, R214, R216: `annc`, `wdrw`, `hmove`, `rlook` and `rstat` enter the die's route engine and leave their destinations pending. -/
def Sys2Proof.Claims.RouteCommandsQueue : Prop :=
  ∀ (d a : BitVec 7) (h : BitVec 1) (tb : BitVec 2) (w : BitVec 3) (s : State) (t : Team) (k : Crew) (c : Clause) (b : List Word) (va : Nat → VA),
    s.Ready t k c → Mask.none (t.acting c) = false → w ≠ 6 → s.acquiring s.cur = false → (w.toNat < 6 → t.counter w.toNat ≠ 63) →
    s.resultsFull s.cur 9 1 = false → (s.die k.die).routes.length < 64 →
    let m := t.acting c
    let queued := fun (i : Instr) (fn : Nat) (passes : Nat) (dst : List UnitRef) (also : RouteCmd → Prop) => s.writable t dst →
      ∃ s2 y op, s.Does i s2 t (t.advance 1) k (t.raised w) passes [] dst 0
        ∧ s2 = { s with teams := s2.teams, dies := s2.dies, ops := s.ops ++ [op], nextId := s2.nextId } ∧ (∀ v, v ≠ s.cur → s2.team? v = s.team? v)
        ∧ (∀ n, s2.die n = if n = k.die then { s.die n with routes := (s.die n).routes ++ [y] } else s.die n)
        ∧ op.team = s.cur ∧ op.kind = .route ∧ op.w = w ∧ op.owed = dst.map (fun r => { unit := r, gen := t.gen r + 1 })
        ∧ y.op = op.id ∧ y.team = s.cur ∧ y.die = k.die ∧ y.world = k.world ∧ y.asn = k.asn ∧ y.fn = fn ∧ y.started = false ∧ also y
    (a.toNat % 4 = 0 → b.length = 4 → (((b.getD 3 0).toNat % 256 = 16 ∨ (b.getD 3 0).toNat % 256 = 17) → s.capCxl = true) →
      (∀ j < 4, j ≠ 2 → t.pend (.uni (a.toNat + j)) = false ∧ t.uniform (a.toNat + j) = .word (b.getD j 0)) →
      queued (.wdrw d a w) 1 1 [.uni d.toNat] (fun y => ∀ j < 4, j ≠ 2 → y.block.getD j 0 = b.getD j 0)
      ∧ (t.pend (.uni (a.toNat + 2)) = false → t.uniform (a.toNat + 2) = .word (b.getD 2 0) →
          queued (.annc d a w) 0 1 [.uni d.toNat] (fun y => y.block = b) ∧ queued (.hmove d a w) 3 1 [.uni d.toNat] (fun y => y.block = b)))
    ∧ (a.toNat % 2 = 0 → t.holds [d, a] → a.toNat + 1 < t.vN → t.landed (group a 2 m) →
        (∀ l ∈ Mask.lanes m, ∃ hi lo, t.lane a.toNat l = .word lo ∧ t.lane (a.toNat + 1) l = .word hi ∧ va l = hi ++ lo) →
        queued (.rlook d a h w) 2 (Mask.passes m) (laneUnits d m) (fun y => y.homeOnly = (h == 1) ∧ y.lanes = (Mask.lanes m).map (fun l => (l, va l))))
    ∧ (tb ≠ 3 → d.toNat % 2 = 0 → queued (.rstat d tb w) 4 1 (pairUnits d) (fun y => y.table = tb.toNat))

/-- A command's status word goes to its destination and its place in the engine is free (R215, R216). -/
def Sys2Proof.Claims.answers (s2 : State) (y : RouteCmd) (op : OpRec) (vs : List Word) : Prop :=
  (∃ ld ∈ s2.lands, ld.op = y.op ∧ ld.team = y.team ∧ ld.writes = op.owed.zip (vs.map (fun w => UnitVal.w (.word w))))
  ∧ ∀ x ∈ (s2.die y.die).routes, x.id ≠ y.id
def Sys2Proof.Claims.statusWord (code acks : Nat) (gen : BitVec 8) : Word := BitVec.ofNat 32 (gen.toNat * 65536 + acks % 256 * 256 + code)

/-- R215 to R218, R220, R221: the first command that may start does: an announcement or withdrawal is refused with the first code that fails, or
spreads from its holder; a lookup answers lane by lane and a table query with its counts. -/
def Sys2Proof.Claims.RouteCommandsRun : Prop :=
  ∀ (die : Nat) (s : State) (y : RouteCmd) (op : OpRec), (∀ x ∈ s.transfers, x.step ≠ 3) → (s.die die).routes.find? s.mayStart = some y → y.die = die →
    s.op? y.op = some op → s.routeCmd? y.id = some y → (s.die die).routes.filter (fun x => x.id == y.id) = [y] →
    ((s.dies.flatMap (fun x => x.2.routes)).filter (fun x => x.id == y.id)).length = 1 → (∀ x ∈ s.campaigns, s.campaignDone x = false) → s.nodesUp ≠ [] →
    let a := annOf y.block y.world
    let old := s.held a
    let gen := match old, (s.node die).table.find? (fun e => e.sameKey a) with | some e, _ => e.gen | none, some e => e.gen | none, none => 0
    ∃ s2, exec (.routeCommandStart die) s = .next s2 ∧ s2.teams = s.teams
      ∧ (y.fn = 0 →
          if blkBad 0 y.block then answers s2 y op [statusWord 0x02 0 gen]
          else if s.holderUp a.holder = false then answers s2 y op [statusWord 0x06 0 gen]
          else if capacity a.holder ≤ a.localBase then answers s2 y op [statusWord 0x03 0 gen]
          else if old.isSome ∧ newerGen a.gen gen = false then answers s2 y op [statusWord 0x05 0 gen]
          else if s.rangeForeign a.holder a.localBase (2 ^ (52 - a.len)) y.world = true then answers s2 y op [statusWord 0x08 0 gen]
          else a ∈ (s2.holder a.holder).anns ∧ ∃ camp ∈ s2.campaigns, camp.ann = a ∧ camp.withdraw = false ∧ camp.acks = [] ∧ camp.purpose = .cmd y.id)
      ∧ (y.fn = 1 →
          if blkBad 1 y.block then answers s2 y op [statusWord 0x02 0 gen]
          else if s.holderUp a.holder = false then answers s2 y op [statusWord 0x06 0 gen]
          else match old with
            | none => answers s2 y op [statusWord 0x04 0 0]
            | some e => ∃ camp ∈ s2.campaigns, camp.ann = e ∧ camp.withdraw = true ∧ camp.acks = [] ∧ camp.purpose = .cmd y.id)
      ∧ (y.fn = 2 → answers s2 y op (y.lanes.map (fun l => s.lookLane y l.2)))
      ∧ (y.fn = 4 → let n := if y.table = 0 then die else 8 + attach die (y.table - 1)
          if 8 ≤ n ∧ s.pierUp (n - 8) = false then answers s2 y op [0xFFFFFFFF, 0xFFFFFFFF]
          else answers s2 y op [BitVec.ofNat 32 ((s.node n).table.length + ((if n < 8 then 4096 else 16384) - (s.node n).table.length) * 65536), (s.node n).count])

/-- R203, R204: every 256 DCC of its own a node sends what it holds to send to each neighbour; a node that receives a copy installs a newer
announcement or removes a withdrawn key, and acknowledges; the last acknowledgement completes a command. -/
def Sys2Proof.Claims.AnnouncementsSpread : Prop :=
  (∀ (n : Nat) (s : State), s.nodeUp n = true → (8 ≤ n → (s.pier (n - 8)).fenced = false ∧ (s.pier (n - 8)).toWithdraw = []) →
    (s.node n).round.toNat ≤ (s.nodeDcc n).toNat → (∀ x ∈ s.campaigns, s.campaignDone x = false) →
    ∃ s2 new, exec (.routeRound n) s = .next s2 ∧ s2.routeMsgs = s.routeMsgs ++ new ∧ s2.node n = { s.node n with outbox := [], round := s.nodeDcc n + 256 }
      ∧ new.map (fun m => (m.src, m.node, m.camp, m.ann, m.withdraw))
          = (s.neighbours n).flatMap (fun m => (s.node n).outbox.map (fun x => (n, m, x.1, x.2.1, x.2.2)))
      ∧ s2.teams = s.teams ∧ s2.mem = s.mem)
  ∧ (∀ (id : Nat) (s : State) (m : RouteMsg), s.routeMsgs.find? (fun x => x.id == id) = some m →
      s.routeMsgs.find? (fun x => x.src == m.src && x.node == m.node) = some m → s.replaysTo m.src m.node = false →
      s.stopsTo m.src m.node 3 = false → s.nodeUp m.node = true → m.node ∉ m.ann.path → (8 ≤ m.node → (s.pier (m.node - 8)).fenced = false) → (∀ x ∈ s.campaigns, s.campaignDone x = false) →
      m.camp ∉ (s.node m.node).acked →
      ∃ s2, exec (.announcementReceive id) s = .next s2 ∧ s2.routeMsgs = s.routeMsgs.filter (fun x => x.id != id) ∧ s2.teams = s.teams
        ∧ (m.withdraw = false → (∀ e ∈ (s.node m.node).table, e.sameKey m.ann = true → newerGen m.ann.gen e.gen = true) →
            (s.node m.node).table.length < tableCap m.node → m.ann.kind ≠ .mirror →
            m.ann ∈ (s2.node m.node).table ∧ (∀ e ∈ (s2.node m.node).table, e.sameKey m.ann = true → e = m.ann)
            ∧ (8 ≤ m.node → ∃ x ∈ (s2.node m.node).outbox, x.1 = m.camp ∧ x.2.1 = { m.ann with path := m.ann.path ++ [m.node] }))
        ∧ (m.withdraw = true → (∀ e ∈ (s2.node m.node).table, e.sameKey m.ann = true → newerGen e.gen m.ann.gen = true)
            ∧ (8 ≤ m.node → ∃ x ∈ (s2.node m.node).outbox, x.1 = m.camp ∧ x.2.1 = { m.ann with path := m.ann.path ++ [m.node] } ∧ x.2.2 = true))
        ∧ ∃ r, (r ∈ s2.routeAcks ∨ r ∈ (s2.node m.node).heldAcks) ∧ r.camp = m.camp ∧ r.node = m.node ∧ r.withdraw = m.withdraw)
  ∧ (∀ (id : Nat) (s : State) (r : RouteAck) (camp : Campaign), s.routeAcks.find? (fun x => x.id == id) = some r → r.full = false →
      s.stopsClass (linkWays r.node (holderLinks r.node camp.ann.holder)) 3 = false → s.campaigns = [camp] → camp.id = r.camp → r.node ∉ camp.acks →
      ((∃ n ∈ s.nodesUp, n ≠ r.node ∧ n ∉ camp.acks) → exec (.routeAckReceive id) s = .next { s with
          routeAcks := s.routeAcks.filter (fun x => x.id != id), campaigns := [{ camp with acks := camp.acks ++ [r.node] }] })
      ∧ ((∀ n ∈ s.nodesUp, n = r.node ∨ n ∈ camp.acks) → ∀ cmd y op, camp.purpose = .cmd cmd → s.routeCmd? cmd = some y → s.op? y.op = some op →
          ((s.dies.flatMap (fun x => x.2.routes)).filter (fun x => x.id == y.id)).length = 1 → y ∈ (s.die y.die).routes → y.id = cmd →
          ∃ s2, exec (.routeAckReceive id) s = .next s2 ∧ s2.campaigns = [] ∧ answers s2 y op [statusWord 0x00 (camp.acks.length + 1) camp.ann.gen]))

/-! ## Links and silence -/

/-- R230, R231: a flit is new or one of the last 256 sent; a good one at its turn is acknowledged and ends a replay, one with a bad CRC starts
one, one of another number is discarded; a replay that is not ended in 512 DCC of its sender fails and is made again, and the 16th failure in a
row fails the link; a class is stopped and resumed. -/
def Sys2Proof.Claims.LinksReplayAndFail : Prop :=
  ∀ (l : Nat) (toB : Bool) (seq : BitVec 12) (cls : BitVec 2) (off : Bool) (s : State), l < 36 →
    let d := (s.link l).toward toB
    let now := s.endDcc (linkSender l toB)
    let becomes := fun (i : Instr) (d2 : LinkDir) => ∃ s2, exec i s = .next s2 ∧ s2 = { s with links := s2.links }
      ∧ (s2.link l).toward toB = d2 ∧ (s2.link l).toward (!toB) = (s.link l).toward (!toB) ∧ (s2.link l).failed = (s.link l).failed
      ∧ ∀ x, x ≠ l → s2.link x = s.link x
    becomes (.flowControlSignal l toB cls off) { d with off := if off then d.off ||| (1#4 <<< cls.toNat) else d.off &&& ~~~(1#4 <<< cls.toNat) }
    ∧ ((s.link l).failed = false →
      (seq ≠ d.send → d.kept < (d.send - seq).toNat → ∀ ok, exec (.flitReceive l toB seq ok) s = .next s)
      ∧ (seq = d.send ∨ (d.send - seq).toNat ≤ d.kept →
          let kept := if seq = d.send then min 256 (d.kept + 1) else d.kept
          let send := if seq = d.send then d.send + 1 else d.send
          (seq ≠ d.expect → ∀ ok, becomes (.flitReceive l toB seq ok) { d with quiet := 0, send := send, kept := kept })
          ∧ (seq = d.expect → becomes (.flitReceive l toB seq true) { d with
              quiet := 0, send := send, kept := kept, expect := d.expect + 1, replaying := false, failedReplays := 0 })
          ∧ (seq = d.expect → d.replaying = false → becomes (.flitReceive l toB seq false) { d with
              quiet := 0, send := send, kept := kept, replaying := true, replayTill := now + 512 })
          ∧ (seq = d.expect → d.replaying = true → d.failedReplays < 15 → becomes (.flitReceive l toB seq false) { d with
              quiet := 0, send := send, kept := kept, failedReplays := d.failedReplays + 1, replayTill := now + 512 }))
      ∧ (d.replaying = true → d.failedReplays < 15 → d.replayTill.toNat ≤ now.toNat →
          becomes (.replayTimeout l toB) { d with failedReplays := d.failedReplays + 1, replayTill := now + 512 })
      ∧ (d.replaying = true → now.toNat < d.replayTill.toNat → exec (.replayTimeout l toB) s = .next s)
      ∧ (d.replaying = true → 15 ≤ d.failedReplays → d.replayTill.toNat ≤ now.toNat →
          ∃ s2, exec (.replayTimeout l toB) s = .next s2 ∧ (s2.link l).failed = true))

/-- R243, R239, R242, R354, R296: a pier that marks its link to a neighbour lost takes it out of use and tells the neighbour's other
neighbours; the second loss a pier records of another makes it declare that pier silent, and a pier that has lost two of its own fences
itself. A silence notice makes a declared die's other attach pier fence it, starts a task unit's hold of relaunches, and the next die in service adopts
a silent die's cards. -/
def Sys2Proof.Claims.LostLinksAndSilence : Prop :=
  (∀ (n j : Nat) (s : State), n < 8 → j ∈ pierNbrs n → (s.pier n).silent = false → (n, j) ∉ (s.pier n).lost →
    (s.link (pierLink n j)).failed = true ∨ 4 ≤ ((s.link (pierLink n j)).toward (pierIsA j n)).quiet →
    ∃ s2, exec (.linkLostTimeout n j) s = .next s2 ∧ (n, j) ∈ (s2.pier n).lost ∧ (s2.link (pierLink n j)).failed = true
      ∧ (∀ m ∈ pierNbrs j, m ≠ n → ∃ x ∈ s2.notices, x.2 = .linkLost m n j)
      ∧ ((∃ x ∈ (s.pier n).lost, x.1 = n) → (s2.pier n).fenced = true)
      ∧ ((∀ x ∈ (s.pier n).lost, x.1 ≠ n) → (s.pier n).fenced = false → (∃ x ∈ (s.pier n).lost, x.2 = j) → (s2.pier j).silent = true)
      ∧ ((∀ x ∈ (s.pier n).lost, x.1 ≠ n ∧ x.2 ≠ j) → (s2.pier n).fenced = (s.pier n).fenced ∧ (s2.pier j).silent = (s.pier j).silent))
  ∧ (∀ (id m teller j : Nat) (s : State), s.notices.find? (fun x => x.1 == id) = some (id, .linkLost m teller j) →
    (teller, j) ∉ (s.pier m).lost → teller ≠ m → (∀ x ∈ (s.pier m).lost, x.1 ≠ m) →
    ∃ s2, exec (.linkLostNotice id) s = .next s2 ∧ (teller, j) ∈ (s2.pier m).lost
      ∧ ((s.pier m).silent = false → (s.pier m).fenced = false → (∃ x ∈ (s.pier m).lost, x.2 = j) → (s2.pier j).silent = true)
      ∧ ((∀ x ∈ (s.pier m).lost, x.2 ≠ j) → s2 = { s with notices := s.notices.filter (fun x => x.1 != id), piers := s2.piers }))
  ∧ (∀ (id n j : Nat) (s : State), s.notices.find? (fun x => x.1 == id) = some (id, .silence n j) →
    let received := { s with notices := s.notices.filter (fun x => x.1 != id) }
    (8 ≤ n → (∀ p, j < 8 → (s.die j).declared = some p → n ≠ 8 + otherAttach j p) → exec (.silenceNoticeReceive id) s = .next received)
    ∧ (∀ p, j < 8 → (s.die j).declared = some p → n = 8 + otherAttach j p → (s.die j).silent = false →
      ∃ s2, exec (.silenceNoticeReceive id) s = .next s2 ∧ (s2.die j).silent = true ∧ (s2.die j).routes = []
        ∧ ∀ u t, s.team? u = some t → (∃ k, s.crew? t.crew = some k ∧ k.die = j) →
            ∃ t2, s2.team? u = some t2 ∧ t2.status = .ended ∧ t2.clause = none ∧ t2.fifo = [])
    ∧ (n < 8 → s.dieUp n = true → (s.die n).silent = false →
      ∃ s2, exec (.silenceNoticeReceive id) s = .next s2 ∧ (j, 0) ∈ (s2.die n).holds
        ∧ (8 ≤ j ∨ ((s.die j).silent = false ∧ (s.die j).declared = none) ∨ s.nextDie j ≠ some n → s2 = { received with dies := s2.dies })
        ∧ (j < 8 → (s.die j).silent = true ∨ (s.die j).declared.isSome → s.nextDie j = some n → (s2.die j).silent = true ∧
            ∀ x ∈ s.cards, x.die = j → ∃ y ∈ s2.cards, y.tid = x.tid ∧ y.die = n ∧ y.image = x.image)))

/-! ## Deferring mode -/

/-- R143: the mode and status words. `rdrain` and `defer.off` go on with an empty FIFO. -/
def Sys2Proof.Claims.DeferringModeWords : Prop :=
  ∀ (m : BitVec 8) (d : BitVec 7) (s : State) (t : Team) (k : Crew) (c : Clause), s.Ready t k c → Mask.none (t.acting c) = false →
    s.Does .deferOn s t (({ t with defOn := true } : Team).advance 1) k t.counter 1 [] [] 0
    ∧ s.Does .deferOff s t (({ t with defOn := false } : Team).advance 1) k t.counter 1 [] [] 0
    ∧ (m.toNat ≤ 1 → s.Does (.deferStrict m) s t (({ t with strict := m == 1 } : Team).advance 1) k t.counter 1 [] [] 0)
    ∧ (t.fifo = [] → s.Completes .rdrain t k 1 1 [] 0)
    ∧ (m.toNat ≤ 4 → s.writable t [.uni d.toNat] → ∃ w : Word, s.Completes (.rfstat d m) t k 1 1 [(.uni d.toNat, .w (.word w))] 0
        ∧ (m = 0 → w = BitVec.ofNat 32 t.fifo.length) ∧ (m = 1 → w = BitVec.ofNat 32 t.rN)
        ∧ (m = 2 → w = BitVec.ofNat 32 (t.fifo.map Entry.laneWords).sum) ∧ (m = 3 → w = BitVec.ofNat 32 (64 * t.rN))
        ∧ (m = 4 → ∀ i < 32, (w.getLsbD i = true ↔ (i = 0 ∧ ∃ e ∈ t.fifo, memChain e.word = true) ∨ (16 ≤ i ∧ ∃ e ∈ t.fifo, i - 16 ∈ queuesOf e.word))))

/-- The operands of a two-operand lane word, and the lane-words they take in an entry (R131). -/
def Sys2Proof.Claims.operands (a b : BitVec 7) (u : BitVec 1) (m : Mask) : List UnitRef := laneUnits a m ++ secondUnits b u m
def Sys2Proof.Claims.operandWords (u : BitVec 1) (m : Mask) : Nat := 32 * Mask.passes m + (if u = 1 then 1 else 32 * Mask.passes m)

/-- R130, R131, R133, R137, R139: in deferring mode a lane word that finds an operand pending is captured: the entry holds it with its mask
and its operands, landed or awaited; its destinations are pending at the generations it records, control flow and the pass count go on. With
no room the team parks, or traps 0x14 under STR. -/
def Sys2Proof.Claims.PendingWordsAreCaptured : Prop :=
  ∀ op ∈ integerBinary, ∀ (d a b : BitVec 7) (u : BitVec 1) (s : State) (t : Team) (k : Crew) (c : Clause),
    s.current = some (t, k) → t.clause = some c → c.issued = true → t.status = .running → t.hold = .none → t.late = none →
    t.stop.arm = false → t.stop.mode = false → c.deferring = true → c.issuedTo = 0 → Mask.none (t.acting c) = false →
    let m := t.acting c
    let i := op.1 d a b u
    let need := operandWords u m
    let held := (t.fifo.map Entry.laneWords).sum
    t.holds [d, a] → (u = 0 → t.holds [b]) → (∃ r ∈ operands a b u m, t.pend r = true) →
    (t.rN ≠ 0 → need ≤ 64 * t.rN → t.fifo.length < t.rN → held + need ≤ 64 * t.rN →
      (∀ r ∈ laneUnits d m, r.wired = false → t.gen r + 1 ∉ s.carried s.cur t r) →
      ∃ s2 t2 e, exec i s = .next s2 ∧ s2.team? s.cur = some t2 ∧ s2 = { s with teams := s2.teams, cores := s2.cores }
        ∧ (∀ v, v ≠ s.cur → s2.team? v = s.team? v) ∧ (∀ j, s2.core j = if j = k.coreKey then (s.core j).counted c.onB (Mask.passes m) else s.core j)
        ∧ t2.fifo = t.fifo ++ [e] ∧ e.instr = i ∧ e.mask = m ∧ e.va = c.wordVA c.idx ∧ e.hdrVA = c.hdrVA
        ∧ e.hdr = c.hdr ∧ e.rm = t.rm ∧ e.laneWords = need ∧ e.base = [] ∧ e.issuedTo = 0 ∧ (encode i).head? = some e.word
        ∧ e.slots.map (fun y => (y.unit, y.want, y.got))
            = (operands a b u m).map (fun r => (r, t.gen r, if t.pend r = true then none else some (t.unit r)))
        ∧ e.dests = ((laneUnits d m).filter (fun r => !r.wired)).map (fun r => { unit := r, gen := t.gen r + 1 })
        ∧ (∀ r, t2.unit r = t.unit r) ∧ (∀ r ∈ laneUnits d m, r.wired = false → t2.pend r = true ∧ t2.gen r = t.gen r + 1)
        ∧ (∀ r, r ∉ laneUnits d m → t2.pend r = t.pend r ∧ t2.gen r = t.gen r)
        ∧ t2 = { t.advance 1 with v := t2.v, fifo := t2.fifo, passes := t.passes + BitVec.ofNat 64 (Mask.passes m), stall := 0
                                  total := t.total + BitVec.ofNat 64 (Mask.passes m), lastA := t2.lastA, lastB := t2.lastB })
    ∧ (t.rN = 0 ∨ 64 * t.rN < need ∨ (t.strict = true ∧ (t.rN ≤ t.fifo.length ∨ 64 * t.rN < held + need)) →
      ∃ s2 t2 x, exec i s = .next s2 ∧ s2.team? s.cur = some t2 ∧ t2.status = .suspended ∧ t2.trap = some x ∧ x.cause = 0x14 ∧ s2.mem = s.mem)
    ∧ (t.strict = false → t.rN ≠ 0 → need ≤ 64 * t.rN → t.rN ≤ t.fifo.length ∨ 64 * t.rN < held + need →
      exec i s = .next (s.setTeam s.cur { t with stall := 3 }))

/-- R134, R136: the entry at the head, when its operands have come, does what its word does, with the captured values and lanes. A lane is
written where the generation is still the entry's, and the value goes to every slot that awaits it; a trap reported late comes first. -/
def Sys2Proof.Claims.HeadEntriesRun : Prop :=
  ∀ op ∈ integerBinary, ∀ (d a b : BitVec 7) (u : BitVec 1) (x : UnitRef → Val) (n : Nat) (s : State) (t : Team) (k : Crew) (e : Entry) (rest : List Entry),
    s.team? n = some t → s.crew? t.crew = some k → t.fifo = e :: rest → t.status = .running →
    e.instr = op.1 d a b u → e.slots.map (fun y => (y.unit, y.got)) = (operands a b u e.mask).map (fun r => (r, some (UnitVal.w (x r)))) → e.base = [] →
    e.issuedTo = 0 → (∀ l ∈ Mask.lanes e.mask, d ≠ 0 → ∃ o ∈ e.dests, o.unit = .vec d.toNat l) → (e.dests.map Owed.unit).Nodup →
    let value := fun l => Val.map2 op.2 (x (.vec a.toNat l)) (x (if u = 1 then .uni b.toNat else .vec b.toNat l))
    (t.late = none → ∃ s2 t2, exec (.residualEntryRun n) s = .next s2 ∧ s2.team? n = some t2
      ∧ t2 = { t with v := t2.v, fifo := t2.fifo, stall := if t.hold = .none then 0 else t.stall, lastA := t2.lastA, lastB := t2.lastB }
      ∧ (∀ r, t2.gen r = t.gen r)
      ∧ (∀ o ∈ e.dests, ∀ l ∈ Mask.lanes e.mask, d ≠ 0 → o.unit = .vec d.toNat l →
          (t.gen o.unit = o.gen → t2.unit o.unit = .w (value l) ∧ t2.pend o.unit = false)
          ∧ (t.gen o.unit ≠ o.gen → t2.unit o.unit = t.unit o.unit ∧ t2.pend o.unit = t.pend o.unit)
          ∧ ∀ e2 ∈ t2.fifo, ∀ y ∈ e2.slots, y.unit = o.unit → y.want = o.gen → y.got.isSome = true)
      ∧ (∀ r, (∀ l ∈ Mask.lanes e.mask, r ≠ .vec d.toNat l) → t2.unit r = t.unit r ∧ t2.pend r = t.pend r)
      ∧ (d = 0 → ∀ r, t2.unit r = t.unit r ∧ t2.pend r = t.pend r)
      ∧ t2.fifo.map (fun y => (y.instr, y.mask, y.dests)) = rest.map (fun y => (y.instr, y.mask, y.dests))
      ∧ (∀ v, v ≠ n → s2.team? v = s.team? v) ∧ s2 = { s with teams := s2.teams, cores := s2.cores }
      ∧ ∀ j, s2.core j = if j = k.coreKey then (s.core j).counted (fld e.hdr 4 3 != 0) (Mask.passes e.mask) else s.core j)
    ∧ (∀ i, t.late = some i → ∃ s2 t2, exec (.residualEntryRun n) s = .next s2 ∧ s2.team? n = some t2 ∧ t2.status = .suspended ∧ t2.fifo = []
        ∧ ∃ i2, t2.trap = some i2 ∧ i2.cause = i.cause)

/-- R140, R293: a trap of a team in deferring mode empties its FIFO; the units whose current generation an entry set are poison as a whole
and no longer pending, every other unit is as it was. -/
def Sys2Proof.Claims.TrapsDiscardEntries : Prop :=
  ∀ (n : BitVec 8) (s : State) (t : Team) (k : Crew) (c : Clause),
    s.current = some (t, k) → t.clause = some c → c.issued = true → t.status = .running → t.hold = .none → t.late = none →
    t.stop.arm = false → t.stop.mode = false → Mask.none (t.acting c) = false →
    ∃ s2 t2 x, exec (.trap n) s = .next s2 ∧ s2.team? s.cur = some t2 ∧ t2.status = .suspended ∧ t2.trap = some x ∧ x.cause = 0x1A
      ∧ x.faultVA = n.setWidth 64 ∧ x.hdrVA = c.hdrVA ∧ t2.fifo = [] ∧ s2.mem = s.mem ∧ (∀ v, v ≠ s.cur → s2.team? v = s.team? v)
      ∧ (∀ e ∈ t.fifo, ∀ o ∈ e.dests, t.gen o.unit = o.gen → o.unit.wired = false → t2.pend o.unit = false
          ∧ (∀ r l, o.unit = .vec r l → t2.unit o.unit = .w .poison) ∧ (∀ r, o.unit = .uni r → t2.unit o.unit = .w .poison)
          ∧ (∀ r w, o.unit = .pred r w → (t2.unit o.unit).preds.2 = 0xFFFFFFFF)
          ∧ (∀ r, o.unit = .acc r → ∀ i < 512, tget (.word 0) (t2.unit o.unit).accu.1 i = .poison))
      ∧ (∀ r, (∀ e ∈ t.fifo, ∀ o ∈ e.dests, o.unit = r → t.gen r ≠ o.gen) → t2.unit r = t.unit r ∧ t2.pend r = t.pend r ∧ t2.gen r = t.gen r)

/-! ## Poison tests and the scrubber -/

/-- R84, R85: `ptst` reports poison without taking it; `pchk` and `pchks` go on where nothing they check is poisoned and else trap 0x10. -/
def Sys2Proof.Claims.PoisonTests : Prop :=
  ∀ (d r : BitVec 7) (j : BitVec 5) (n : BitVec 8) (s : State) (t : Team) (k : Crew) (c : Clause), s.Ready t k c → Mask.none (t.acting c) = false →
    let m := t.acting c
    let test := fun (l : BitVec 3) (w : Word) => s.writable t [.uni d.toNat] → s.Completes (.ptst d r j l) t k 1 1 [(.uni d.toNat, .w (.word w))] 0
    let check := fun (l : BitVec 3) (bad : Prop) =>
      (¬ bad → s.Completes (.pchk r l) t k 1 1 [] 0) ∧ (bad → ∃ s' t', exec (.pchk r l) s = .next s' ∧ s.Trapped s' t t' 0x10 c.hdrVA)
    let accBad := fun (q : Nat) => ∃ i < 512, i % 64 / 32 + 2 * (i / 64) = q ∧ tget (.word 0) (t.unit (.acc r.toNat)).accu.1 i = .poison
    (t.holds [r] →
      (t.landed ((Mask.lanes (m.only j.toNat)).map (UnitRef.vec r.toNat)) →
        test 0 (maskWord (fun i => Mask.has m (32 * j.toNat + i) && (t.lane r.toNat (32 * j.toNat + i)).isPoison)))
      ∧ (t.landed (laneUnits r m) → check 0 (∃ l ∈ Mask.lanes m, (t.lane r.toNat l).isPoison = true)))
    ∧ (t.landed [.uni r.toNat] → (j = 0 → test 1 (if (t.uniform r.toNat).isPoison then 1 else 0)) ∧ check 1 ((t.uniform r.toNat).isPoison = true))
    ∧ (r.toNat < 8 →
      (t.landed ((Mask.words (m.only j.toNat)).map (UnitRef.pred r.toNat)) →
        test 2 (maskWord (fun i => Mask.has m (32 * j.toNat + i) && t.flagBad (r.setWidth 3) (32 * j.toNat + i))))
      ∧ (t.landed (wordUnits (r.setWidth 3) m) → check 2 (∃ l ∈ Mask.lanes m, t.flagBad (r.setWidth 3) l = true)))
    ∧ (r.toNat < t.aN → t.landed [.acc r.toNat] → (∀ x ∈ (t.unit (.acc r.toNat)).accu.1, x.1 < 512) →
      (t.unit (.acc r.toNat)).accu.1.Pairwise (fun x y => x.1 < y.1) →
      (j = 0 → ∀ w : Word, (∀ q < 16, w.getLsbD q = true ↔ accBad q) → (∀ q, 16 ≤ q → w.getLsbD q = false) → test 3 w) ∧ check 3 (∃ q < 16, accBad q))
    ∧ (r.toNat < 16 → t.landed [.tile r.toNat] →
      (j = 0 → test 4 (if (t.unit (.tile r.toNat)).tile.2 then 1 else 0)) ∧ check 4 ((t.unit (.tile r.toNat)).tile.2 = true))
    ∧ (n ≠ 0 → r.toNat + n.toNat ≤ 128 → t.landed ((List.range n.toNat).map (fun i => UnitRef.uni (r.toNat + i))) →
      ((∀ i < n.toNat, (t.uniform (r.toNat + i)).isPoison = false) → s.Completes (.pchks r n) t k 1 1 [] 0)
      ∧ ((∃ i < n.toNat, (t.uniform (r.toNat + i)).isPoison = true) → ∃ s' t', exec (.pchks r n) s = .next s' ∧ s.Trapped s' t t' 0x10 c.hdrVA))

/-- R79, R80, R245, R332, R337: a visit that finds no wrong bit leaves all as it is; one wrong bit is corrected, counted and logged; more poison
the word, whose poison comes from no holder. -/
def Obligations.ScrubberVisits : Prop :=
  ∀ (wrong : BitVec 2) (onRead : Bool) (s : State),
    (∀ p, exec (.scrubVisit p 0 onRead) s = .next s)
    ∧ (∀ (n r l : Nat) (t : Team) (k : Crew), s.team? n = some t → s.crew? t.crew = some k → t.status ≠ .ended → t.status ≠ .saved → r ≠ 0 → r < t.vN →
      l < 32 * t.width → wrong ≠ 0 →
      ∃ s2 t2, exec (.scrubVisit (.vec n r l) wrong onRead) s = .next s2 ∧ s2.team? n = some t2 ∧ s2.mem = s.mem
        ∧ t2 = (if wrong = 1 then t else { t with v := t2.v, poisonHolder := 0xFF })
        ∧ (wrong ≠ 1 → t2.unit (.vec r l) = .w .poison ∧ (∀ u, u ≠ .vec r l → t2.unit u = t.unit u) ∧ ∀ u, t2.pend u = t.pend u ∧ t2.gen u = t.gen u)
        ∧ s2 = { s with teams := s2.teams, cores := s2.cores, dies := s2.dies, free := s2.free }
        ∧ (let x := s.core k.coreKey
           let y := s2.core k.coreKey
           (wrong = 1 → y.ecdb = x.ecdb ∧ (x.ecsb ≠ BitVec.allOnes 32 → y.ecsb = x.ecsb + 1))
           ∧ (wrong ≠ 1 → y.ecsb = x.ecsb ∧ (x.ecdb ≠ BitVec.allOnes 32 → y.ecdb = x.ecdb + 1)) ∧ (onRead = true → y.ecscr = x.ecscr))
        ∧ ((s.die k.die).errLog.recs.length < 256 → ∃ e, (s2.die k.die).errLog.recs = (s.die k.die).errLog.recs ++ [e] ∧ e.world = k.world ∧ e.low = k.core
            ∧ e.dcc = (s.die k.die).dcc ∧ e.kind = (if onRead then 0 else 2) + (if wrong = 1 then 1 else 2)))
    ∧ (∀ (die w : Nat), die < 8 → w < 2 ^ 22 → wrong ≠ 0 →
      ∃ s2, exec (.scrubVisit (.pool die w) wrong onRead) s = .next s2 ∧ s2.teams = s.teams ∧ s2 = { s with mem := s2.mem, dies := s2.dies }
        ∧ (wrong = 1 → s2.mem = s.mem ∧ (s2.die die).poolSb = (s.die die).poolSb + 1)
        ∧ (wrong ≠ 1 → s2.byteAt die (4 * w) = none ∧ (s2.die die).poolDb = (s.die die).poolDb + 1 ∧ s2.mem = { s.mem with poison := s2.mem.poison }))

/-! ## Allotment -/

/-- R76, R77: `acqx` within what the pool holds free, nobody parked before it, takes the granules: the allotment grows and the pool is
less by what they cost; short of the pool it parks; beyond what the pool could ever give, or the register numbers, it traps 0x1C. `relx`
returns the highest granules; `allq` reports. -/
def Sys2Proof.Claims.AllotmentResults : Prop :=
  ∀ (cl : BitVec 2) (n : BitVec 6) (d : BitVec 7) (s : State) (t : Team) (k : Crew) (c : Clause), s.Ready t k c → Mask.none (t.acting c) = false →
    cl ≠ 3 →
    let unit := if cl = 0 then t.width else 1
    let amount := fun (p : Pools) => if cl = 0 then p.vec else if cl = 1 then p.acc else p.res
    let regs := (if cl = 0 then 8 else 4) * n.toNat
    let held := if cl = 0 then t.vN else if cl = 1 then t.aN else t.rN
    let base := if cl = 0 then t.vBase else if cl = 1 then t.aBase else t.rBase
    let most := if cl = 0 then 128 else 64
    let sized := fun (x : Nat) (t : Team) => if cl = 0 then { t with vN := x } else if cl = 1 then { t with aN := x } else { t with rN := x }
    let pooled := fun (x : Nat) (p : Pools) => if cl = 0 then { p with vec := x } else if cl = 1 then { p with acc := x } else { p with res := x }
    (n ≠ 0 → (cl = 2 ∨ held + regs ≤ most) → n.toNat * unit ≤ amount k.poolAll → n.toNat * unit ≤ amount k.pool → s.parked k cl = [] →
      ∃ s1, s.Does (.acqx cl n) s1 t ((sized (held + regs) t).advance 1) k t.counter 1 [] [] 0 ∧ s1 = { s with teams := s1.teams, crews := s1.crews }
        ∧ (∀ v, v ≠ s.cur → s1.team? v = s.team? v)
        ∧ ∀ v, s1.crew? v = if v = t.crew then some { k with pool := pooled (amount k.pool - n.toNat * unit) k.pool } else s.crew? v)
    ∧ (n ≠ 0 → (cl = 2 ∨ held + regs ≤ most) → n.toNat * unit ≤ amount k.poolAll → (amount k.pool < n.toNat * unit ∨ s.parked k cl ≠ []) →
      (∃ v ∈ k.teams, v ≠ s.cur ∧ ∃ x, s.team? v = some x ∧ x.status = .running ∧ x.hold = .none) →
      ∃ s2, exec (.acqx cl n) s = .next s2 ∧ s2.team? s.cur = some { t with hold := .acqx cl n.toNat k.ticketNext, stall := 22 } ∧ s2.mem = s.mem
        ∧ s2.crew? t.crew = some { k with ticketNext := k.ticketNext + 1 })
    ∧ (n ≠ 0 → (cl ≠ 2 ∧ most < held + regs) ∨ amount k.poolAll < n.toNat * unit → ∃ s' t', exec (.acqx cl n) s = .next s' ∧ s.Trapped s' t t' 0x1C c.hdrVA)
    ∧ (n ≠ 0 → base + regs ≤ held → (∀ i < regs, (cl = 0 → ∀ l ∈ t.lanes, t.pend (.vec (held - 1 - i) l) = false) ∧ (cl = 1 → t.pend (.acc (held - 1 - i)) = false)) →
      t.fifo = [] →
      ∃ s2 t2, exec (.relx cl n) s = .next s2 ∧ s2.team? s.cur = some t2 ∧ s2.mem = s.mem ∧ (∀ v, v ≠ s.cur → s2.team? v = s.team? v)
        ∧ s2.crew? t.crew = some { k with pool := pooled (amount k.pool + n.toNat * unit) k.pool } ∧ (∀ v, v ≠ t.crew → s2.crew? v = s.crew? v)
        ∧ t2 = { (sized (held - regs) t).advance 1 with
                  v := t2.v, a := t2.a, passes := t.passes + 1, total := t.total + 1, lastA := t2.lastA, lastB := t2.lastB, stall := 0 }
        ∧ ∀ r, ((cl = 0 → ∀ i < regs, ∀ l, r ≠ .vec (held - 1 - i) l) ∧ (cl = 1 → ∀ i < regs, r ≠ .acc (held - 1 - i))) → t2.unit r = t.unit r)
    ∧ (n ≠ 0 → held < base + regs → ∃ s' t', exec (.relx cl n) s = .next s' ∧ s.Trapped s' t t' 0x04 c.hdrVA)
    ∧ (s.writable t [.uni d.toNat] → held < 65536 →
      s.Completes (.allq d cl) t k 1 1 [(.uni d.toNat, .w (.word (BitVec.ofNat 32 (held + 65536 * amount k.pool))))] 0)

/-- R76: of the parked requests of a class the first is served when the pool can meet it: the team goes on past its `acqx`; when every team of
the crew is parked and none can be served, the one that parked last traps 0x1C. -/
def Sys2Proof.Claims.ParkedRequestsAreServed : Prop :=
  ∀ (id n : Nat) (cl : BitVec 2) (ticket : Nat) (u : Nat) (s : State) (t : Team) (k : Crew) (c : Clause),
    s.crew? id = some k → k.teams = [u] → s.team? u = some t → t.crew = id → t.clause = some c → t.status = .running → t.hold = .acqx cl n ticket → cl ≠ 3 →
    let cost := n * (if cl = 0 then t.width else 1)
    let free := if cl = 0 then k.pool.vec else if cl = 1 then k.pool.acc else k.pool.res
    (cost ≤ free → ∃ s2 t2 k2, exec (.allotmentGrant id) s = .next s2 ∧ s2.team? u = some t2 ∧ s2.crew? id = some k2 ∧ s2.mem = s.mem
      ∧ (∀ v, v ≠ u → s2.team? v = s.team? v) ∧ t2.hold = .none ∧ t2.status = .running ∧ (∀ r, t2.unit r = t.unit r)
      ∧ (t2.pc, t2.clause, t2.fr) = ((t.advance 1).pc, (t.advance 1).clause, (t.advance 1).fr)
      ∧ (t2.vN, t2.aN, t2.rN) = (if cl = 0 then (t.vN + 8 * n, t.aN, t.rN) else if cl = 1 then (t.vN, t.aN + 4 * n, t.rN) else (t.vN, t.aN, t.rN + 4 * n))
      ∧ k2 = { k with pool := if cl = 0 then { k.pool with vec := free - cost } else if cl = 1 then { k.pool with acc := free - cost } else { k.pool with res := free - cost } })
    ∧ (free < cost → ∃ s2 t2 i, exec (.allotmentGrant id) s = .next s2 ∧ s2.team? u = some t2 ∧ t2.status = .suspended ∧ t2.trap = some i ∧ i.cause = 0x1C
      ∧ i.hdrVA = c.hdrVA ∧ s2.mem = s.mem ∧ ∀ v, v ≠ u → s2.team? v = s.team? v)

/-! ## Cards and crews -/

/-- Of a crew: its teams have ended, it waits to retire, and its place and registers are as they were. -/
def Sys2Proof.Claims.retires (s s2 : State) (id : Nat) (k : Crew) : Prop :=
  s2.crew? id = some { k with status := .retiring, drainTill := none }
  ∧ ∀ u ∈ k.teams, ∀ x, s.team? u = some x → ∃ y, s2.team? u = some y ∧ y.status = .ended

/-- R277, R279, R361: `post` lowers the count of a card of its own world; the last release enters the card into the pool of the die it names,
with the token of the posting card; a count of 0 traps 0x1D. -/
def Sys2Proof.Claims.PostsReleaseCards : Prop :=
  ∀ (d a : BitVec 7) (s : State) (t : Team) (k : Crew) (c : Clause) (lo hi x : Word) (pa : Nat) (img : CardImage) (die : Nat) (absent : Bool),
    s.Ready t k c → Mask.none (t.acting c) = false → a.toNat % 2 = 0 → t.landed [.uni a.toNat, .uni (a.toNat + 1), .uni d.toNat] →
    t.uniform a.toNat = .word lo → t.uniform (a.toNat + 1) = .word hi → t.uniform d.toNat = .word x → (x.toNat < 8 ∨ x = 0xFF) →
    let va := (pairVA lo hi).toNat
    va % 128 = 0 → s.cardAt k.die k.world k.asn { rd := true, wr := true } va = .ok (pa, img) → s.cardWorld k.die k.world pa = .ok k.world →
    s.relMet s.cur 4 = true → k.die < 8 →
    let target := if x = 0xFF then k.die else x.toNat
    (if s.dieUp target then some (target, false) else if s.boot.up then (s.nextDie target).map (fun n => (n, true)) else none) = some (die, absent) →
    s.poolRoom die = true → s.ownBusy k.die k.world (pa + 0x40) = false → (∀ z ∈ s.cards, z.tid ≠ BitVec.ofNat 4 die ++ ((s.die die).tids + 1)) →
    (img.count = 0 → ∃ s' t', exec (.post d a) s = .next s' ∧ s.Trapped s' t t' 0x1D c.hdrVA)
    ∧ (∀ s1, (s.cardNoted k.die k.world k.asn { rd := true, wr := true } va).writeOwn k.die k.world (pa + 0x40) (leBytes 4 (img.count.toNat - 1)) 2 = .ok s1 →
      (2 ≤ img.count.toNat → s.Does (.post d a) s1 t (t.advance 1) k t.counter 1 [] [] 0)
      ∧ (img.count = 1 → ∃ s2 y, s.Does (.post d a) s2 t (t.advance 1) k t.counter 1 [] [] 0
          ∧ s2 = { s1 with teams := s2.teams, cards := s1.cards ++ [y], dies := s2.dies, nextId := s2.nextId } ∧ (∀ u, u ≠ s.cur → s2.team? u = s1.team? u)
          ∧ y.tid.toNat = 2 ^ 28 * (die % 16) + ((s.die die).tids + 1).toNat ∧ y.image = img ∧ y.va.toNat = va ∧ y.die = die ∧ y.kind = .ordinary
          ∧ y.token = (0x3F#32) ++ k.tid ∧ y.code = 0 ∧ y.relaunches = 0
          ∧ (y.inPool = true ↔ y.status = 0) ∧ (absent = true → y.status = 0x02) ∧ (absent = false → img.malformed = true → y.status = 0x01)))

/-- R284, R246: `done` joins its code to the card's and stops the crew; with the store-poison flag set it traps 0x11 instead. -/
def Sys2Proof.Claims.DoneStopsTheCrew : Prop :=
  ∀ (a : BitVec 7) (s : State) (t : Team) (k : Crew) (c : Clause) (w : Word), s.Ready t k c → Mask.none (t.acting c) = false →
    t.landed [.uni a.toNat] → t.uniform a.toNat = .word w →
    (k.storePoison = false → s.cur ∈ k.teams → ∃ s2, exec (.done a) s = .next s2 ∧ retires s s2 t.crew k ∧ s2.mem = s.mem
      ∧ (∀ u, u ∉ k.teams → s2.team? u = s.team? u) ∧ (∀ u, u ≠ t.crew → s2.crew? u = s.crew? u)
      ∧ s2.cards = s.cards.map (fun x => if x.tid = k.tid then { x with code := x.code ||| w.extractLsb' 0 16 } else x))
    ∧ (k.storePoison = true → ∃ s' t', exec (.done a) s = .next s' ∧ s.Trapped s' t t' 0x11 c.hdrVA
      ∧ s'.crew? t.crew = some { k with storePoison := false })

/-- R285, R286: when every crew of a card is gone the token is written at its completion VA, the vector it named is raised and its state is
free; a word that cannot be written is logged, and completion goes on. -/
def Sys2Proof.Claims.CardsComplete : Prop :=
  ∀ (s : State) (x : Card), s.card? x.tid = some x → (∀ y ∈ s.cards, y.tid = x.tid → y = x) → s.cardOver x = true → (s.die x.die).silent = false →
    x.image.succ = 0 →
    let token : BitVec 64 := x.code ++ BitVec.ofNat 4 x.relaunches ++ x.cause ++ x.status ++ x.tid
    let ends := fun (s1 : State) => ∃ s2, exec (.cardComplete x.tid.toNat) s = .next s2
      ∧ s2 = { s1 with cards := s.cards.filter (fun y => y.tid != x.tid), host := s2.host }
      ∧ s2.host = { s1.host with msix := s1.host.msix ++ (match x.vector with | some v => [v] | none => []) }
    (x.image.done = 0 ∨ x.stage ≠ 0 → ends s)
    ∧ (x.image.done ≠ 0 → x.stage = 0 → x.image.done.toNat % 8 = 0 →
      ∀ pa, s.translateOwn x.die x.image.world x.image.asn { wr := true } x.image.done.toNat = .ok pa →
      s.ownBusy x.die x.image.world pa = false →
      ∀ s1, (s.walkNoted x.die x.image.world x.image.asn x.image.done.toNat).writeOwn x.die x.image.world pa (leBytes 8 token.toNat) = .ok s1 → ends s1)
    ∧ (x.image.done ≠ 0 → x.stage = 0 → x.image.done.toNat % 8 ≠ 0 →
      ∃ s2, exec (.cardComplete x.tid.toNat) s = .next s2 ∧ s2.mem = s.mem ∧ s2.cards = s.cards.filter (fun y => y.tid != x.tid)
        ∧ ((s.die x.die).errLog.recs.length < 256 → ∃ e, (s2.die x.die).errLog.recs = (s.die x.die).errLog.recs ++ [e] ∧ e.kind = 0x30 ∧ e.cls = 11))

/-- R284, R307: a crew whose writes are acknowledged and whose commands are complete is gone, and its registers and scratchpad are empty; one
that still has some stays. A task unit's hold of relaunches ends with the holder's last entry in its table, or after 16 rounds (R354). -/
def Sys2Proof.Claims.CrewsRetireAndHoldsEnd : Prop :=
  (∀ (id : Nat) (s : State) (k : Crew), s.crew? id = some k → k.status = .retiring →
    (s.crewBusy k.teams = true → exec (.crewRetire id) s = .next s)
    ∧ (s.crewBusy k.teams = false → k.kind = .ordinary →
      ∃ s2, exec (.crewRetire id) s = .next s2 ∧ s2.mem = s.mem
        ∧ s2.crew? id = some { k with status := .gone, savedAt := none, spad := [], spadPoison := [], tags := [] }
        ∧ (∀ u ∈ k.teams, ∀ x, s.team? u = some x → s2.team? u = some { x with v := [], u := [], p := [], t := [], a := [], fifo := [], results := [] })
        ∧ (∀ u, u ∉ k.teams → s2.team? u = s.team? u) ∧ (∀ u, u ≠ id → s2.crew? u = s.crew? u)
        ∧ s2 = { s with teams := s2.teams, crews := s2.crews, worlds := s2.worlds, dies := s2.dies
                        ops := s.ops.filter (fun o => !k.teams.contains o.team) }))
  ∧ (∀ (d : Nat) (s : State), ∃ s2, exec (.relaunchHoldRelease d) s = .next s2 ∧ s2 = { s with dies := s2.dies }
      ∧ (∀ n, s2.die n = if n = d then { s.die n with holds := (s2.die n).holds, relaunch := (s2.die n).relaunch } else s.die n)
      ∧ (∀ h ∈ (s.die d).holds, (16 ≤ h.2 ∨ ∀ e ∈ (s.node d).table, e.holder ≠ h.1) →
          (∀ x ∈ (s2.die d).holds, x.1 ≠ h.1) ∧ ∀ r ∈ (s2.die d).relaunch, h.1 ∉ r.held)
      ∧ ∀ h ∈ (s.die d).holds, (∀ x ∈ (s.die d).holds, x.1 = h.1 → x.2 < 16) → (∃ e ∈ (s.node d).table, e.holder = h.1) → h ∈ (s2.die d).holds)

/-- R281, R282, R283, R276: with no crew saved and none to be placed again, a die's one card has its next gang placed where it fits: a crew of
each index at the card's entry, its teams as the card's entries say; the last gang takes the card out of the pool. -/
def Obligations.DispatchPlacesGangs : Prop :=
  ∀ (d : Nat) (s : State) (x : Card) (cores : List Nat), d < 8 → s.dieUp d = true → (s.die d).silent = false →
    s.cards = [x] → x.die = d → x.inPool = true → x.kind = .ordinary → x.level < 8 → x.image.world = (s.die d).world → x.image.world < 16 →
    s.worldRuns x.image.world = true →
    (∀ id ∈ (s.die d).savedOrder, ∀ k, s.crew? id = some k → k.status ≠ .saved) → (s.die d).relaunch = [] →
    s.findCores d x.tid x.image x.nextGang x.image.gang = some cores → cores.length = x.image.gang →
    ∃ s2, exec (.dispatch d) s = .next s2 ∧ s2.mem = s.mem
      ∧ s2.cards = [{ x with nextGang := x.nextGang + 1, inPool := decide (x.nextGang + 1 < x.image.gangs) }]
      ∧ (∀ u, u < s.nextId → s2.crew? u = s.crew? u ∧ s2.team? u = s.team? u)
      ∧ ∀ i < x.image.gang, ∃ id k, s2.crew? id = some k ∧ k.tid = x.tid ∧ k.index = x.nextGang * x.image.gang + i ∧ k.die = d
          ∧ k.core = cores.getD i 0 ∧ k.status = .resident ∧ k.world = x.image.world ∧ k.asn = x.image.asn ∧ k.gang = x.nextGang
          ∧ k.teams.length = x.image.present.length
          ∧ ∀ j < k.teams.length, ∃ t, s2.team? (k.teams.getD j 0) = some t ∧ t.crew = id ∧ t.status = .running ∧ t.pc = x.image.entry
              ∧ t.regionVA = x.image.entry ∧ t.clause = none ∧ t.num = (x.image.present.getD j (0, 0)).1 ∧ t.defOn = x.image.flags.getLsbD 1
              ∧ t.strict = x.image.flags.getLsbD 2 ∧ t.fr = {} ∧ t.width = ((x.image.present.getD j (0, 0)).2.extractLsb' 0 6).toNat
              ∧ t.uniform 1 = .word (BitVec.ofNat 32 k.index) ∧ t.uniform 4 = .word (x.image.arg.extractLsb' 0 32)
              ∧ t.uniform 5 = .word (x.image.arg.extractLsb' 32 32) ∧ t.uniform 6 = .word (x.va.extractLsb' 0 32)
              ∧ t.uniform 7 = .word (x.va.extractLsb' 32 32) ∧ ∀ r l, t.lane r l = .word 0

/-- R288, R289, R290: an unlimited slice, or one not over, stays; with no other world's work the slice starts again; else the world's resident
crews are drained, saved or restarted and the next world served begins its slice. A drained crew that is not gone at its limit is saved; a
saved crew's image is written in its world, and then its core is free. -/
def Obligations.SlicesAndSaves : Prop :=
  (∀ (d : Nat) (s : State), (s.die d).silent = false →
    let x := s.die d
    let ready := fun w => w ≠ x.world ∧ s.worldReady d w = true
    (x.sliceLen = 0 ∨ x.dcc.toNat < (x.sliceStart + x.sliceLen).toNat → exec (.sliceExpiry d) s = .next s)
    ∧ (x.sliceLen ≠ 0 → (x.sliceStart + x.sliceLen).toNat ≤ x.dcc.toNat →
      ((∀ w < 16, ¬ ready w) → ∃ s2, exec (.sliceExpiry d) s = .next s2 ∧ s2 = { s with dies := s2.dies }
        ∧ ∀ n, s2.die n = if n = d then { x with sliceStart := x.dcc, sliceLen := (s.world x.world).slice } else s.die n)
      ∧ (∀ j < 16, let w := (x.world + 1 + j) % 16
          (∃ v < 16, ready v) → w ≠ x.world → s.worldWork d w = true →
          (∀ i < j, let v := (x.world + 1 + i) % 16; v = x.world ∨ s.worldWork d v = false) → ∃ s2, exec (.sliceExpiry d) s = .next s2 ∧ (s2.die d).world = w
            ∧ (s2.die d).sliceStart = x.dcc ∧ s2.mem = s.mem
            ∧ ∀ id k, s.crew? id = some k → k.die = d → k.world = x.world → k.kind = .ordinary → k.status = .resident →
                ∃ k2, s2.crew? id = some k2 ∧ (k2.status = .draining ∨ k2.status = .saving ∨ k2.status = .retiring))))
  ∧ (∀ (id : Nat) (s : State) (k : Crew), s.crew? id = some k →
    (k.drainTill = none → exec (.drainLimitExpiry id) s = .next s)
    ∧ (∀ till, k.drainTill = some till → k.status = .draining →
      ((s.die k.die).dcc.toNat < till.toNat → exec (.drainLimitExpiry id) s = .next s)
      ∧ (till.toNat ≤ (s.die k.die).dcc.toNat → s.crewStopping k = false → ∀ place, (s.world k.world).place (s.image id k).length = some place →
        ∃ s2, exec (.drainLimitExpiry id) s = .next s2 ∧ s2.crew? id = some { k with status := .saving, savedAt := some place, drainTill := none }
          ∧ s2.mem = s.mem ∧ ∀ u ∈ k.teams, ∀ t, s.team? u = some t → s2.team? u = some (if t.status = .running then { t with status := .saved, stall := 16 } else t)))
    ∧ (∀ place, k.savedAt = some place → k.status = .saving → (s.die k.die).silent = false →
      (s.saveReady k = false → exec (.crewSave id) s = .next s)
      ∧ (s.saveReady k = true → (∀ u ∈ k.teams, ∀ t, s.team? u = some t → t.joinDeadline = none
          ∧ (∀ q till, t.hold = .barrier q (some till) → (s.die k.die).dcc.toNat < till.toNat) ∧ ∀ v, t.hold = .sleep v → (s.die k.die).dcc.toNat < v.toNat + 256) →
        s.spanBusy k.die k.world place (s.image id k).length = false →
        ∀ s1, s.writePieces k.die k.world 64 ((s.image id k).length / 64 + 1) place (s.image id k) = .ok s1 →
          ∃ s2, exec (.crewSave id) s = .next s2 ∧ s2.mem = s1.mem ∧ s2.crew? id = some { k with status := .saved, offCore := true }
            ∧ (∀ u, s2.team? u = s.team? u) ∧ (s2.die k.die).savedOrder = (s.die k.die).savedOrder ++ [id])))

/-! ## Traps and their decisions -/

/-- R293 to R295: a handler crew decides a handle it holds open: the team will resume with the team-control word; or the trapped crew is
killed and its card failed with status 0x03; or its gang is killed and placed again, or its card failed. A handle that is not open has no effect. -/
def Sys2Proof.Claims.DecisionsOnHandles : Prop :=
  ∀ (a d : BitVec 7) (w : Word) (s : State) (t : Team) (k : Crew) (c : Clause) (n slot : Nat), s.Ready t k c → Mask.none (t.acting c) = false →
    k.kind = .handler n slot → t.landed [.uni a.toNat] → t.uniform a.toNat = .word w →
    let open_ := tget none s.handles w.toNat
    ((∀ h, open_ = some h → h.handlerTid ≠ k.tid) →
      s.Completes (.tresume a) t k 1 1 [] 0 ∧ s.Completes (.tkill a) t k 1 1 [] 0 ∧ s.Completes (.trelaunch a) t k 1 1 [] 0)
    ∧ (∀ h, open_ = some h → h.handlerTid = k.tid → h.team ≠ s.cur → ∀ x y, s.team? h.team = some x → s.crew? x.crew = some y →
      let closed := fun (s1 : State) => tget none s1.handles w.toNat = none ∧ h.slot ∉ (s1.world h.world).trapTaken ∧ s1.mem = s.mem
      (∃ s1, s.Does (.tresume a) s1 t (t.advance 1) k t.counter 1 [] [] 0 ∧ closed s1
        ∧ s1 = { s with teams := s1.teams, handles := s1.handles, worlds := s1.worlds }
        ∧ s1.team? h.team = some { x with trap := none, handle := 0, ctlWord := some h.ctl } ∧ ∀ u, u ≠ s.cur → u ≠ h.team → s1.team? u = s.team? u)
      ∧ (x.crew ≠ t.crew → s.cur ∉ y.teams → y.kind = .ordinary → y.status = .resident →
        (∃ s1, s.Does (.tkill a) s1 t (t.advance 1) k t.counter 1 [] [] 0 ∧ closed s1 ∧ retires s s1 x.crew y
          ∧ s1.cards = s.cards.map (fun z => if z.tid = y.tid ∧ z.status = 0 then { z with status := 0x03, cause := h.cause } else z))
        ∧ (∀ z, s.card? y.tid = some z → (∀ u v, s.crew? u = some v → v.tid = y.tid → v.gang = y.gang → u = x.crew) →
          s.crews.Pairwise (fun p q => p.1 < q.1) →
          ∃ s1, s.Does (.trelaunch a) s1 t (t.advance 1) k t.counter 1 [] [] 0 ∧ closed s1 ∧ retires s s1 x.crew y
            ∧ (let again := s.worldRuns z.image.world = true ∧ z.image.idem = true ∧ z.relaunches < z.image.retry
               (again → s1.cards = s.cards.map (fun v => if v.tid = y.tid then { v with relaunches := v.relaunches + 1 } else v)
                 ∧ ∃ r, (s1.die z.die).relaunch = (s.die z.die).relaunch ++ [r] ∧ r.tid = y.tid ∧ r.gang = y.gang
                   ∧ r.crews = (List.range z.image.gang).map (fun i => y.gang * z.image.gang + i))
               ∧ (¬ again → s1.cards = s.cards.map (fun v =>
                   if v.tid = y.tid ∧ v.status = 0 then { v with status := if z.image.idem then 0x05 else 0x04, cause := h.cause } else v))))))
    ∧ (a.toNat % 2 = 0 → t.landed [.uni (a.toNat + 1)] → ∀ v, t.uniform (a.toNat + 1) = .word v → s.writable t [.uni d.toNat] →
      let quota := (v.extractLsb' 8 9).toNat
      let bad := v.extractLsb' 17 15 ≠ 0 ∨ v.extractLsb' 2 6 ≠ 0 ∨ 256 < quota ∨ quota % 4 ≠ 0
      ((∀ h, open_ = some h → h.handlerTid ≠ k.tid) → s.Completes (.trecord d a 1) t k 1 1 [(.uni d.toNat, .w (.word 2))] 0
        ∧ ∃ s1 x, s.Does (.trecord d a 0) s1 t (t.advance 1) k t.counter 1 [(.uni d.toNat, .w (.word x))] [] 0 ∧ s1 = { s with teams := s1.teams, free := s1.free }
          ∧ ∀ u, u ≠ s.cur → s1.team? u = s.team? u)
      ∧ (∀ h, open_ = some h → h.handlerTid = k.tid →
        s.Completes (.trecord d a 0) t k 1 1 [(.uni d.toNat, .w (.word h.ctl))] 0
        ∧ (bad → s.Completes (.trecord d a 1) t k 1 1 [(.uni d.toNat, .w (.word 3))] 0)
        ∧ (¬ bad → ∀ x y, s.team? h.team = some x → s.crew? x.crew = some y →
          let was := (h.ctl.extractLsb' 8 9).toNat
          let need := (quota - was + 3) / 4
          (y.pool.res < need → s.Completes (.trecord d a 1) t k 1 1 [(.uni d.toNat, .w (.word 1))] 0)
          ∧ (need ≤ y.pool.res → ∃ s1, s.Does (.trecord d a 1) s1 t (t.advance 1) k t.counter 1 [(.uni d.toNat, .w (.word 0))] [] 0
              ∧ s1 = { s with teams := s1.teams, crews := s1.crews, handles := s1.handles } ∧ (∀ u, u ≠ s.cur → s1.team? u = s.team? u)
              ∧ (∀ u, s1.crew? u = if u = x.crew then some { y with pool := { y.pool with res := y.pool.res - need + (was - quota) / 4 } } else s.crew? u)
              ∧ ∀ j, tget none s1.handles j = if j = w.toNat then some { h with ctl := v } else tget none s.handles j))))

/-- R291: the fields of a trap record; the other bytes are 0. -/
def Sys2Proof.Claims.TrapRecordFields : Prop :=
  ∀ (t : Team) (k : Crew) (i : TrapInfo) (h n : Nat), t.num < 8 → t.rN ≤ 256 → k.core < 144 → k.index < 2 ^ 16 → n < 256 → h < 2 ^ 32 → i.maskWord < 32 →
    let r := t.trapRecord k i h n
    let field := fun off len => leNat ((r.drop off).take len)
    r.length = 64 ∧ field 0x00 1 = some (i.cause.toNat % 64) ∧ field 0x01 1 = some (t.num + 8 * t.role.toNat + if i.byEntry then 32 else 0)
    ∧ field 0x02 2 = some k.index ∧ field 0x04 4 = some h ∧ field 0x08 4 = some k.tid.toNat ∧ field 0x0C 1 = some n ∧ field 0x0D 1 = some i.holder.toNat
    ∧ field 0x0E 1 = some i.maskWord ∧ field 0x0F 1 = some k.core ∧ field 0x10 8 = some i.hdrVA.toNat ∧ field 0x18 8 = some t.regionVA.toNat
    ∧ field 0x20 4 = some t.regionCount.toNat ∧ field 0x24 4 = some i.laneMask.toNat ∧ field 0x28 8 = some t.passes.toNat ∧ field 0x30 8 = some i.faultVA.toNat
    ∧ field 0x38 4 = some ((if t.defOn then 1 else 0) + (if t.strict then 2 else 0) + 256 * t.rN) ∧ field 0x3C 4 = some 0

/-- R291, R292: the record of a suspended team goes into the lowest free slot of its world's trap area, the handler card enters the pool at
the card's trap priority with the record's VA as its argument, and a handle is open on the team; with no free slot it stays suspended; a trap in
a handler crew kills that crew. -/
def Sys2Proof.Claims.TrapsReachTheirHandler : Prop :=
  ∀ (n : Nat) (s : State) (t : Team) (k : Crew) (i : TrapInfo), s.team? n = some t → s.crew? t.crew = some k → t.trap = some i → t.status = .suspended →
    t.handle = 0 → k.status = .resident → k.offCore = false → (s.die k.die).silent = false →
    (∀ j slot, k.kind = .handler j slot → ∃ s2 k2, exec (.trapRecordWrite n) s = .next s2 ∧ s2.crew? t.crew = some k2 ∧ k2.status = .retiring ∧ s2.mem = s.mem)
    ∧ (k.kind = .ordinary → ∀ card img, (s.world k.world).handler = some (card, img) → s.cardStatus img false = 0 →
      let area := s.world k.world
      let free := fun j => j < area.trapSlots ∧ j ∉ area.trapTaken
      ((∀ j, ¬ free j) → exec (.trapRecordWrite n) s = .next s)
      ∧ (s.handlerRoom k.die = false → exec (.trapRecordWrite n) s = .next s)
      ∧ (s.handlerRoom k.die = true → ∀ j, free j → (∀ l < j, ¬ free l) → ∃ h, h ≠ 0 ∧ tget none s.handles h = none ∧
        let va := area.trapBase.toNat + 64 * j
        let m := match s.card? k.tid with | some x => x.relaunches | none => 0
        s.recordBusy k.die img.world img.asn va = false → ∀ s1, s.writeRecord k.die img.world img.asn va (t.trapRecord k i h m) = .ok s1 →
          ∃ s2 y, exec (.trapRecordWrite n) s = .next s2 ∧ s2.mem = s1.mem ∧ s2.team? n = some { t with handle := h }
            ∧ tget none s2.handles h = some { team := n, world := k.world, slot := j, handlerTid := y.tid, ctl := t.control, cause := i.cause.setWidth 6 }
            ∧ (s2.world k.world).trapTaken = j :: area.trapTaken ∧ s2.cards = s.cards ++ [y] ∧ y.va = card ∧ y.die = k.die ∧ y.kind = .handler h j
            ∧ y.image = { img with arg := BitVec.ofNat 64 va } ∧ y.inPool = true ∧ y.level = (s.imageOf k.tid).tprio
            ∧ ∀ u, u ≠ n → s2.team? u = s.team? u))

/-- R294: once the commands of a team decided as by `tresume` are complete it goes on at its region entry: the frontier of that entry, no open
clause, the retired passes of the entry and empty result FIFOs; the mode and quota of its control word; its registers are not restored. R65: a join
whose timeout has passed lets its held lanes go on, and says so. -/
def Sys2Proof.Claims.TeamsResume : Prop :=
  (∀ (n : Nat) (s : State) (t : Team) (k : Crew), s.team? n = some t → s.crew? t.crew = some k → t.status = .suspended → t.trap = none →
    k.status = .resident → k.offCore = false →
    (s.commandsOf n = true → exec (.teamResume n) s = .next s)
    ∧ (s.commandsOf n = false → (∀ o ∈ s.ops, o.team = n → ∀ q, o.kind ≠ .pop q) → ∀ w, t.ctlWord = some w →
      ∃ s2 t2, exec (.teamResume n) s = .next s2 ∧ s2.team? n = some t2 ∧ s2.mem = s.mem ∧ (∀ u, u ≠ n → s2.team? u = s.team? u)
        ∧ t2 = { t with status := .running, late := none, clause := none, hold := .none, stall := 0, pc := t.regionVA, fr := t.region, passes := 0
                        fryldTurn := false, joinDeadline := t2.joinDeadline, results := [], handle := 0, ctlWord := none, defOn := w.getLsbD 0
                        strict := w.getLsbD 1, rN := (w.extractLsb' 8 9).toNat, arrivals := t2.arrivals, stop := { t.stop with mode := false, redo := false } }))
  ∧ (∀ (n : Nat) (s : State) (t : Team) (k : Crew) (till : BitVec 64), s.team? n = some t → s.crew? t.crew = some k → t.joinDeadline = some till →
    k.offCore = false → t.status ≠ .ended →
    ((s.die k.die).dcc.toNat < till.toNat → exec (.joinTimeout n) s = .next s)
    ∧ (till.toNat ≤ (s.die k.die).dcc.toNat → ∃ t2, exec (.joinTimeout n) s = .next (s.setTeam n t2)
        ∧ t2 = { t with jto := true, joinDeadline := none, fr := t2.fr } ∧ t2.fr = { t.fr with joinVA := none, lanes := t2.fr.lanes }
        ∧ ∀ l ∈ t.lanes, t2.fr.lane l = match t.fr.lane l with | .held pc => .waiting pc | y => y))

/-- R280: the oldest complete pair of a die's program queue is one release: malformed 5, a card that cannot be used 4, a count already 0 2,
lowered 0, entered 1 with its identifier. The result goes to the issuing team's FIFO of q8. -/
def Sys2Proof.Claims.ProgramQueueReleases : Prop :=
  ∀ (d : Nat) (s : State) (x y : Q8Word) (rest : List Q8Word) (t : Team), (s.die d).q8 = x :: y :: rest → y.team = x.team →
    s.team? x.team = some t → t.status ≠ .ended → (tget [] t.results 8).length < 16 → s.popWaiting x.team 8 = none →
    s.allDone (x.earlier ++ y.earlier) = true → (s.die d).silent = false →
    let die := (y.word.extractLsb' 16 4).toNat
    let va := (y.word.extractLsb' 0 16).toNat * 2 ^ 32 + x.word.toNat
    let answers := fun (s1 : State) (status : Nat) (tid : BitVec 32) => ∃ s2, exec (.q8Command d) s = .next s2
      ∧ s2 = { s1 with teams := s2.teams, dies := s2.dies } ∧ (∀ n, s2.die n = if n = d then { s1.die n with q8 := rest } else s1.die n)
      ∧ s2.team? x.team = some (withResults t 8 (tget [] t.results 8 ++ [tid ++ BitVec.ofNat 32 status])) ∧ ∀ u, u ≠ x.team → s2.team? u = s.team? u
    let bad := y.word.extractLsb' 20 12 ≠ 0 ∨ (8 ≤ die ∧ die ≠ 15)
    (bad → answers s 5 0)
    ∧ (¬ bad →
      let card := s.cardAt d x.world x.asn { rd := true, wr := true } va
      ((∃ cause, card = .error cause) → answers s 4 0)
      ∧ (∀ pa img, card = .ok (pa, img) →
        (img.world ≠ x.world → answers s 4 0)
        ∧ (let home := if die = 15 then d else die
           let seen := s.cardNoted d x.world x.asn { rd := true, wr := true } va
           img.world = x.world → s.ownBusy d x.world (pa + 0x40) = false → (s.dieUp home = true ∨ (s.boot.up = true ∧ s.nextDie home ≠ none)) →
           (img.count = 0 → answers seen 2 0)
           ∧ ∀ s1, seen.writeOwn d x.world (pa + 0x40) (leBytes 4 (img.count.toNat - 1)) 2 = .ok s1 →
            (2 ≤ img.count.toNat → answers s1 0 0)
            ∧ (img.count = 1 → s.dieUp home = true → s.poolRoom home = true → img.malformed = false → s.rootOf x.world img.asn ≠ none → s.worldRuns x.world = true →
              ∃ s3 z, answers s3 1 z.tid ∧ s3.mem = s1.mem ∧ s3.cards = s.cards ++ [z] ∧ z.image = img ∧ z.die = home ∧ z.inPool = true))))

/-- R296, R239, R22: the reset of a die in service makes it silent, and the next die in service adopts its cards; once its announcements are
withdrawn everywhere it returns to service, its count and task unit from 0. -/
def Sys2Proof.Claims.DiesReset : Prop :=
  ∀ (d : Nat) (s : State), d < 8 →
    (s.dieUp d = false → (s.die d).silent = false → exec (.dieReset d) s = .next s)
    ∧ (s.dieUp d = true → (s.die d).silent = false → (s.die d).declared = none →
      ∃ s2, exec (.dieReset d) s = .next s2 ∧ (s2.die d).silent = true ∧ (s2.die d).resetting = true ∧ s2.dieUp d = false
        ∧ ((∃ n < 8, n ≠ d ∧ s.dieUp n = true) → ∀ x ∈ s2.cards, x.die ≠ d))
    ∧ ((s.die d).silent = true → (∃ x ∈ s.piers, d ∈ x.2.toWithdraw) → exec (.dieReset d) s = .next (s.modDie d (fun x => { x with resetting := true })))
    ∧ ((s.die d).silent = true → (∀ x ∈ s.piers, d ∉ x.2.toWithdraw) → s.campaigns = [] → s.chanJobs = [] →
      ∃ s2, exec (.dieReset d) s = .next s2 ∧ s2.dieUp d = true ∧ s2.mem = s.mem ∧ s2.cards = s.cards ∧ s2.teams = s.teams
        ∧ s2.die d = {} ∧ (∀ n, n ≠ d → s2.die n = s.die n))

/-! ## System registers, samples and stops -/

/-- R310, R2, R68, R311, R332: what `rdsys` writes for each number; a privileged number outside handler and sampler crews traps 0x09, a number
that is not assigned 0x01. -/
def Sys2Proof.Claims.SystemRegisterReads : Prop :=
  ∀ (d : BitVec 7) (n : BitVec 8) (s : State) (t : Team) (k : Crew) (c : Clause), s.Ready t k c → Mask.none (t.acting c) = false →
    let bit := fun (b : Bool) (i : Nat) => if b then 2 ^ i else 0
    let traps := fun (cause : BitVec 8) => ∃ s' t', exec (.rdsys d n) s = .next s' ∧ s.Trapped s' t t' cause c.hdrVA
    let x := s.core k.coreKey
    let y := s.sampling k.die k.world
    (s.writable t [.uni d.toNat] →
      let reads := fun (m : BitVec 8) (w : Word) => s.Completes (.rdsys d m) t k 1 1 [(.uni d.toNat, .w (.word w))] 0
      reads 0x00 (BitVec.ofNat 32 (bit s.capNet 0 + bit s.capCxl 1 + 2 ^ 8 * s.capDies.toNat + 2 ^ 16))
      ∧ reads 0x01 (BitVec.ofNat 32 (t.rm.toNat + 2 ^ 7 * t.fpf.toNat + bit t.strict 12 + bit t.defOn 13 + bit t.fr.rotate 14 + bit t.jto 15))
      ∧ reads 0x02 (BitVec.ofNat 32 (k.world % 16 + 2 ^ 16 * k.asn.toNat
          + 2 ^ 4 * (if k.world = 0 then 2 else match (s.world k.world).state with | .locked => 1 | .run => 2 | .error => 3 | _ => 0)))
      ∧ reads 0x03 (BitVec.ofNat 32 (k.core % 256 + 2 ^ 8 * (k.core / 4 % 256) + 2 ^ 16 * (k.die % 8)))
      ∧ (s.boot.count ≤ 15 → reads 0x04 (BitVec.ofNat 32 (bit s.boot.cal 17 + bit s.boot.up 18 + bit s.boot.minimal 19 + 2 ^ 20 * s.boot.count + 2 ^ 24 * s.boot.reason.toNat)))
      ∧ reads 0x05 (BitVec.ofNat 32 k.ticket.toNat)
      ∧ reads 0x06 (if s.capCxl then BitVec.ofNat 32 Config.cxlMiB else 0) ∧ reads 0x07 (if s.capCxl then BitVec.ofNat 32 Config.cxlMiB else 0)
      ∧ (k.kind ≠ .ordinary → reads 0x40 x.tsel ∧ reads 0x48 y.idx ∧ reads 0x49 y.head
        ∧ reads 0x4A (BitVec.ofNat 32 (y.drop.toNat + 2 ^ 16 * y.dropTimer.toNat)) ∧ reads 0x58 x.ecsb ∧ reads 0x59 x.ecdb ∧ reads 0x5A x.ecscr
        ∧ (s.selected k = none → ∀ m ∈ [(0x41 : BitVec 8), 0x42, 0x43, 0x44, 0x45, 0x46, 0x50, 0x51, 0x52], reads m 0)
        ∧ ∀ u tm km, s.selected k = some (u, tm, km) → km.slot < 8 → tm.stall < 32 →
          let next := match tm.clause with | some cl => (if cl.issued then cl.wordVA cl.idx else cl.hdrVA) | none => tm.pc
          (km.world ≠ k.world → (∀ m ∈ [(0x41 : BitVec 8), 0x42, 0x44, 0x45, 0x46, 0x50, 0x51, 0x52], reads m 0)
            ∧ reads 0x43 (BitVec.ofNat 32 (2 ^ 5 + 2 ^ 9 * (km.world % 16))))
          ∧ (km.world = k.world → reads 0x41 (next.extractLsb' 0 32) ∧ reads 0x42 (next.extractLsb' 32 32) ∧ reads 0x44 km.tid
            ∧ reads 0x45 (tm.passes.extractLsb' 0 32) ∧ reads 0x46 tm.regionCount ∧ reads 0x50 tm.stop.e ∧ reads 0x51 (tm.stop.p.extractLsb' 0 32)
            ∧ reads 0x43 (BitVec.ofNat 32 (tm.stall + 2 ^ 5 + 2 ^ 6 * km.slot + 2 ^ 9 * (km.world % 16) + bit tm.defOn 13 + bit (km.kind != .ordinary) 14
                + bit tm.stop.mode 15))
            ∧ (tm.stop.arm = true → reads 0x52 3) ∧ (tm.stop.arm = false → tm.stop.reached = true → reads 0x52 4)
            ∧ (tm.stop.arm = false → tm.stop.reached = false → reads 0x52 (if tm.stop.missed then 6 else 0)))))
    ∧ (8 ≤ n.toNat → n.toNat < 0x40 ∨ 0x80 ≤ n.toNat → traps 0x01)
    ∧ (0x40 ≤ n.toNat → n.toNat < 0x80 → k.kind = .ordinary → traps 0x09)
    ∧ (0x40 ≤ n.toNat → n.toNat < 0x80 → k.kind ≠ .ordinary →
      n.toNat ∉ [0x40, 0x41, 0x42, 0x43, 0x44, 0x45, 0x46, 0x48, 0x49, 0x4A, 0x50, 0x51, 0x52, 0x58, 0x59, 0x5A] → traps 0x01)

/-- R310, R68, R332, R335: `wrsys` writes the fields of TEAMCTL that software may write, TSEL, SMPHEAD and the stop registers of the selected
team of its own world; a reserved field traps 0x04 and a read-only number 0x09. -/
def Sys2Proof.Claims.SystemRegisterWrites : Prop :=
  ∀ (a : BitVec 7) (w : Word) (s : State) (t : Team) (k : Crew) (c : Clause), s.Ready t k c → Mask.none (t.acting c) = false → t.landed [.uni a.toNat] →
    t.uniform a.toNat = .word w →
    let traps := fun (n cause : BitVec 8) => ∃ s' t', exec (.wrsys a n) s = .next s' ∧ s.Trapped s' t t' cause c.hdrVA
    let bad := w.extractLsb' 2 5 ≠ 0 ∨ w.extractLsb' 16 16 ≠ 0
    (bad → traps 0x01 0x04)
    ∧ (¬ bad → ∃ s2 t2, exec (.wrsys a 0x01) s = .next s2 ∧ s2.team? s.cur = some t2 ∧ s2 = { s with teams := s2.teams, cores := s2.cores }
        ∧ (∀ u, u ≠ s.cur → s2.team? u = s.team? u)
        ∧ t2 = { t.advance 1 with jto := w.getLsbD 15, fpf := w.extractLsb' 7 5, rm := w.extractLsb' 0 2, passes := t.passes + 1, total := t.total + 1
                                  stall := 0, lastA := t2.lastA, lastB := t2.lastB })
    ∧ (∀ n ∈ [(0x00 : BitVec 8), 0x02, 0x03, 0x04, 0x05, 0x06, 0x07], traps n 0x09)
    ∧ (k.kind = .ordinary → ∀ n : BitVec 8, 0x40 ≤ n.toNat → n.toNat < 0x80 → traps n 0x09)
    ∧ (k.kind ≠ .ordinary →
      (∀ n ∈ [(0x41 : BitVec 8), 0x42, 0x43, 0x44, 0x45, 0x46, 0x48, 0x4A, 0x58, 0x59, 0x5A], traps n 0x09)
      ∧ (143 < (w.extractLsb' 4 8).toNat ∨ w.extractLsb' 12 20 ≠ 0 → traps 0x40 0x04)
      ∧ ((w.extractLsb' 4 8).toNat ≤ 143 → w.extractLsb' 12 20 = 0 → ∃ s1, s.Does (.wrsys a 0x40) s1 t (t.advance 1) k t.counter 1 [] [] 0
          ∧ s1 = { s with teams := s1.teams, cores := s1.cores } ∧ (∀ u, u ≠ s.cur → s1.team? u = s.team? u)
          ∧ ∀ n, s1.core n = if n = k.coreKey then { s.core n with tsel := w } else s.core n)
      ∧ (∃ s1, s.Does (.wrsys a 0x49) s1 t (t.advance 1) k t.counter 1 [] [] 0 ∧ s1 = { s with teams := s1.teams, samplings := s1.samplings }
          ∧ (∀ u, u ≠ s.cur → s1.team? u = s.team? u) ∧ (s1.sampling k.die k.world) = { s.sampling k.die k.world with head := w })
      ∧ ∀ n ∈ [(0x50 : BitVec 8), 0x51, 0x52],
          (s.selected k = none → s.Completes (.wrsys a n) t k 1 1 [] 0)
          ∧ ∀ u tm km, s.selected k = some (u, tm, km) → u ≠ s.cur →
            (km.world ≠ k.world → s.Completes (.wrsys a n) t k 1 1 [] 0)
            ∧ (km.world = k.world →
              let x := tm.stop
              let y := if n = 0x50 then { x with e := w } else if n = 0x51 then { x with p := w.setWidth 64 }
                else if w.getLsbD 0 then { x with arm := true, reached := false, missed := false, mode := false, redo := false }
                else { x with arm := false, mode := false, redo := false }
              ∃ s1, s.Does (.wrsys a n) s1 t (t.advance 1) k t.counter 1 [] [] 0 ∧ s1 = { s with teams := s1.teams }
                ∧ ∀ v, v ≠ s.cur → s1.team? v = if v = u then some { tm with stop := y } else s.team? v))

/-- A record goes into the ring of a world on a die, or is dropped and counted when the ring is full (R329). -/
def Sys2Proof.Claims.ringAddress (y : Sampling) (die : Nat) : Nat := y.ring + die * y.entries * 16 + y.idx.toNat % y.entries * 16
abbrev Sys2Proof.Claims.ringFull (y : Sampling) : Prop := (y.idx - y.head).toNat = y.entries
def Sys2Proof.Claims.sampled (s1 s2 : State) (die w : Nat) : Prop :=
  s2 = { s1 with samplings := s2.samplings, cores := s2.cores, teams := s2.teams }
  ∧ s2.sampling die w = { s1.sampling die w with idx := (s1.sampling die w).idx + 1 }
def Sys2Proof.Claims.dropped (s s2 : State) (die w : Nat) : Prop :=
  s2 = { s with samplings := s2.samplings, cores := s2.cores, teams := s2.teams }
  ∧ s2.sampling die w = { s.sampling die w with drop := if (s.sampling die w).drop = 0xFFFF then 0xFFFF else (s.sampling die w).drop + 1 }

/-- R333, R334, R329: `smp` in a handler or sampler crew, and a port's sample, append a record to their world's ring. The sample has the reason
that the team's hold or suspension shows, that of pre-emption, or the lowest that blocks its next pass. -/
def Sys2Proof.Claims.SamplesAreAppended : Prop :=
  (∀ (a : BitVec 7) (g : BitVec 6) (s : State) (t : Team) (k : Crew) (c : Clause), s.Ready t k c → Mask.none (t.acting c) = false → a.toNat ≤ 125 →
    t.landed ((List.range 3).map (fun i => UnitRef.uni (a.toNat + i))) →
    let y := s.sampling k.die k.world
    (k.kind = .ordinary → ∃ s' t', exec (.smp a g) s = .next s' ∧ s.Trapped s' t t' 0x09 c.hdrVA)
    ∧ (k.kind ≠ .ordinary → y.entries ≠ 0 →
      (ringFull y → ∃ s1, dropped s s1 k.die k.world ∧ s.Does (.smp a g) s1 t (t.advance 1) k t.counter 1 [] [] 0)
      ∧ (¬ ringFull y → ∀ s1, s.writeOwn k.die k.world (ringAddress y k.die)
          (bytesOf 12 [t.uniform a.toNat, t.uniform (a.toNat + 1), t.uniform (a.toNat + 2)] ++ leBytes 1 (3 * 64 + g.toNat) ++ leBytes 1 k.core
            ++ leBytes 1 (t.slot + 16 * k.world) ++ leBytes 1 0) = .ok s1 →
          ∃ s2, sampled s1 s2 k.die k.world ∧ s.Does (.smp a g) s2 t (t.advance 1) k t.counter 1 [] [] 0))
    ∧ (k.kind ≠ .ordinary → y.entries = 0 → s.Completes (.smp a g) t k 1 1 [] 0))
  ∧ (∀ (core : Nat) (portB : Bool) (s : State), core < 1152 → (s.die (core / 144)).silent = false → s.dieUp (core / 144) = true →
    let d := core / 144
    let last := if portB then (s.core core).lastB else (s.core core).lastA
    (s.nextSampled d (core % 144) last = none → exec (.sampleTick core portB) s = .next s)
    ∧ (∀ u t k, s.nextSampled d (core % 144) last = some u → s.team? u = some t → s.crew? t.crew = some k → k.core = core % 144 →
      let y := s.sampling d k.world
      let s0 := s.modCore core (fun x => if portB then { x with lastB := t.slot } else { x with lastA := t.slot })
      let reason := s0.reasonNow u
      (t.mayIssue = false → reason = t.stall) ∧ (t.mayIssue = true → s.crewIssues k = false → reason = 16)
      ∧ (t.mayIssue = true → s.crewIssues k = true → (s0.probe u).1 ≠ 0 → reason = (s0.probe u).1)
      ∧ (y.logN ≠ 0 → y.entries ≠ 0 → ringFull y → ∃ s2, exec (.sampleTick core portB) s = .next s2 ∧ dropped s s2 d k.world)
      ∧ (y.logN ≠ 0 → y.entries ≠ 0 → ¬ ringFull y → ∀ s1, s0.writeOwn d k.world (ringAddress y d)
          (leBytes 8 t.nextVA.toNat ++ leBytes 4 ((s.die d).dcc.toNat % 2 ^ 32)
            ++ leBytes 1 (reason % 32 + (if reason = 0 then 32 else 0) + (if portB then 64 else 0)) ++ leBytes 1 (core % 144)
            ++ leBytes 1 (t.slot + 16 * k.world) ++ leBytes 1 0) = .ok s1 →
          ∃ s2, exec (.sampleTick core portB) s = .next s2 ∧ sampled s1 s2 d k.world
            ∧ (if portB then (s2.core core).lastB else (s2.core core).lastA) = t.slot)))

/-- R328, R331: what SAMPLE_SET asked for takes effect at its time; an expired timer enters its world's sampler card for that core, at level 7
with the record's VA as its argument, or drops the firing while the previous crew is there. -/
def Sys2Proof.Claims.SamplingTimers : Prop :=
  (∀ (d w : Nat) (s : State), let x := s.sampling d w
    (x.wanted = none ∨ (s.die d).dcc.toNat < x.wantedAt.toNat → exec (.sampleSetActivate d w) s = .next s)
    ∧ (∀ logN ring entries period card, x.wanted = some (logN, ring, entries, period, card) → x.wantedAt.toNat ≤ (s.die d).dcc.toNat →
      ∃ s2 y, exec (.sampleSetActivate d w) s = .next s2 ∧ s2 = { s with samplings := s2.samplings, cores := s2.cores } ∧ s2.sampling d w = y
        ∧ y = { x with logN := logN, ring := ring, entries := entries, period := period, card := card, wanted := none, idx := y.idx, head := y.head }
        ∧ (ring = x.ring → entries = x.entries → y.idx = x.idx ∧ y.head = x.head)
        ∧ ∀ c < 144, (s2.core (144 * d + c)).timerAt = (s.die d).dcc + period))
  ∧ (∀ (core : Nat) (s : State), core < 1152 → (s.die (core / 144)).silent = false → s.dieUp (core / 144) = true →
    let d := core / 144
    let w := (s.die d).world
    let x := s.sampling d w
    (x.period = 0 ∨ (s.die d).dcc.toNat < (s.core core).timerAt.toNat → exec (.sampleTimerExpiry core) s = .next s)
    ∧ (x.period ≠ 0 → (s.core core).timerAt.toNat ≤ (s.die d).dcc.toNat → x.card ≠ 0 →
      (∀ y ∈ s.cards, y.die = d → y.inPool = true → ∀ j, y.kind ≠ .sampler j (core % 144)) →
      ((s.core core).sampler = true → ∃ s2, exec (.sampleTimerExpiry core) s = .next s2 ∧ s2.cards = s.cards ∧ s2.mem = s.mem ∧ s2.teams = s.teams
        ∧ (x.dropTimer ≠ 0xFFFF → (s2.sampling d w).dropTimer = x.dropTimer + 1) ∧ (s2.core core).timerAt = (s.die d).dcc + x.period)
      ∧ ((s.core core).sampler = false → ∀ img slot, s.templateAt d w x.card.toNat = some img → (s.world w).freeSlot = some slot → s.handlerRoom d = true →
        ∃ bs : List PByte, bs.length = 64 ∧ leNat (bs.take 1) = some 0x19 ∧ leNat ((bs.drop 4).take 4) = some 0 ∧ leNat ((bs.drop 15).take 1) = some (core % 144)
          ∧ leNat ((bs.drop 0x24).take 4) = some 0 ∧ leNat ((bs.drop 0x30).take 8) = some (s.die d).dcc.toNat
          ∧ ∀ s1, s.writeRecord d img.world img.asn ((s.world w).trapBase.toNat + 64 * slot) bs = .ok s1 →
            ∃ s2 y, exec (.sampleTimerExpiry core) s = .next s2 ∧ s2.mem = s1.mem ∧ s2.teams = s.teams ∧ s2.cards = s.cards ++ [y] ∧ y.die = d
              ∧ y.kind = .sampler slot (core % 144) ∧ y.level = 7 ∧ y.va = x.card ∧ y.inPool = true
              ∧ y.image = { img with arg := BitVec.ofNat 64 ((s.world w).trapBase.toNat + 64 * slot) }
              ∧ (s2.world w).trapTaken = slot :: (s.world w).trapTaken ∧ (s2.core core).sampler = true)))

/-- R335, R336: a stop is armed in place of another; reached with nothing outstanding, the team goes back to its region entry in stop mode; when
pass P is complete it traps 0x18 with its next VA, and the stop is no longer armed. -/
def Obligations.StopsAreTaken : Prop :=
  ∀ (n : Nat) (s : State) (t : Team), s.team? n = some t →
    exec (.stopctlArm n) s = .next (s.setTeam n { t with stop := { t.stop with arm := true, reached := false, missed := false, mode := false, redo := false } })
    ∧ (∀ k, s.crew? t.crew = some k → t.status = .running → k.offCore = false → t.late = none → t.stop.arm = true → t.stop.redo = false →
      t.regionCount = t.stop.e → t.passes = t.stop.p →
      (t.stop.mode = false → t.fifo = [] → (∀ o ∈ s.ops, o.team ≠ n) →
        (s.commandsOf n = true → exec (.stopReached n) s = .next (s.setTeam n t))
        ∧ (s.commandsOf n = false → ∃ t2, exec (.stopReached n) s = .next (s.setTeam n t2)
          ∧ t2 = { t with trap := none, clause := none, hold := .none, stall := 0, pc := t.regionVA, fr := t.region, passes := 0, fryldTurn := false
                          joinDeadline := t2.joinDeadline, results := [], handle := 0, ctlWord := none
                          stop := { t.stop with mode := true, redo := t.regionCount != 0 } }))
      ∧ (t.stop.mode = true → s.crewBusy [n] = false →
        ∃ s2 t2 i, exec (.stopTrap n) s = .next s2 ∧ s2.team? n = some t2 ∧ t2.status = .suspended ∧ t2.trap = some i ∧ i.cause = 0x18
          ∧ i.faultVA = t.nextVA ∧ t2.passes = t.passes ∧ s2.mem = s.mem ∧ (∀ u, u ≠ n → s2.team? u = s.team? u)
          ∧ t2.stop = { t.stop with arm := false, mode := false, reached := true })
      ∧ (t.stop.mode = true → s.crewBusy [n] = true → exec (.stopTrap n) s = .next s))

/-! ## The host's side -/

/-- R304, R278, R315: a doorbell moves a ring's tail, or is refused with code 4; the abutment releases the card of the entry at the head and the
head moves; an entry it cannot use is skipped with its code and raises its vector; one that waits for a die, a place or a write stays. -/
def Sys2Proof.Claims.HostRings : Prop :=
  ∀ (n : Nat) (s : State), let r := s.ring n
    let ringed := fun (s1 : State) (i : Instr) (r2 : Ring) (msix : List Nat) => ∃ s2, exec i s = .next s2 ∧ s2 = { s1 with host := s2.host }
      ∧ s2.host = { s.host with rings := s2.host.rings, msix := s.host.msix ++ msix } ∧ ∀ m, s2.ring m = if m = n then r2 else s.ring m
    let unread := (r.tail + r.entries - r.head) % r.entries
    (∀ tail : Word, (64 ≤ n ∨ r.set = false → exec (.hostRingDoorbell n tail) s = .next s)
      ∧ (n < 64 → r.set = true → let more := (tail.toNat + r.entries - r.tail) % r.entries
        (r.entries ≤ tail.toNat ∨ r.entries - 1 < unread + more → ringed s (.hostRingDoorbell n tail) { r with code := 4 } [])
        ∧ (tail.toNat < r.entries → unread + more ≤ r.entries - 1 → ringed s (.hostRingDoorbell n tail) { r with tail := tail.toNat } [])))
    ∧ (r.set = false ∨ r.head = r.tail → exec (.hostRingEntry n) s = .next s)
    ∧ (r.set = true → r.head ≠ r.tail → ∀ bs, s.readSpan 16 r.world 2 (r.base.toNat + 16 * r.head) = .ok bs → bs.length = 16 → (∀ b ∈ bs, b ≠ none) →
      let field := fun off len => (leNat ((bs.drop off).take len)).getD 0
      let die := field 8 1
      let vec := field 10 2
      let past := (r.head + 1) % r.entries
      let skipped := fun (s1 : State) (code : BitVec 8) => ringed s1 (.hostRingEntry n)
        { r with code := code, skipped := if r.skipped = 0xFFFFFF then 0xFFFFFF else r.skipped + 1, latest := r.head, head := past }
        (if vec = 0 ∨ vec = 0xFFFF then [] else [vec])
      let waits := exec (.hostRingEntry n) s = .next s
      let bad := 7 < die ∨ vec = 0 ∨ field 9 1 ≠ 0 ∨ field 12 4 ≠ 0
      (bad → skipped s 3)
      ∧ (¬ bad → s.dieUp die = false → s.boot.up = false → waits)
      ∧ (¬ bad → (s.dieUp die = true ∨ (s.boot.up = true ∧ s.nextDie die ≠ none)) →
        let card := s.cardAt 16 r.world r.asn { rd := true, wr := true } (field 0 8)
        let seen := s.cardNoted 16 r.world r.asn { rd := true, wr := true } (field 0 8)
        ((∃ cause, card = .error cause) → skipped seen 1)
        ∧ (∀ pa img, card = .ok (pa, img) →
          (s.ownBusy 16 r.world (pa + 0x40) = true → waits)
          ∧ (s.ownBusy 16 r.world (pa + 0x40) = false →
            (img.count = 0 → skipped seen 2)
            ∧ (img.count = 1 → s.dieUp die = true → s.cardStatus img false = 0 → s.poolRoom die = false → waits)
            ∧ ∀ s1, seen.writeOwn 16 r.world (pa + 0x40) (leBytes 4 (img.count.toNat - 1)) 2 = .ok s1 →
              (2 ≤ img.count.toNat → ringed s1 (.hostRingEntry n) { r with head := past } [])
              ∧ (img.count = 1 → s.dieUp die = true → s.poolRoom die = true →
                ∃ s2 y, exec (.hostRingEntry n) s = .next s2 ∧ s2 = { s1 with cards := s1.cards ++ [y], dies := s2.dies, nextId := s2.nextId, host := s2.host }
                  ∧ s2.ring n = { r with head := past } ∧ y.image = img ∧ y.die = die ∧ y.token = (0x3F#32) ++ (0#32)
                  ∧ y.vector = (if vec = 0xFFFF then none else some vec))))))

/-- The next request is read at its port: its slots are free, and its answer will go to that port. -/
def Sys2Proof.Claims.requestRead (s s2 : State) : Prop :=
  let portE := s.host.next
  let h := (s.facing portE).host
  let n := h.requestSlots h.reqUnread h.reqHead
  (s2.facing portE).host.reqHead = (h.reqHead + n) % 128 ∧ s2.host.waiting = dropSome portE n s.host.waiting ∧ s2.host.serving = portE

/-- A request in its turn is answered: its slots are read, the response goes to the slots of its port or waits for them, and the package is as `s1`
has it. -/
def Sys2Proof.Claims.replies (s : State) (i : Instr) (name : String) (sess : Nat) (error : Bool) (status : Nat) (words : List (BitVec 64)) (s1 : State) : Prop :=
  ∃ s2 r, let h := (s2.facing s.host.next).host
    exec i s = .next s2 ∧ (r ∈ h.rsps ∨ r ∈ h.owed) ∧ r.request = name ∧ r.sess = sess ∧ r.error = error ∧ r.status = status ∧ r.words = words
    ∧ requestRead s s2 ∧ s2 = { s1 with host := s2.host, free := s2.free }
    ∧ h = { (s1.facing s.host.next).host with
        reqHead := h.reqHead, waiting := h.waiting, serving := h.serving, rspTail := h.rspTail, msix := h.msix, rsps := h.rsps, owed := h.owed
        filled := h.filled, written := h.written }

/-- A session whose FINISH has come. -/
def Sys2Proof.Claims.secured (s : State) (sess : Nat) (x : Session) : Prop := s.session sess = some x ∧ x.finished = true

/-- R304: the doorbells of the management ring of either port, writes into its request slots, and writes that are ignored; a request waits while none
is unread, a response is owed, or a world is being stopped. -/
def Sys2Proof.Claims.ManagementRing : Prop :=
  ∀ (portE : Bool) (v off : Word) (s : State),
    let f := s.facing portE
    let h := f.host
    let becomes := fun (i : Instr) (h2 : HostSide) => exec i s = .next (State.facing { f with host := h2 } portE)
    (0x10000 ≤ off.toNat → off.toNat < 0x20000 → off.toNat % 4 = 0 →
      becomes (.bar0IgnoredWrite ⟨portE, off⟩ v) { h with reqWords := tset 0 h.reqWords ((off.toNat - 0x10000) / 4) v })
    ∧ (off.toNat < 0x10000 ∨ 0x20000 ≤ off.toNat → exec (.bar0IgnoredWrite ⟨portE, off⟩ v) s = .next s)
    ∧ (let unread := (h.reqTail + 128 - h.reqHead) % 128
       let more := (v.toNat + 128 - h.reqTail) % 128
       (v.toNat < 128 → unread + more ≤ 127 →
          becomes (.mgmtRequestTail ⟨portE, v⟩) { h with reqTail := v.toNat, waiting := h.waiting ++ List.replicate more portE })
       ∧ (128 ≤ v.toNat ∨ 127 < unread + more → ∃ h2 r, becomes (.mgmtRequestTail ⟨portE, v⟩) h2 ∧ (r ∈ h2.rsps ∨ r ∈ h2.owed) ∧ r.error = true
          ∧ h2.reqTail = h.reqTail ∧ h2.reqHead = h.reqHead ∧ h2.waiting = h.waiting ∧ h2.other = h.other))
    ∧ (let read := (v.toNat + 128 - h.rspHead) % 128
       (v.toNat < 128 → read ≤ (h.rspTail + 128 - h.rspHead) % 128 → ∃ h2, becomes (.mgmtResponseHead ⟨portE, v⟩) h2
          ∧ h2.rspHead = v.toNat ∧ h2.reqHead = h.reqHead ∧ h2.other = h.other ∧ (h.owed = [] → h2.rspTail = h.rspTail ∧ h2.msix = h.msix))
       ∧ (128 ≤ v.toNat ∨ (h.rspTail + 128 - h.rspHead) % 128 < read → exec (.mgmtResponseHead ⟨portE, v⟩) s = .next s))
    ∧ ∀ sess : Nat, s.mgmtReady = false → ∀ i ∈ [Instr.getVersion sess, .getCapabilities sess, .negotiateAlgorithms sess, .getDigests sess, .getCertificate sess,
        .challenge sess, .getMeasurements sess, .keyExchange sess, .finish sess, .keyUpdate sess, .heartbeat sess, .endSession sess,
        .spdmUnsupportedRequest sess, .restartFull sess, .worldCreate sess 1, .errlogExport sess 0 0 64], exec i s = .next s

/-- R303, R312: the SPDM requests. A session opens with KEY_EXCHANGE, at most 4 at once, and accepts messages from FINISH on; GET_MEASUREMENTS
reports MR0 to MR7; what needs a session and has none, and a request that is not supported, is answered with an ERROR and has no effect. -/
def Obligations.SpdmRequests : Prop :=
  ∀ (sess : Nat) (s : State), s.mgmtReady = true →
    let host := fun (h : HostSide) => ({ s with host := h } : State)
    let reports := fun (i : Instr) (name : String) (n : Nat) (h : HostSide) =>
      ∃ ws : List (BitVec 64), ws.length = n ∧ replies s i name sess false 0 ws (host { h with spdm := s.host.spdm + n })
    let refuses := fun (i : Instr) (name : String) => replies s i name sess true 0 [] s
    reports (.getVersion sess) "GET_VERSION" 8 s.host ∧ reports (.getCapabilities sess) "GET_CAPABILITIES" 8 s.host
    ∧ reports (.negotiateAlgorithms sess) "NEGOTIATE_ALGORITHMS" 8 s.host ∧ reports (.getDigests sess) "GET_DIGESTS" 8 s.host
    ∧ reports (.getCertificate sess) "GET_CERTIFICATE" 8 s.host ∧ reports (.challenge sess) "CHALLENGE" 8 s.host
    ∧ replies s (.getMeasurements sess) "GET_MEASUREMENTS" sess false 0
        ((List.range 64).map (fun i => (tget 0 s.boot.mrs (i / 8)).extractLsb' (64 * (i % 8)) 64)) s
    ∧ refuses (.spdmUnsupportedRequest sess) "SPDM_UNSUPPORTED_REQUEST"
    ∧ (sess ≠ 0 → s.session sess = none → s.host.sessions.length < 4 →
        reports (.keyExchange sess) "KEY_EXCHANGE" 8 { s.host with sessions := s.host.sessions ++ [{ id := sess }] })
    ∧ (sess = 0 ∨ (s.session sess).isSome = true ∨ 4 ≤ s.host.sessions.length → refuses (.keyExchange sess) "KEY_EXCHANGE")
    ∧ ((s.session sess).isSome = true → reports (.finish sess) "FINISH" 8
        { s.host with sessions := s.host.sessions.map (fun (x : Session) => if x.id = sess then { x with finished := true } else x) })
    ∧ (s.session sess = none → refuses (.finish sess) "FINISH")
    ∧ ((∃ x, secured s sess x) → reports (.keyUpdate sess) "KEY_UPDATE" 1 s.host ∧ reports (.heartbeat sess) "HEARTBEAT" 1 s.host
        ∧ reports (.endSession sess) "END_SESSION" 1 { s.host with sessions := s.host.sessions.filter (fun (x : Session) => x.id != sess) })
    ∧ ((∀ x, ¬ secured s sess x) → refuses (.keyUpdate sess) "KEY_UPDATE" ∧ refuses (.heartbeat sess) "HEARTBEAT" ∧ refuses (.endSession sess) "END_SESSION")

/-! ## The vendor messages -/

/-- R306, R305: a message for world w is accepted in this session; r: marked R. -/
abbrev Sys2Proof.Claims.accepted (s : State) (x : Session) (w : Nat) (r : Bool) : Prop :=
  if w = 0 then x.world = 0
  else w < 16 ∧ (x.world = w ∨ (x.world = 0 ∧ (s.world w).session = none)) ∧ ((s.world w).state = .unlocked ∨ (r = true ∧ (s.world w).state = .run))

/-- A message answered with this status and these words, which changes one world and nothing else. -/
def Sys2Proof.Claims.changesWorld (s : State) (i : Instr) (name : String) (sess w : Nat) (y : World) : Prop :=
  ∃ s1, replies s i name sess false 0 [] s1 ∧ s1 = { s with worlds := s1.worlds } ∧ s1.world w = y ∧ ∀ u, u ≠ w → s1.world u = s.world u

/-- R305, R306: a vendor message outside a session is answered with an SPDM ERROR, one that its session or the world's state forbids with status 1;
neither has an effect. Messages for world 0 need a world-0 session; others the session bound to the world, or a world-0 session before that,
in CONFIG_UNLOCKED and, with the mark R, in RUN. -/
def Obligations.MessagesAreChecked : Prop :=
  ∀ (sess w n m k p entry len logN entries : Nat) (xts : BitVec 512) (key : BitVec 256) (asn : BitVec 16) (all : Option (BitVec 16)) (pa : PA) (lo hi : VA)
    (v : BitVec 64) (mode : Bool) (peer : BitVec 128) (pc : BitVec 20) (dies : BitVec 8) (s : State), s.mgmtReady = true →
    (∀ i name r, (i, name, r) ∈ [(Instr.worldKey sess w xts key, "WORLD_KEY", false), (.worldDestroy sess w, "WORLD_DESTROY", false),
        (.rangeAssign sess n m len w, "RANGE_ASSIGN", false), (.contextSet sess w asn pa, "CONTEXT_SET", false),
        (.contextInval sess w all lo hi, "CONTEXT_INVAL", true), (.ringSet sess n v entries w asn m k, "RING_SET", false),
        (.sliceSet sess w v, "SLICE_SET", true), (.handlerSet sess w lo hi n pa m, "HANDLER_SET", false),
        (.watchArm sess p entry w pa len mode, "WATCH_ARM", true), (.netTableSet sess w pa n, "NET_TABLE_SET", false),
        (.netConnSet sess w n m asn peer asn pc lo k, "NET_CONN_SET", true), (.sampleSet sess w dies logN pa entries v lo, "SAMPLE_SET", true)] →
      ((∀ x, ¬ secured s sess x) → replies s i name sess true 0 [] s)
      ∧ (∀ x, secured s sess x → ¬ accepted s x w r → replies s i name sess false 1 [] s))
    ∧ (∀ i name, (i, name) ∈ [(Instr.worldCreate sess w, "WORLD_CREATE"), (.lockInterface sess w, "LOCK_INTERFACE"),
        (.startInterface sess w, "START_INTERFACE"), (.getDeviceInterfaceReport sess w, "GET_DEVICE_INTERFACE_REPORT"),
        (.getDeviceInterfaceState sess w, "GET_DEVICE_INTERFACE_STATE"), (.watchDisarm sess p entry, "WATCH_DISARM"), (.logExport sess p n, "LOG_EXPORT"),
        (.mrExtend sess n xts, "MR_EXTEND"), (.netKey sess n key v, "NET_KEY"), (.netConnClose sess n, "NET_CONN_CLOSE"),
        (.errlogExport sess p n m, "ERRLOG_EXPORT"), (.restartFull sess, "RESTART_FULL")] →
      (∀ x, ¬ secured s sess x) → replies s i name sess true 0 [] s)
    ∧ (∀ x, secured s sess x →
      ((∀ i name, (i, name) ∈ [(Instr.logExport sess p n, "LOG_EXPORT"), (.mrExtend sess n xts, "MR_EXTEND")] →
          ¬ accepted s x x.world true → replies s i name sess false 1 [] s)
       ∧ (x.world ≠ 0 → replies s (.errlogExport sess p n m) "ERRLOG_EXPORT" sess false 1 [] s ∧ replies s (.restartFull sess) "RESTART_FULL" sess false 1 [] s)
       ∧ (w = 0 ∨ x.world ≠ w ∨ (s.world w).state = .none → ∀ i name, (i, name) ∈ [(Instr.lockInterface sess w, "LOCK_INTERFACE"),
            (.startInterface sess w, "START_INTERFACE"), (.getDeviceInterfaceReport sess w, "GET_DEVICE_INTERFACE_REPORT"),
            (.getDeviceInterfaceState sess w, "GET_DEVICE_INTERFACE_STATE")] → replies s i name sess false 1 [] s)
       ∧ (∀ c : Conn, s.conn? n = some c → ¬ accepted s x c.world true →
            replies s (.netKey sess n key v) "NET_KEY" sess false 1 [] s ∧ replies s (.netConnClose sess n) "NET_CONN_CLOSE" sess false 1 [] s)
       ∧ (∀ e : Watch, tget none (s.pier p).watches entry = some e → ¬ accepted s x e.world true → replies s (.watchDisarm sess p entry) "WATCH_DISARM" sess false 1 [] s)))

/-- R306: WORLD_CREATE, WORLD_KEY and WORLD_DESTROY. A world begins in CONFIG_UNLOCKED with its session bound and its seed drawn; a key begins a
new epoch; only a scrubbed world's number is freed. That the count of epochs goes on is the model's. -/
def Sys2Proof.Claims.WorldMessages : Prop :=
  ∀ (sess w : Nat) (xts : BitVec 512) (key : BitVec 256) (s : State) (x : Session), s.mgmtReady = true → secured s sess x →
    let y := s.world w
    (w ≠ 0 → w < 16 → (x.world = 0 ∨ x.world = w) → s.boot.minimal = false →
      (y.state = .none → ∃ s1 seed, replies s (.worldCreate sess w) "WORLD_CREATE" sess false 0 [] s1 ∧ s1 = { s with worlds := s1.worlds, host := s1.host }
        ∧ s1.host = { s.host with sessions := s.host.sessions.map (fun (z : Session) => if z.id = sess then { z with world := w } else z) }
        ∧ s1.world w = { worldDefault with state := .unlocked, session := some sess, epoch := y.epoch, seed := seed } ∧ ∀ u, u ≠ w → s1.world u = s.world u)
      ∧ (y.state ≠ .none → replies s (.worldCreate sess w) "WORLD_CREATE" sess false 2 [] s))
    ∧ (w ≠ 0 → s.boot.minimal = true → replies s (.worldCreate sess w) "WORLD_CREATE" sess false 1 [] s)
    ∧ (x.world = 0 → replies s (.worldCreate sess 0) "WORLD_CREATE" sess false 2 [] s)
    ∧ (16 ≤ w ∨ (x.world ≠ 0 ∧ x.world ≠ w) → replies s (.worldCreate sess w) "WORLD_CREATE" sess false 1 [] s)
    ∧ (w ≠ 0 → accepted s x w false →
        changesWorld s (.worldKey sess w xts key) "WORLD_KEY" sess w { y with keyed := true, xts := xts, tagKey := key, epoch := y.epoch + 1, scrubbed := false }
        ∧ (y.scrubbed = true → changesWorld s (.worldDestroy sess w) "WORLD_DESTROY" sess w { worldDefault with epoch := y.epoch })
        ∧ (y.scrubbed = false → replies s (.worldDestroy sess w) "WORLD_DESTROY" sess false 1 [] s))
    ∧ (x.world = 0 → replies s (.worldKey sess 0 xts key) "WORLD_KEY" sess false 1 [] s ∧ replies s (.worldDestroy sess 0) "WORLD_DESTROY" sess false 1 [] s)

/-- R306, R299, R362: RANGE_ASSIGN sets one ownership entry, or answers 3 where the table is full (or, the model's choice, an operand is out of range);
the lines it touches in DRAM and CXL memory are unwritten and read as zeros. -/
def Sys2Proof.Claims.RangesAreAssigned : Prop :=
  ∀ (sess w h base len : Nat) (s : State) (x : Session), s.mgmtReady = true → secured s sess x → accepted s x w false →
    (h < 16 ∨ (h < 18 ∧ s.capCxl = true)) → 10 ≤ len → len ≤ 48 → base % 2 ^ (52 - len) = 0 → base + 2 ^ (52 - len) ≤ 2 ^ 44 →
    let rest := (s.holder h).owners.filter (fun e => !(e.2.1 == base && e.2.2 == len))
    (256 ≤ rest.length → replies s (.rangeAssign sess h base len w) "RANGE_ASSIGN" sess false 3 [] s)
    ∧ (rest.length < 256 → ∃ s1, replies s (.rangeAssign sess h base len w) "RANGE_ASSIGN" sess false 0 [] s1
        ∧ s1 = { s with holders := s1.holders, mem := s1.mem, worlds := s1.worlds }
        ∧ s1.holder h = { s.holder h with owners := rest ++ [(w, base, len)] } ∧ (∀ g, g ≠ h → s1.holder g = s.holder g)
        ∧ s1.world w = { s.world w with scrubbed := (s.world w).scrubbed && w == 0 } ∧ (∀ u, u ≠ w → s1.world u = s.world u)
        ∧ (h < 8 → s1.mem = s.mem)
        ∧ (8 ≤ h → s.mem.wf = true → ∀ o, o < 2 ^ 44 →
            (o / 128 * 128 < base + 2 ^ (52 - len) ∧ base < o / 128 * 128 + 128 → s.chanFailed h o = false → s1.byteAt h o = some 0)
            ∧ (¬ (o / 128 * 128 < base + 2 ^ (52 - len) ∧ base < o / 128 * 128 + 128) →
                tget 0 s1.mem.cells (memKey h o) = tget 0 s.mem.cells (memKey h o) ∧ tget false s1.mem.written (lineKey h o) = tget false s.mem.written (lineKey h o)
                ∧ tget false s1.mem.poison (granuleBase h o) = tget false s.mem.poison (granuleBase h o)))
        ∧ (8 ≤ h → s.mem.wf = true → ∀ g o, g ≠ h → o < 2 ^ 44 → tget 0 s1.mem.cells (memKey g o) = tget 0 s.mem.cells (memKey g o)))

/-- R306, R196, R198, R288, R291, R292: CONTEXT_SET, SLICE_SET, HANDLER_SET, RING_SET and CONTEXT_INVAL; R318: NET_TABLE_SET. -/
def Sys2Proof.Claims.WorldsAreConfigured : Prop :=
  ∀ (sess w n lo hi entries records tsize ssize : Nat) (asn : BitVec 16) (all : Option (BitVec 16)) (pa : PA) (va vb : VA) (v : BitVec 64) (s : State) (x : Session),
    s.mgmtReady = true → secured s sess x →
    let y := s.world w
    (accepted s x w false →
      changesWorld s (.contextSet sess w asn pa) "CONTEXT_SET" sess w { y with ctxs := y.ctxs.filter (fun c => c.1 != asn) ++ [(asn, pa)] }
      ∧ changesWorld s (.handlerSet sess w va vb tsize pa ssize) "HANDLER_SET" sess w
          { y with handler := (s.templateAt 16 w va.toNat).map (fun i => (va, i)), trapBase := vb, trapSlots := tsize / 64, saveBase := pa.toNat, saveSize := ssize }
      ∧ changesWorld s (.netTableSet sess w pa records) "NET_TABLE_SET" sess w { y with netTable := some (pa, records) }
      ∧ (n < 64 → ∃ s1, replies s (.ringSet sess n v entries w asn lo hi) "RING_SET" sess false 0 [] s1 ∧ s1 = { s with host := s1.host }
          ∧ s1.host = { s.host with rings := s1.host.rings } ∧ (∀ m, m ≠ n → s1.ring m = s.ring m)
          ∧ s1.ring n = { set := true, base := v, entries := entries, world := w, asn := asn, msixLo := lo, msixHi := hi }))
    ∧ (accepted s x w true →
      changesWorld s (.sliceSet sess w v) "SLICE_SET" sess w { y with slice := v }
      ∧ (∃ s1, replies s (.contextInval sess w all va vb) "CONTEXT_INVAL" sess false 0 [] s1 ∧ s1 = { s with cores := s1.cores }
          ∧ ∀ c, s1.core c = { s.core c with tlb := (s.core c).tlb.filter (fun e => !(e.world == w && (e.glob || all.isNone || all == some e.asn)
              && decide (e.va / 2 ^ e.log2 * 2 ^ e.log2 ≤ vb.toNat) && decide (va.toNat < e.va / 2 ^ e.log2 * 2 ^ e.log2 + 2 ^ e.log2))) }))

/-- R305: LOCK_INTERFACE and START_INTERFACE move a world's interface on, from the one state each allows; the report and the state are returned in
every state. -/
def Sys2Proof.Claims.InterfacesMove : Prop :=
  ∀ (sess w : Nat) (s : State) (x : Session), s.mgmtReady = true → secured s sess x → x.world = w → w ≠ 0 → (s.world w).state ≠ .none →
    let y := s.world w
    (y.state = .unlocked → changesWorld s (.lockInterface sess w) "LOCK_INTERFACE" sess w { y with state := .locked })
    ∧ (y.state ≠ .unlocked → replies s (.lockInterface sess w) "LOCK_INTERFACE" sess false 1 [] s)
    ∧ (y.state = .locked → changesWorld s (.startInterface sess w) "START_INTERFACE" sess w { y with state := .run, scrubbed := false })
    ∧ (y.state ≠ .locked → replies s (.startInterface sess w) "START_INTERFACE" sess false 1 [] s)
    ∧ replies s (.getDeviceInterfaceState sess w) "GET_DEVICE_INTERFACE_STATE" sess false 0
        [match y.state with | .locked => 1 | .run => 2 | .error => 3 | _ => 0] s
    ∧ replies s (.getDeviceInterfaceReport sess w) "GET_DEVICE_INTERFACE_REPORT" sess false 0 (Config.report (s.configOf w)) s

/-- R305, R307, R308: STOP_INTERFACE ends the world's cards with status 0x07 and kills its crews; once they are gone it scrubs what the world owns,
returns its ranges, answers with the receipt, and the world is in CONFIG_UNLOCKED with no keys. -/
def Sys2Proof.Claims.InterfacesStop : Prop :=
  ∀ (sess w : Nat) (nonce : BitVec 64) (s : State), w ≠ 0 →
    let y := s.world w
    let i := Instr.stopInterface sess w nonce
    (∀ x, s.mgmtReady = true → secured s sess x → x.world = w → y.state ≠ .none → y.stopping ≠ some (sess, nonce) →
      ∀ id k, s.crew? id = some k → k.world = w → k.status ≠ .gone → ∃ s2, exec i s = .next s2
        ∧ (s2.world w).stopping = some (sess, nonce) ∧ (s2.world w).state = y.state ∧ requestRead s s2
        ∧ (∀ j l, s.crew? j = some l → l.world = w → ∃ l2, s2.crew? j = some l2 ∧ l2.world = w ∧ l2.live = false)
        ∧ ∀ c ∈ s2.cards, c.order < s.nextId → c.image.world = w → c.stage = 0 → c.status = 0x07 ∧ c.cause = 0 ∧ c.inPool = false ∧ c.image.gangs ≤ c.nextGang)
    ∧ (y.stopping = some (sess, nonce) → s.worldEmpty w = false → exec i s = .next s)
    ∧ (y.stopping = some (sess, nonce) → s.worldEmpty w = true → ∃ s2 r, exec i s = .next s2
        ∧ (r ∈ (s2.facing s.host.serving).host.rsps ∨ r ∈ (s2.facing s.host.serving).host.owed) ∧ r.request = "STOP_INTERFACE"
        ∧ r.error = false ∧ r.status = 0 ∧ s2.host.receipts = s.host.receipts + 1
        ∧ s2.world w = { y with state := .unlocked, stopping := none, scrubbed := true, keyed := false, xts := 0, tagKey := 0, epoch := y.epoch + 1 }
        ∧ (∀ h o, h < 16 → o < 2 ^ 44 → s.ownerOf h o = w → tget 0 s2.mem.cells (memKey h o) = 0)
        ∧ (∀ p, p < 8 → (∀ e ∈ (s2.holder (8 + p)).owners, e.1 ≠ w) ∧ (∀ a ∈ (s2.node (8 + p)).table, a.world ≠ w))
        ∧ (let owned := fun (hs : List Nat) => BitVec.ofNat 64 ((hs.map (fun h => s.ownedBytes h w)).sum)
           let z := y.zeroed
           ∃ pierEntries, r.words.take 20 = [1 + BitVec.ofNat 64 (w * 2 ^ 32), BitVec.ofNat 64 (s.host.receipts + 1), nonce, BitVec.ofNat 64 z.words, BitVec.ofNat 64 z.accs,
               BitVec.ofNat 64 (z.bytes % 2 ^ 48 + z.tags * 2 ^ 48), BitVec.ofNat 64 z.resid, owned (List.range 8), pierEntries,
               owned [8, 9, 10, 11, 12, 13, 14, 15], owned [16, 17], 0] ++ wordsOf512 (Config.sha512 s.allMrs)
             ∧ r.words.drop 20 = wordsOf512 (Config.sign (Config.sha512 (r.words.take 20)))))

/-- R309, R306, R312: WATCH_ARM and WATCH_DISARM, LOG_EXPORT with its signed batch, and MR_EXTEND. -/
def Sys2Proof.Claims.WatchesAndMeasurements : Prop :=
  ∀ (sess w p entry len count n : Nat) (pa : PA) (mode : Bool) (d : BitVec 512) (s : State) (x : Session), s.mgmtReady = true → secured s sess x →
    let pierOnly := fun (i : Instr) (name : String) (words : List (BitVec 64)) (q : Pier) =>
      ∃ s1, replies s i name sess false 0 words s1 ∧ s1 = { s with piers := s1.piers } ∧ s1.pier p = q ∧ ∀ m, m ≠ p → s1.pier m = s.pier m
    (p < 8 → entry < 64 →
      (accepted s x w true → len ≤ 52 → ∃ q, pierOnly (.watchArm sess p entry w pa len mode) "WATCH_ARM" [] { s.pier p with watches := q }
        ∧ tget none q entry = some { world := w, base := pa.toNat, len := len, mode := mode }
        ∧ ∀ e, e ≠ entry → tget none q e = tget none (s.pier p).watches e)
      ∧ (∀ y : Watch, tget none (s.pier p).watches entry = some y → accepted s x y.world true →
          ∃ q, pierOnly (.watchDisarm sess p entry) "WATCH_DISARM" []
              { s.pier p with watches := q, oldCounts := (s.pier p).oldCounts ++ [(entry, y.reads, y.writes)] }
            ∧ tget none q entry = none ∧ ∀ e, e ≠ entry → tget none q e = tget none (s.pier p).watches e))
    ∧ (p < 8 → accepted s x x.world true →
        let q := s.pier p
        let recs := q.watchLog.take (min count 64)
        let batch := [BitVec.ofNat 64 p, BitVec.ofNat 64 q.batch, BitVec.ofNat 64 q.watchDropped]
          ++ ((q.watches.filterMap (fun e => e.2.map (fun y => (e.1, y.reads, y.writes)))) ++ q.oldCounts).flatMap
              (fun c => [BitVec.ofNat 64 c.1, c.2.1.setWidth 64, c.2.2.setWidth 64])
          ++ recs.flatMap (fun r => [r.dcc, BitVec.ofNat 64 r.pa,
              BitVec.ofNat 64 (r.world + 2 ^ 8 * r.kind + 2 ^ 16 * r.src + 2 ^ 24 * Nat.log2 r.size + 2 ^ 32 * r.entry), BitVec.ofNat 64 r.seq])
        pierOnly (.logExport sess p count) "LOG_EXPORT" (batch ++ wordsOf512 (Config.sign (Config.sha512 batch)))
          { q with batch := q.batch + 1, watchDropped := 0, oldCounts := [], watchLog := q.watchLog.drop (min count 64) })
    ∧ (accepted s x x.world true → (n = 6 ∨ n = 7 →
        ∃ mrs, replies s (.mrExtend sess n d) "MR_EXTEND" sess false 0 [] { s with boot := { s.boot with mrs := mrs } }
          ∧ tget 0 mrs n = Config.sha512 (wordsOf512 (s.mr n) ++ wordsOf512 d) ∧ ∀ m, m ≠ n → tget 0 mrs m = s.mr m)
      ∧ (n ≠ 6 → n ≠ 7 → replies s (.mrExtend sess n d) "MR_EXTEND" sess false 3 [] s))

/-- R318, R323: NET_CONN_SET establishes a connection with its numbers at 0 and the key its world has installed, and answers 2 if it is established;
NET_KEY installs a key and restarts the IV counter; NET_CONN_CLOSE completes the commands still held with status 4. -/
def Sys2Proof.Claims.ConnectionMessages : Prop :=
  ∀ (sess w conn port size : Nat) (asn udp : BitVec 16) (peer : BitVec 128) (pc : BitVec 20) (base : VA) (key : BitVec 256) (salt : BitVec 64) (s : State) (x : Session),
    s.mgmtReady = true → secured s sess x →
    let one := fun (s1 : State) (y : Conn) => s1.conn? conn = some y ∧ ∀ c, c ≠ conn → s1.conn? c = s.conn? c
    let set := Instr.netConnSet sess w conn port asn peer udp pc base size
    let kept := fun (c : Conn) => match s.conn? conn with
      | some y => if y.world = w then { c with key := y.key, salt := y.salt, iv := y.iv, exhausted := y.exhausted } else c
      | none => c
    (accepted s x w true → conn < 2 ^ 20 → port < 16 → s.capNet = true →
      ((∀ y : Conn, s.conn? conn = some y → y.up = false) → ∃ s1, replies s set "NET_CONN_SET" sess false 0 [] s1 ∧ s1 = { s with net := s1.net }
          ∧ s1.net = { s.net with conns := s1.net.conns, cached := s1.net.cached, hostTable := s1.net.hostTable }
          ∧ one s1 (kept { world := w, asn := asn, port := port, peer := peer, udp := udp, peerConn := pc, winBase := base, winSize := size, up := true }))
      ∧ (∀ y : Conn, s.conn? conn = some y → y.up = true → replies s set "NET_CONN_SET" sess false 2 [] s))
    ∧ (s.conn? conn = none → conn < 2 ^ 20 → accepted s x x.world true → ∃ s1, replies s (.netKey sess conn key salt) "NET_KEY" sess false 0 [] s1
          ∧ s1 = { s with net := s1.net } ∧ s1.net = { s.net with conns := s1.net.conns } ∧ one s1 { world := x.world, key := some key, salt := salt })
    ∧ ∀ y : Conn, s.conn? conn = some y → accepted s x y.world true →
      (conn < 2 ^ 20 → y.unackd = [] → y.answers = [] → ∃ s1, replies s (.netKey sess conn key salt) "NET_KEY" sess false 0 [] s1 ∧ s1 = { s with net := s1.net }
          ∧ s1.net = { s.net with conns := s1.net.conns } ∧ one s1 { y with key := some key, salt := salt, iv := 0, exhausted := false })
      ∧ ((∀ c ∈ s.net.cmds, ∀ c' ∈ s.net.cmds, c.id = c'.id → c = c') → ∃ s1, replies s (.netConnClose sess conn) "NET_CONN_CLOSE" sess false 0 [] s1
          ∧ s1 = { s with net := s1.net, free := s1.free } ∧ s1.net = { s.net with conns := s1.net.conns, cmds := s1.net.cmds }
          ∧ one s1 { y with up := false, unackd := [], buffered := [], answers := [], expects := [] } ∧ s1.net.cmds.length = s.net.cmds.length
          ∧ ∀ c ∈ s.net.cmds, (c.conn = conn → c.result = none → ∃ seq : BitVec 32, { c with status := 4, result := some (seq ++ (4#32)) } ∈ s1.net.cmds)
              ∧ (c.conn ≠ conn ∨ c.result ≠ none → c ∈ s1.net.cmds))

/-- R328: SAMPLE_SET asks each die named for its next multiple of 2^20 DCC, and answers 3 for operands it may not have; ERRLOG_EXPORT, in a world-0
session, returns the oldest records with the unit's counters, signed, and they leave the log. -/
def Sys2Proof.Claims.SamplingAndErrorLogs : Prop :=
  ∀ (sess w logN entries unit log count : Nat) (dies : BitVec 8) (ring : PA) (period : BitVec 64) (card : VA) (s : State) (x : Session),
    s.mgmtReady = true → secured s sess x →
    let set := Instr.sampleSet sess w dies logN ring entries period card
    let fits := (logN = 0 ∨ (8 ≤ logN ∧ logN ≤ 20)) ∧ (∃ e, 6 ≤ e ∧ e ≤ 20 ∧ entries = 2 ^ e)
    (accepted s x w true → ¬ fits → replies s set "SAMPLE_SET" sess false 3 [] s)
    ∧ (accepted s x w true → samplerCard (s.templateAt 16 w card.toNat) = false → replies s set "SAMPLE_SET" sess false 3 [] s)
    ∧ (accepted s x w true → ∀ d h off, d < 8 → dies.getLsbD d = true → s.homeOf d w (ring.toNat + d * entries * 16) = .ok (h, off) →
        s.ownerOf h off ≠ w → replies s set "SAMPLE_SET" sess false 3 [] s)
    ∧ (accepted s x w true → s.ringOwned w dies ring entries = false → replies s set "SAMPLE_SET" sess false 3 [] s)
    ∧ (accepted s x w true → fits → s.ringOwned w dies ring entries = true → samplerCard (s.templateAt 16 w card.toNat) = true → w < 16 →
        ∃ s1, replies s set "SAMPLE_SET" sess false 0 [] s1 ∧ s1 = { s with samplings := s1.samplings } ∧ ∀ d u, d < 8 → u < 16 →
          s1.sampling d u = if dies.getLsbD d = true ∧ u = w then
            { s.sampling d u with wanted := some (logN, ring.toNat, entries, period, card), wantedAt := BitVec.ofNat 64 (((s.die d).dcc.toNat / 2 ^ 20 + 1) * 2 ^ 20) }
            else s.sampling d u)
    ∧ (x.world = 0 → unit < 18 → log ≤ 1 →
        let l := s.errLogOf unit log
        let words := (l.recs.take (min count 64)).flatMap (fun r => [r.dcc,
            BitVec.ofNat 64 (r.kind.toNat + 2 ^ 8 * (r.low % 256) + 2 ^ 16 * r.world + 2 ^ 24 * (r.low / 256 % 2 + 2 * r.cls) + 2 ^ 32 * r.index)])
          ++ s.unitCounters unit ++ [BitVec.ofNat 64 l.dropped]
        ∃ s1, replies s (.errlogExport sess unit log count) "ERRLOG_EXPORT" sess false 0 (words ++ wordsOf512 (Config.sign (Config.sha512 words))) s1
          ∧ s1 = { s with dies := s1.dies, piers := s1.piers, abutLogs := s1.abutLogs } ∧ s1.errLogOf unit log = { l with recs := l.recs.drop (min count 64) })

/-! ## Boot -/

/-- A start under way: begun, not failed, bring-up not ended. -/
abbrev Sys2Proof.Claims.starting (s : State) : Prop := s.boot.stage = 1 ∧ s.boot.up = false

/-- R312, R313, R314: BL0 reads the count of failed starts, which a full start raises; at 3 or more it starts minimal mode. Slot A is used, or B where A
fails verification or the rollback check; BL1 measures itself before that check, and every part is measured as it verifies; one that does not has
the start fail. -/
def Sys2Proof.Claims.BootStarts : Prop :=
  ∀ (s : State), (s.boot.stage ≠ 0 → exec .bootStart s = .next s)
    ∧ (s.boot.stage = 0 →
      let v := ((List.range 64).filter (fun i => s.boot.fuses.getLsbD i)).length
      let a := s.boot.slotA
      let b := s.boot.slotB
      let fits := fun (x : ImageSlot) => x.good = true ∧ v ≤ x.version
      let first := (if a.good then [a] else []) ++ (if (a.good = false ∨ a.version < v) ∧ b.good = true then [b] else [])
      let grow := fun (m d : BitVec 512) => Config.sha512 (wordsOf512 m ++ wordsOf512 d)
      ∃ s1, exec .bootStart s = .next s1 ∧ s1.capDies = 0 ∧ s1.boot.weak = 0 ∧ s1.boot.fuses = s.boot.fuses ∧ s1.boot.minimal = decide (3 ≤ s.boot.count)
        ∧ (s.boot.count < 3 → s1.boot.count = s.boot.count + 1 ∧ s1.capNet = s.capNet ∧ s1.capCxl = s.capCxl ∧ s1.nodes = s.nodes)
        ∧ (3 ≤ s.boot.count → s1.boot.count = s.boot.count ∧ s1.capNet = false ∧ s1.capCxl = false
            ∧ (∀ n, n ≠ 0 → n ≠ 8 → n ≠ 9 → s1.node n = nodeDefault) ∧ ∀ ann ∈ (s1.node 8).table, ann.holder ∈ [0, 8, 9])
        ∧ (s1.boot.reason = 0x12 → s1.boot.stage = 2) ∧ (s1.boot.reason ≠ 0x12 → s1.boot.stage = 1)
        ∧ (fits a → s1.boot.usedB = false ∧ s1.boot.reason = (if a.fails.isSome then 0x12 else 0))
        ∧ (¬ fits a → fits b → s1.boot.usedB = true ∧ s1.boot.reason = (if b.fails.isSome then 0x12 else if a.good then 0x02 else 0x01))
        ∧ (¬ fits a → ¬ fits b → s1.boot.reason = 0x12 ∧ ∀ n ∈ [1, 2, 3, 4], s1.mr n = s.mr n)
        ∧ s1.mr 6 = s.mr 6 ∧ s1.mr 7 = s.mr 7
        ∧ s1.mr 0 = first.foldl (fun m x => grow m (Config.partDigest x.digest 0)) (s.mr 0)
        ∧ s1.mr 5 = first.foldl (fun m x => grow m (Config.versionDigest x.version s.boot.fuses)) (s.mr 5)
        ∧ (fits a ∨ fits b → let x := if s1.boot.usedB then b else a
            ∀ n ∈ [1, 2, 3, 4], s1.mr n = if x.fails.any (fun f => decide (f ≤ n)) then s.mr n else grow (s.mr n) (Config.partDigest x.digest n))
        ∧ s1.mem = s.mem ∧ s1.teams = s.teams)

/-- R314, R315: what fails in a start gives its reason, and a start the watchdog ends has failed; a die enters service calibrated, beside an attach
pier with trained DRAM, in minimal mode C0 alone; when bring-up ends UP sets, a full start with REASON below 0x10 clears the count, and the bits up
to the image's version are blown (R313). -/
def Sys2Proof.Claims.StartsGoOn : Prop :=
  ∀ (d p : Nat) (s : State), d < 8 → p < 8 →
    (starting s →
      exec .startWatchdogExpiry s = .next { s with boot := { s.boot with reason := 0x20, stage := 2 } }
      ∧ exec (.dramTrainingFailed p) s = .next (({ s with boot := { s.boot with reason := 0x10 } } : State).modPier p (fun x => { x with dramFailed := true }))
      ∧ (s.dieUp d = false → exec (.dieCalibrationFailed d) s
          = .next (({ s with boot := { s.boot with reason := 0x11 } } : State).modDie d (fun x => { x with calFailed := true })))
      ∧ (s.capDies ≠ 0 → ∃ b : Boot, exec .bringUpEnd s = .next { s with boot := b } ∧ b.up = true
          ∧ b.count = (if s.boot.minimal = false ∧ s.boot.reason.toNat < 0x10 then 0 else s.boot.count)
          ∧ (∀ i, i < 64 → b.fuses.getLsbD i = (s.boot.fuses.getLsbD i || decide (i < (if s.boot.usedB then s.boot.slotB else s.boot.slotA).version)))
          ∧ b = { s.boot with up := true, fuses := b.fuses, fresh := b.fuses &&& ~~~s.boot.fuses, flashA := b.flashA, flashB := b.flashB })
      ∧ (s.capDies = 0 → exec .bringUpEnd s = .next s))
    ∧ (¬ starting s → exec .startWatchdogExpiry s = .next s ∧ exec (.dramTrainingFailed p) s = .next s ∧ exec (.dieCalibrationFailed d) s = .next s
        ∧ exec .bringUpEnd s = .next s)
    ∧ (let may := s.boot.stage = 1 ∧ s.dieUp d = false ∧ (s.die d).calFailed = false ∧ (s.die d).silent = false ∧ (s.boot.minimal = true → d = 0)
          ∧ ((s.pier (attach d 0)).dramFailed = false ∨ (s.pier (attach d 1)).dramFailed = false)
       (may → ∃ s1, exec (.dieEnterService d) s = .next s1 ∧ s1 = { s with dies := s1.dies, capDies := s1.capDies, boot := { s.boot with cal := false } } ∧ s1.dieUp d = true
          ∧ (∀ e, e < 8 → e ≠ d → s1.dieUp e = s.dieUp e) ∧ s1.die d = { s.die d with cal12 := true } ∧ ∀ e, e ≠ d → s1.die e = s.die e)
       ∧ (¬ may → exec (.dieEnterService d) s = .next s))
    ∧ (s.boot.stage = 1 → s.capDies ≠ 0 → ∃ s1, exec .calibrationComplete s = .next s1 ∧ s1 = { s with dies := s1.dies, boot := { s.boot with cal := true } }
        ∧ ∀ e, e < 8 → s1.die e = (if s.dieUp e then { s.die e with calFull := true } else s.die e))
    ∧ (s.boot.stage ≠ 1 ∨ s.capDies = 0 → exec .calibrationComplete s = .next s)

/-- The package as a reset leaves it, but for flash, fuses and image slots; what the model counts for itself goes on. -/
def Sys2Proof.Claims.resets (s s1 : State) : Prop :=
  s1 = { State.resetOf s.variant with
    cur := s.cur, agenda := s.agenda, phase := s.phase, nextId := s.nextId, free := s.free
    boot := { flashA := s1.boot.flashA, flashB := s1.boot.flashB, fuses := s1.boot.fuses, weak := s1.boot.weak, slotA := s.boot.slotA, slotB := s.boot.slotB } }

/-- R306, R313, R314: RESTART_FULL clears the count of failed starts and resets the package. A loss of power resets it; an increment it interrupts counts
as made or not, an interrupted blow leaves any of its bits blown or weak, and no bit blown before it is lost. -/
def Sys2Proof.Claims.PackageRestarts : Prop :=
  ∀ (sess : Nat) (counted : Bool) (blown weak : BitVec 64) (s : State),
    (∀ x, s.mgmtReady = true → secured s sess x → x.world = 0 → ∃ s1, exec (.restartFull sess) s = .next s1 ∧ resets s s1 ∧ s1.boot.count = 0
        ∧ s1.boot.fuses = s.boot.fuses ∧ s1.boot.weak = s.boot.weak)
    ∧ (∃ s1, exec (.powerLoss counted blown weak) s = .next s1 ∧ resets s s1
        ∧ s1.boot.count = (if s.boot.stage = 0 ∧ counted = true ∧ s.boot.count < 3 then s.boot.count + 1 else s.boot.count)
        ∧ ∀ i, i < 64 →
            let blowing := s.boot.fresh.getLsbD i = true
            (s1.boot.fuses.getLsbD i = true ↔ (s.boot.fuses.getLsbD i = true ∧ ¬ blowing) ∨ (blowing ∧ blown.getLsbD i = true))
            ∧ (s1.boot.weak.getLsbD i = true ↔ weak.getLsbD i = true ∧ ((blowing ∧ blown.getLsbD i = true) ∨ (s.boot.stage = 0 ∧ s.boot.weak.getLsbD i = true))))

/-- R243, R340: a pier that is reset is silent first; once its announcements are withdrawn everywhere it returns with no failed channel and nothing in
its SRAM. -/
def Sys2Proof.Claims.PiersReset : Prop :=
  ∀ (p : Nat) (s : State), p < 8 →
    ((s.pier p).silent = false → ∃ s1, exec (.pierReset p) s = .next s1 ∧ (s1.pier p).silent = true ∧ (s1.pier p).resetting = true)
    ∧ ((s.pier p).silent = true → s.withdrawnAll (8 + p) = false →
        exec (.pierReset p) s = .next (s.modPier p (fun x => { x with resetting := true })))
    ∧ ((s.pier p).silent = true → s.withdrawnAll (8 + p) = true → s.campaigns = [] → s.chanJobs = [] →
        ∃ s1, exec (.pierReset p) s = .next s1 ∧ (s1.pier p).silent = false ∧ (s1.pier p).resetting = false ∧ (s1.pier p).failedChans = []
          ∧ (s1.pier p).watches = [] ∧ (s1.pier p).sramPoison = [] ∧ (s1.pier p).dcc = 0 ∧ s1.mem = s.mem)

/-! ## The whole machine -/

/-- Every instruction with words (an event has none), whatever its operands, decodes from its words to itself, and what follows is left. -/
def Obligations.DecodeOfEncode : Prop :=
  ∀ (i : Instr) (rest : List Byte), encode i ≠ [] → decodeBytes ((encode i).flatMap bytesOfWord ++ rest) = .ok (i, rest)

/-- Words of the examples of spec/02 and spec/03 decode to the instructions written beside them. -/
def Obligations.WrittenWordsDecode : Prop :=
  decode 0xB7010011 0 = .ok (.clauseHeader 0 0 1 0 0 0 1 1) ∧ decode 0xB7A12105 0 = .ok (.clauseHeader 1 2 1 0 1 2 0 5)
  ∧ decode 0x62050811 0 = .ok (.ldG 4 5 4 2 1) ∧ decode 0x0403060A 0 = .ok (.add 6 6 5 0) ∧ decode 0x4C1C0000 0x10000 = .ok (.lim 0 7 0x10000)
  ∧ decode 0x389860E0 0 = .ok (.cmpLt 3 6 7 0 0) ∧ decode 0xC0180000 0 = .ok (.br 3 0 0) ∧ decode 0xC0C00000 0 = .ok (.exit 0 0)

/-- A package in a sound state is in a sound state after every step: memory in its one form, and no unit in use that the variant lacks. -/
def Obligations.StepKeepsSound : Prop := ∀ (s s' : State), s.sound → step s = .next s' → s'.sound

/-- The state right after reset is sound. -/
def Obligations.ResetIsSound : Prop := State.reset.sound

/-- No state makes an instruction fault or refuse: what the spec forbids it answers with a trap, a status or silence. -/
def Obligations.EveryInstructionAnswers : Prop := ∀ (i : Instr) (s : State), ∃ s', exec i s = .next s'

/-- What a turn is: the counts advance (R22); a team that may issue and that Y does not keep back (R25) issues its late trap (R223), the header
at its PC, or the word of its open clause, as they decode; a header's first byte inside a clause makes no word (R35), and what decodes to nothing
traps. An event happens. Then failing lines and violations act. Which turn comes when is the model's choice (notes/assumptions/1.md). -/
def Obligations.StepRunsTheDecoded : Prop :=
  ∀ (s : State) (n : Nat) (rest : List Turn),
    (∀ i, s.agenda = .event n i :: rest → step s = finished (exec i ({ s with agenda := rest }.elapse (1 + n))))
    ∧ ∀ team t k, s.agenda = .issue n team :: rest →
      let s0 : State := { ({ s with agenda := rest } : State).elapse (1 + n) with cur := team }
      let traps := fun (s1 : State) (va : VA) (tr : Trap) => step s = .next (s1.takeTrap team va tr).wrapUp
      s0.current = some (t, k) → t.status = .running → t.hold = .none → s0.crewIssues k = true →
      (s0.yields team = true → step s = .next (s0.stallTeam team 17).wrapUp)
      ∧ (s0.yields team = false → ∀ tr, t.late = some tr → step s = .next (s0.suspend team tr).wrapUp)
      ∧ (s0.yields team = false → t.late = none → t.stopRoom = some 0 → step s = .next (s0.stallTeam team 11).wrapUp)
      ∧ (s0.yields team = false → t.late = none → t.stopRoom ≠ some 0 →
        (∀ c, t.clause = some c → c.issued = true →
          let w := c.words.getD c.idx 0
          let decoded := decode w (c.words.getD (c.idx + 1) 0)
          (hasMagic w = false → ∀ i, decoded = .ok i → step s = finished (exec i s0))
          ∧ (hasMagic w = true ∨ (∃ e, decoded = .error e) → traps s0 c.hdrVA (badWordTrap s0.capNet w)))
        ∧ (∀ c i, t.clause = some c → c.issued = false → decodeHeader c.hdr = .ok i → step s = finished (exec i s0))
        ∧ (t.clause = none → ∀ t1, t.refill = some t1 →
          let pc := t1.reconverge.pc
          let fetched := (s0.setTeam team t1.reconverge).fetchWord k pc
          (∀ s2 tr, fetched = (s2, .error tr) → traps (s2.violated team tr) pc tr)
          ∧ ∀ s2 w, fetched = (s2, .ok w) →
            (hasMagic w = false → traps s2 pc .illegalClause)
            ∧ (hasMagic w = true → (∀ i, decodeHeader w = .ok i → step s = finished (exec i s2))
              ∧ ∀ e, decodeHeader w = .error e →
                (∀ s3 tr, s2.fetchWords k (pc + 4) (countOf w) = (s3, .error tr) → traps (s3.violated team tr) pc tr)
                ∧ ∀ s3 ws, s2.fetchWords k (pc + 4) (countOf w) = (s3, .ok ws) → traps s3 pc .illegalClause)))

/-- R1, R2, R18: right after reset every node holds the default announcement of each holder fitted, a HOME of generation 0 in world 0 without
NOPOISON, and CAP reports what the variant has. -/
def Sys2Proof.Claims.ResetAnnouncements : Prop :=
  ∀ (v : Variant) (n : Nat), n < 16 →
    let s := State.resetOf v
    let second := v = .a ∨ v = .n
    (∀ x : Ann, x ∈ (s.node n).table ↔
      (∃ k < 8, x = { base := k * 0x1000000000, len := 16, holder := 8 + k, localBase := 0, kind := .home, gen := 0, world := 0, noPoison := false, path := [] })
      ∨ (∃ i < 8, x = { base := 0x10000000000 + i * 0x1000000, len := 28, holder := i, localBase := 0, kind := .home, gen := 0, world := 0, noPoison := false, path := [] })
      ∨ (second ∧ (x = { base := 0x80000000000, len := 10, holder := 16, localBase := 0, kind := .home, gen := 0, world := 0, noPoison := false, path := [] }
          ∨ x = { base := 0xC0000000000, len := 10, holder := 17, localBase := 0, kind := .home, gen := 0, world := 0, noPoison := false, path := [] })))
    ∧ s.cap = (match v with | .a => 0x1FF03 | .n => 0x1FF02 | .c => 0x1FF01 | .nc => 0x1FF00)

/-- What reset leaves: no work, no session, no measurement (R312), every count at 0 (R22), memory that reads 0 and belongs to world 0 (R299, R362), PSTAT 0
(R311), and world 0 in RUN with no other world created (R305). That flash counts no failed start is the model's (notes/assumptions/3.md). -/
def Sys2Proof.Claims.ResetLeaves : Prop :=
  ∀ v : Variant,
    let s := State.resetOf v
    s.teams = [] ∧ s.crews = [] ∧ s.cards = [] ∧ s.pkts = [] ∧ s.handles = [] ∧ s.agenda = []
    ∧ (∀ d, (s.die d).dcc = 0 ∧ (s.die d).silent = false) ∧ (∀ p, (s.pier p).dcc = 0 ∧ (s.pier p).silent = false ∧ (s.pier p).failedChans = [])
    ∧ (∀ h o, h < 18 → o < 2 ^ 44 → s.byteAt h o = some 0 ∧ s.ownerOf h o = 0)
    ∧ (∀ n, n < 8 → s.mr n = 0) ∧ s.pstat = 0 ∧ s.host.sessions = [] ∧ s.host.reqHead = 0 ∧ s.host.rspTail = 0
    ∧ (s.world 0).state = .run ∧ (∀ w, w ≠ 0 → s.world w = worldDefault)

/-! ## Rules stated whole -/

/-- A word that no instruction has: decoding refuses it, and it is an illegal instruction (R29 step 6) where it names no network unit (R3). -/
def Sys2Proof.Claims.noInstruction (w : Word) : Prop := ∀ (lit : Word) (net : Bool), (∃ e, decode w lit = .error e) ∧ (badWordTrap net w).cause = 0x01

/-- R125, whole: the fields of PRED, its results with the poison of every source read, p0 that reads 1 as a source and is refused as a destination,
and the encodings refused. -/
def Obligations.PredicateRule : Prop :=
  (∀ (w lit : Word), opcodeOf w = 0x10 →
    let p := fld w 19 3
    let a := fld w 16 3
    let b := fld w 13 3
    (fld w 0 13 = 0 → (fnOf w = 0 → decode w lit = .ok (.pand p a b)) ∧ (fnOf w = 1 → decode w lit = .ok (.por p a b))
      ∧ (fnOf w = 2 → decode w lit = .ok (.pxor p a b)) ∧ (fnOf w = 3 → decode w lit = .ok (.pandn p a b))
      ∧ (b = 0 → (fnOf w = 4 → decode w lit = .ok (.pnot p a)) ∧ (fnOf w = 5 → decode w lit = .ok (.pmov p a))))
    ∧ (fld w 0 13 ≠ 0 ∨ 6 ≤ fnOf w ∨ (4 ≤ fnOf w ∧ b ≠ 0) → noInstruction w))
  ∧ (∀ (t : Team) (l : Nat), t.flag 0 l = true ∧ t.flagBad 0 l = false)
  ∧ ∀ (p a b : BitVec 3) (s : State) (t : Team) (k : Crew) (c : Clause), s.Ready t k c → Mask.none (t.acting c) = false →
    (p ≠ 0 → t.landed (wordUnits a (t.acting c)) → s.writable t (wordUnits p (t.acting c)) →
      (∀ op ∈ predicateBinary, t.landed (wordUnits b (t.acting c)) →
        s.Completes (op.1 p a b) t k 1 (Mask.passes (t.acting c)) (predWrites t p (t.acting c) (fun l =>
          if t.flagBad a l ∨ t.flagBad b l then (false, true) else (op.2 (t.flag a l) (t.flag b l), false))) 0)
      ∧ ∀ op ∈ predicateUnary,
        s.Completes (op.1 p a) t k 1 (Mask.passes (t.acting c)) (predWrites t p (t.acting c) (fun l =>
          if t.flagBad a l then (false, true) else (op.2 (t.flag a l), false))) 0)
    ∧ (∀ i ∈ [Instr.pand 0 a b, .por 0 a b, .pxor 0 a b, .pandn 0 a b, .pnot 0 a, .pmov 0 a], ∃ s' t', exec i s = .next s' ∧ s.Trapped s' t t' 0x04 c.hdrVA)

/-- R287, whole: the fields of `ctok` and `tid`, what they write, whatever the mode, and the encodings refused. -/
def Obligations.CardIdentityRule : Prop :=
  (∀ (w lit : Word), opcodeOf w = 0x38 →
    (fld w 0 15 = 0 → (fnOf w = 2 → decode w lit = .ok (.ctok (fld w 15 7))) ∧ (fnOf w = 3 → decode w lit = .ok (.tid (fld w 15 7))))
    ∧ (4 ≤ fnOf w ∨ (2 ≤ fnOf w ∧ fld w 0 15 ≠ 0) → noInstruction w))
  ∧ ∀ (d : BitVec 7) (s : State) (t : Team) (k : Crew) (c : Clause) (x : Card), s.Ready t k c → Mask.none (t.acting c) = false → s.card? k.tid = some x →
    (d.toNat % 2 = 0 → s.writable t (pairUnits d) →
      s.Completes (.ctok d) t k 1 1 (pair d x.token) 0
      ∧ s.Completes (.tid d) t k 1 1 (pair d (BitVec.ofNat 64 (k.tid.toNat + 2 ^ 32 * (k.index % 2 ^ 16) + 2 ^ 48 * (t.num % 8) + 2 ^ 51 * t.role.toNat
          + 2 ^ 56 * (x.relaunches % 16)))) 0)
    ∧ (d.toNat % 2 = 1 → ∀ i ∈ [Instr.ctok d, .tid d], ∃ s' t', exec i s = .next s' ∧ s.Trapped s' t t' 0x04 c.hdrVA)

/-- R84, R85, beside their results: `ptst` parks with stall reason 2 in both modes while a word it names is pending; `pchk` and `pchks` wait for an
empty FIFO in deferring mode, and then for the words they check. -/
def Sys2Proof.Claims.PoisonTestsWait : Prop :=
  ∀ (d r : BitVec 7) (j : BitVec 5) (n : BitVec 8) (s : State) (t : Team) (k : Crew) (c : Clause),
    s.current = some (t, k) → t.clause = some c → c.issued = true → t.status = .running → t.hold = .none → t.late = none → t.stop.arm = false →
    t.stop.mode = false → Mask.none (t.acting c) = false →
    let m := t.acting c
    let unit := fun (l : BitVec 3) (m : Mask) => if l = 0 then laneUnits r m else if l = 1 then [UnitRef.uni r.toNat] else if l = 2 then wordUnits (r.setWidth 3) m
      else if l = 3 then [.acc r.toNat] else [.tile r.toNat]
    let within := fun (l : BitVec 3) => if l = 0 then r.toNat < t.vN else if l = 1 then True else if l = 2 then r.toNat < 8 else if l = 3 then r.toNat < t.aN else r.toNat < 16
    (∀ l : BitVec 3, l.toNat ≤ 4 → within l →
      ((l.toNat = 0 ∨ l.toNat = 2 ∨ j = 0) → ¬ t.landed (unit l (m.only j.toNat)) → exec (.ptst d r j l) s = .next (s.setTeam s.cur { t with stall := 2 }))
      ∧ (c.deferring = true → t.fifo ≠ [] → exec (.pchk r l) s = .next (s.setTeam s.cur { t with stall := 11 }))
      ∧ (c.deferring = false ∨ t.fifo = [] → ¬ t.landed (unit l m) → ∃ x, exec (.pchk r l) s = .next (s.setTeam s.cur { t with stall := x })))
    ∧ (n ≠ 0 → r.toNat + n.toNat ≤ 128 →
      (c.deferring = true → t.fifo ≠ [] → exec (.pchks r n) s = .next (s.setTeam s.cur { t with stall := 11 }))
      ∧ (c.deferring = false ∨ t.fifo = [] → ¬ t.landed ((List.range n.toNat).map (fun i => UnitRef.uni (r.toNat + i))) →
          ∃ x, exec (.pchks r n) s = .next (s.setTeam s.cur { t with stall := x })))

/-- R48, R78, R130: a word no lane of which acts costs a port cycle and has no effect; in normal mode one that finds an operand pending, or its
destination, waits with everything as it was. -/
def Obligations.WordsPassOrWait : Prop :=
  ∀ (d a b : BitVec 7) (u : BitVec 1) (p q x : BitVec 3) (cb : BitVec 2) (s : State) (t : Team) (k : Crew) (c : Clause), s.Ready t k c →
    let m := t.acting c
    let waits := fun (i : Instr) => ∃ r, exec i s = .next (s.setTeam s.cur { t with stall := r })
    let passes := fun (i : Instr) => ∃ s1, s.Does i s1 t (t.advance 1) k t.counter 0 [] [] 0 ∧ s1 = { s with cores := s1.cores }
      ∧ ∀ n, s1.core n = if n = k.coreKey then (s.core n).counted s.onB 1 else s.core n
    (Mask.none m = true →
      (∀ op ∈ integerBinary, passes (op.1 d a b u)) ∧ (∀ op ∈ compares, passes (op.1 p a b u cb))
      ∧ (∀ op ∈ predicateBinary, passes (op.1 p q x)) ∧ (∀ op ∈ uniformBinary, passes (op.1 d a b)))
    ∧ (Mask.none m = false → c.deferring = false →
      (t.holds [d, a] → (u = 0 → t.holds [b]) → ¬ t.landed (laneUnits a m ++ secondUnits b u m) ∨ ¬ t.landed (laneUnits d m) →
        ∀ op ∈ integerBinary, waits (op.1 d a b u))
      ∧ (p ≠ 0 → ¬ t.landed (wordUnits q m ++ wordUnits x m) ∨ ¬ t.landed (wordUnits p m) → ∀ op ∈ predicateBinary, waits (op.1 p q x))
      ∧ (¬ t.landed [.uni a.toNat, .uni b.toNat] ∨ ¬ t.landed [.uni d.toNat] → ∀ op ∈ uniformBinary, waits (op.1 d a b)))

/-! ## Statements of several claims -/

/-- Integer lane words: every acting lane gets the result, poison passes on, and nothing else changes. -/
def Obligations.IntegerResults : Prop := Claims.IntegerBinaryResults ∧ Claims.IntegerUnaryResults

/-- Compares write the acting lanes of a predicate; uniform arithmetic runs once for the team. -/
def Obligations.ComparesAndUniformWords : Prop := Claims.CompareResults ∧ Claims.UniformResults

/-- Moves, identity words and sel copy values unchanged, poison included. -/
def Obligations.MovesAndSelects : Prop := Claims.MoveResults ∧ Claims.IndexedMoveResults ∧ Claims.SelectResults

/-- Rounding to a multiple of a power of two, and the special cases of the float members. -/
def Obligations.FloatNumbers : Prop := Claims.RoundingModes ∧ Claims.FloatSpecialCases

/-- Illegal encodings, registers beyond the allotment, p0 as destination, poisoned selectors and conditions trap with no effect. -/
def Obligations.WordsThatTrap : Prop := Claims.IllegalOperandTraps ∧ Claims.PoisonedSelectorTraps ∧ Claims.PoisonedConditionTraps ∧ Claims.IllFormedWordsTrap

/-- Branches and transfers: which lanes go where, and which wait. -/
def Obligations.Branches : Prop := Claims.DirectBranches ∧ Claims.ZeroBranches ∧ Claims.PendingBranches ∧ Claims.IndirectTransfers

/-- loop starts its counter or passes over the loop, and the end word's test counts it down. -/
def Obligations.Loops : Prop := Claims.LoopStarts ∧ Claims.LoopEndTest

/-- frmode, fryld, join and exit: the turn of the groups, held lanes, lanes that end. -/
def Obligations.GroupsJoinAndExit : Prop := Claims.FrontierModeAndYield ∧ Claims.JoinHoldsAndCompletes ∧ Claims.ExitEndsLanes

/-- Global loads, stores and atomics send their requests and leave their destinations pending. -/
def Obligations.GlobalAccessesGoOut : Prop := Claims.GlobalLoadsGoOut ∧ Claims.GlobalStoresGoOut ∧ Claims.AtomicsGoOut

/-- The checks of an access come in order, and the holder is chosen by prefix, distance and number. -/
def Obligations.AccessesAreChecked : Prop := Claims.AccessChecksInOrder ∧ Claims.HolderChosenByPrefixAndDistance

/-- Scratchpad loads and stores, bytes and register words, and the tag table. -/
def Obligations.ScratchpadAndTags : Prop := Claims.BytesAndRegisterWords ∧ Claims.ScratchpadAccesses ∧ Claims.TagTableResults

/-- Quad-window loads and stores send one request for each pass and core, which reads or writes at its port. -/
def Obligations.WindowRequests : Prop := Claims.QuadWindowRequests ∧ Claims.WindowRequestAtItsPort

/-- A holder performs a request at its turn or answers why not; positions and counts keep the order. -/
def Obligations.HoldersAnswer : Prop := Claims.HoldersPerformRequests ∧ Claims.HoldersRefuseRequests ∧ Claims.PositionsAndCounts

/-- Replies reach the team's registers by generation, poison with the holder to report, and NAKs are resent. -/
def Obligations.RepliesLand : Prop := Claims.RepliesReachTheTeam ∧ Claims.LandingsWriteRegisters ∧ Claims.NaksAreResent

/-- Matrix words queue their passes; the array sums products into the accumulators. -/
def Obligations.MatrixWords : Prop := Claims.MatrixWordsQueue ∧ Claims.ArrayPassSums

/-- amov, awr, aclr, aovf, tset, tget, plnw and plnr. -/
def Obligations.AccumulatorsTilesAndPlanes : Prop := Claims.AccumulatorAndTileResults ∧ Claims.PlaneRowResults

/-- qpush, qpop, qtry, qstat and qfence. -/
def Obligations.QueueWords : Prop := Claims.QueuePushes ∧ Claims.QueueResults

/-- Copies are accepted with a promise; the engine moves the bytes and credits the barrier word. -/
def Obligations.Copies : Prop := Claims.CopiesAreAccepted ∧ Claims.CopyEngineMovesAndCredits

/-- cyc, sleepc and phase barriers: what they write, who waits, who wakes and who traps. -/
def Obligations.SleepersAndPhases : Prop := Claims.CyclesAndSleep ∧ Claims.SleepersWakeOrTrap ∧ Claims.PhaseBarrierResults ∧ Claims.PhaseWaitersWake

/-- Barrier arrivals, releases and timeouts. -/
def Obligations.HardwareBarriers : Prop := Claims.BarrierArrivals ∧ Claims.BarriersReleaseOrTimeOut

/-- Network commands queue, datagrams are served or dropped, connections recover or stop. -/
def Obligations.NetworkEngine : Prop := Claims.NetworkCommandsQueue ∧ Claims.DatagramsAreServed ∧ Claims.ConnectionsRecover

/-- Route commands queue and run; announcements spread from node to node. -/
def Obligations.RouteCommands : Prop := Claims.RouteCommandsQueue ∧ Claims.RouteCommandsRun ∧ Claims.AnnouncementsSpread

/-- Links replay and fail; lost links make piers silent or fenced, and notices spread. -/
def Obligations.LinksAndSilence : Prop := Claims.LinksReplayAndFail ∧ Claims.LostLinksAndSilence

/-- Deferring mode: words capture, entries run with what they captured, a trap discards them. -/
def Obligations.DeferringMode : Prop := Claims.DeferringModeWords ∧ Claims.PendingWordsAreCaptured ∧ Claims.HeadEntriesRun ∧ Claims.TrapsDiscardEntries

/-- ptst reads poison without consuming it; pchk and pchks trap where a checked word is poisoned; when each waits. -/
def Obligations.PoisonTestRules : Prop := Claims.PoisonTests ∧ Claims.PoisonTestsWait

/-- acqx, relx and allq change the allotment and the pool; parked requests are served in order. -/
def Obligations.Allotments : Prop := Claims.AllotmentResults ∧ Claims.ParkedRequestsAreServed

/-- post and the program queue release cards; done joins its code and stops the crew. -/
def Obligations.ReleasesAndDone : Prop := Claims.PostsReleaseCards ∧ Claims.DoneStopsTheCrew ∧ Claims.ProgramQueueReleases

/-- A crew retires when its work is acknowledged; a card completes when its crews are gone. -/
def Obligations.CardsAndCrewsEnd : Prop := Claims.CardsComplete ∧ Claims.CrewsRetireAndHoldsEnd

/-- The fields of a trap record, where it is written, and the handler card that is entered. -/
def Obligations.TrapRecords : Prop := Claims.TrapRecordFields ∧ Claims.TrapsReachTheirHandler

/-- A handler resumes, kills or relaunches what trapped; a resumed team goes on at its region entry. -/
def Obligations.TrapDecisions : Prop := Claims.DecisionsOnHandles ∧ Claims.TeamsResume

/-- A reset die or pier is silent first and returns once its announcements are withdrawn. -/
def Obligations.DieAndPierResets : Prop := Claims.DiesReset ∧ Claims.PiersReset

/-- rdsys and wrsys: every register number, who may read it and what a write changes. -/
def Obligations.SystemRegisters : Prop := Claims.SystemRegisterReads ∧ Claims.SystemRegisterWrites

/-- Samples are appended to their world's ring; sampling timers enter the sampler card. -/
def Obligations.Sampling : Prop := Claims.SamplesAreAppended ∧ Claims.SamplingTimers

/-- Doorbells move ring indices or are refused; the abutment releases or skips ring entries. -/
def Obligations.HostPort : Prop := Claims.HostRings ∧ Claims.ManagementRing

/-- Worlds are created, keyed, configured and destroyed; ranges are assigned and read zeros. -/
def Obligations.WorldConfiguration : Prop := Claims.WorldMessages ∧ Claims.RangesAreAssigned ∧ Claims.WorldsAreConfigured

/-- Interfaces lock, start and stop; stopping kills, scrubs and returns a receipt. -/
def Obligations.WorldInterfaces : Prop := Claims.InterfacesMove ∧ Claims.InterfacesStop

/-- Watch, measurement, connection, sampling and error-log messages. -/
def Obligations.ServiceMessages : Prop := Claims.WatchesAndMeasurements ∧ Claims.ConnectionMessages ∧ Claims.SamplingAndErrorLogs

/-- Boot: the failed-start count, image slots, measurements, coming into service, power loss and restart. -/
def Obligations.BootAndRestart : Prop := Claims.BootStarts ∧ Claims.StartsGoOn ∧ Claims.PackageRestarts

/-- What reset leaves: default announcements, CAP, empty memory, no work and world 0 in RUN. -/
def Obligations.ResetState : Prop := Claims.ResetAnnouncements ∧ Claims.ResetLeaves
end

