-- ==== Sys2Proof/Laws/Sparse.lean ====
section
/-! SUPPORT. Read after write, write leaves other keys alone, and the canonical form is kept, for `Machine.Table`. -/

namespace Sys2Proof.Machine

variable {α : Type} [DecidableEq α] (d : α)

/-- Read after write. -/
@[simp] theorem tget_tset_same (t : Table α) (k : Nat) (v : α) : tget d (tset d t k v) k = v := by
  induction t with
  | nil => by_cases hv : v = d <;> simp [tset, tget, hv]
  | cons e rest ih =>
    obtain ⟨j, u⟩ := e
    by_cases hv : v = d
    · by_cases hj : j = k
      · subst hv; simp only [tset, hj, if_true]; exact ih
      · simp only [tset, hv, hj, if_true, if_false, tget]; simpa [hv] using ih
    · by_cases hj : j = k
      · simp [tset, hv, hj, tget]
      · by_cases hlt : k < j
        · simp [tset, hv, hj, hlt, tget]
        · simp [tset, hv, hj, hlt, tget, ih]

/-- A write leaves every other key alone. -/
theorem tget_tset_ne (t : Table α) (k l : Nat) (v : α) (hl : l ≠ k) : tget d (tset d t k v) l = tget d t l := by
  have hkl : ¬ k = l := fun e => hl e.symm
  induction t with
  | nil => by_cases hv : v = d <;> simp [tset, tget, hv, hkl]
  | cons e rest ih =>
    obtain ⟨j, u⟩ := e
    by_cases hv : v = d
    · by_cases hj : j = k
      · simp only [tset, hv, hj, if_true, tget, hkl, if_false]; simpa [hv] using ih
      · simp only [tset, hv, hj, if_true, if_false, tget]; simp only [hv] at ih; rw [ih]
    · by_cases hj : j = k
      · simp [tset, hv, hj, tget, hkl]
      · by_cases hlt : k < j
        · simp [tset, hv, hj, hlt, tget, hkl]
        · simp [tset, hv, hj, hlt, tget, ih]

/-- Reading any key after a write. -/
theorem tget_tset (t : Table α) (k l : Nat) (v : α) : tget d (tset d t k v) l = if l = k then v else tget d t l := by
  by_cases h : l = k
  · simp [h]
  · simp [h, tget_tset_ne d t k l v h]

theorem tget_tmod (t : Table α) (k l : Nat) (f : α → α) :
    tget d (tmod d t k f) l = if l = k then f (tget d t k) else tget d t l := tget_tset d t k l _

theorem wfFrom_mono (t : Table α) (lo lo' : Nat) (h : wfFrom d lo t = true) (hl : lo' ≤ lo) : wfFrom d lo' t = true := by
  cases t with
  | nil => rfl
  | cons e rest =>
    obtain ⟨j, v⟩ := e
    simp only [wfFrom, Bool.and_eq_true, decide_eq_true_eq] at h ⊢
    exact ⟨⟨by omega, h.1.2⟩, h.2⟩

theorem wfFrom_tset (t : Table α) (lo k : Nat) (v : α) (h : wfFrom d lo t = true) (hk : lo ≤ k) :
    wfFrom d lo (tset d t k v) = true := by
  induction t generalizing lo with
  | nil =>
    by_cases hv : v = d
    · simp [tset, hv, wfFrom]
    · simp [tset, hv, wfFrom, hk]
  | cons e rest ih =>
    obtain ⟨j, u⟩ := e
    have h' := h
    simp only [wfFrom, Bool.and_eq_true, decide_eq_true_eq] at h
    obtain ⟨⟨h1, h2⟩, h3⟩ := h
    by_cases hv : v = d
    · by_cases hj : j = k
      · simp only [tset, hv, hj, if_true]
        simp only [hv] at ih
        exact ih lo (wfFrom_mono d rest _ _ h3 (by omega)) hk
      · simp only [tset, hv, hj, if_true, if_false, wfFrom, Bool.and_eq_true, decide_eq_true_eq]
        refine ⟨⟨h1, h2⟩, ?_⟩
        by_cases hlt : j + 1 ≤ k
        · simp only [hv] at ih; exact ih (j + 1) h3 hlt
        · have : wfFrom d (j + 1) (tset d rest k d) = true := wfFrom_tset_low rest (j + 1) k h3 (by omega)
          exact this
    · by_cases hj : j = k
      · simp [tset, hv, hj, wfFrom, hk]; simpa [hj] using h3
      · by_cases hlt : k < j
        · simp only [tset, hj, hlt, hv, if_true, if_false, wfFrom, Bool.and_eq_true, decide_eq_true_eq]
          exact ⟨⟨hk, hv⟩, ⟨by omega, h2⟩, h3⟩
        · simp only [tset, hj, hlt, hv, if_false, wfFrom, Bool.and_eq_true, decide_eq_true_eq]
          exact ⟨⟨h1, h2⟩, ih (j + 1) h3 (by omega)⟩
where
  wfFrom_tset_low (t : Table α) (lo k : Nat) (h : wfFrom d lo t = true) (hk : k < lo) : wfFrom d lo (tset d t k d) = true := by
    induction t generalizing lo with
    | nil => simp [tset, wfFrom]
    | cons e rest ih =>
      obtain ⟨j, u⟩ := e
      simp only [wfFrom, Bool.and_eq_true, decide_eq_true_eq] at h
      obtain ⟨⟨h1, h2⟩, h3⟩ := h
      have hj : ¬ j = k := by omega
      simp only [tset, hj, if_true, if_false, wfFrom, Bool.and_eq_true, decide_eq_true_eq]
      exact ⟨⟨h1, h2⟩, ih (j + 1) h3 (by omega)⟩

/-- Every write keeps the canonical form. -/
theorem wfTable_tset (t : Table α) (k : Nat) (v : α) (h : wfTable d t = true) : wfTable d (tset d t k v) = true :=
  wfFrom_tset d t 0 k v h (by omega)

theorem wfTable_nil : wfTable d ([] : Table α) = true := rfl

theorem wfTable_tmod (t : Table α) (k : Nat) (f : α → α) (h : wfTable d t = true) :
    wfTable d (tmod d t k f) = true := wfTable_tset d t k _ h

theorem wfTable_tsetMany (vs : List α) (t : Table α) (k : Nat) (h : wfTable d t = true) :
    wfTable d (tsetMany d t k vs) = true := by
  induction vs generalizing t k with
  | nil => exact h
  | cons v vs ih => exact ih _ _ (wfTable_tset d t k v h)

theorem wfFrom_filter (p : Nat × α → Bool) (t : Table α) (lo : Nat) (h : wfFrom d lo t = true) :
    wfFrom d lo (t.filter p) = true := by
  induction t generalizing lo with
  | nil => rfl
  | cons e rest ih =>
    obtain ⟨j, u⟩ := e
    simp only [wfFrom, Bool.and_eq_true, decide_eq_true_eq] at h
    obtain ⟨⟨h1, h2⟩, h3⟩ := h
    by_cases hp : p (j, u) = true
    · simp only [List.filter_cons, hp, if_true, wfFrom, Bool.and_eq_true, decide_eq_true_eq]
      exact ⟨⟨h1, h2⟩, ih _ h3⟩
    · simp only [List.filter_cons, hp]
      exact ih _ (wfFrom_mono d rest _ _ h3 (by omega))

theorem wfTable_tclear (t : Table α) (lo hi : Nat) (h : wfTable d t = true) : wfTable d (tclear t lo hi) = true :=
  wfFrom_filter d _ t 0 h

end Sys2Proof.Machine
end

