-- ==== Sys2Proof/Laws/State.lean ====
section
/-! SUPPORT. What every shared update leaves alone: one lemma for each field of the state and each update of it, and for each field of a
team and each update of it, so that no proof unfolds one. -/

namespace Sys2Proof.Machine

/-! ## Fields of the state -/

@[simp] theorem State.setTeam_cur (s : State) (u : Nat) (t : Team) : (s.setTeam u t).cur = s.cur := rfl
@[simp] theorem State.setTeam_agenda (s : State) (u : Nat) (t : Team) : (s.setTeam u t).agenda = s.agenda := rfl
@[simp] theorem State.setTeam_phase (s : State) (u : Nat) (t : Team) : (s.setTeam u t).phase = s.phase := rfl
@[simp] theorem State.setTeam_nextId (s : State) (u : Nat) (t : Team) : (s.setTeam u t).nextId = s.nextId := rfl
@[simp] theorem State.setTeam_free (s : State) (u : Nat) (t : Team) : (s.setTeam u t).free = s.free := rfl
@[simp] theorem State.setTeam_tagFails (s : State) (u : Nat) (t : Team) : (s.setTeam u t).tagFails = s.tagFails := rfl
@[simp] theorem State.setTeam_badWorlds (s : State) (u : Nat) (t : Team) : (s.setTeam u t).badWorlds = s.badWorlds := rfl
@[simp] theorem State.setTeam_variant (s : State) (u : Nat) (t : Team) : (s.setTeam u t).variant = s.variant := rfl
@[simp] theorem State.setTeam_capDies (s : State) (u : Nat) (t : Team) : (s.setTeam u t).capDies = s.capDies := rfl
@[simp] theorem State.setTeam_capCxl (s : State) (u : Nat) (t : Team) : (s.setTeam u t).capCxl = s.capCxl := rfl
@[simp] theorem State.setTeam_capNet (s : State) (u : Nat) (t : Team) : (s.setTeam u t).capNet = s.capNet := rfl
@[simp] theorem State.setTeam_crews (s : State) (u : Nat) (t : Team) : (s.setTeam u t).crews = s.crews := rfl
@[simp] theorem State.setTeam_cards (s : State) (u : Nat) (t : Team) : (s.setTeam u t).cards = s.cards := rfl
@[simp] theorem State.setTeam_handles (s : State) (u : Nat) (t : Team) : (s.setTeam u t).handles = s.handles := rfl
@[simp] theorem State.setTeam_dies (s : State) (u : Nat) (t : Team) : (s.setTeam u t).dies = s.dies := rfl
@[simp] theorem State.setTeam_cores (s : State) (u : Nat) (t : Team) : (s.setTeam u t).cores = s.cores := rfl
@[simp] theorem State.setTeam_copies (s : State) (u : Nat) (t : Team) : (s.setTeam u t).copies = s.copies := rfl
@[simp] theorem State.setTeam_bars (s : State) (u : Nat) (t : Team) : (s.setTeam u t).bars = s.bars := rfl
@[simp] theorem State.setTeam_mem (s : State) (u : Nat) (t : Team) : (s.setTeam u t).mem = s.mem := rfl
@[simp] theorem State.setTeam_ops (s : State) (u : Nat) (t : Team) : (s.setTeam u t).ops = s.ops := rfl
@[simp] theorem State.setTeam_lands (s : State) (u : Nat) (t : Team) : (s.setTeam u t).lands = s.lands := rfl
@[simp] theorem State.setTeam_pkts (s : State) (u : Nat) (t : Team) : (s.setTeam u t).pkts = s.pkts := rfl
@[simp] theorem State.setTeam_replies (s : State) (u : Nat) (t : Team) : (s.setTeam u t).replies = s.replies := rfl
@[simp] theorem State.setTeam_wins (s : State) (u : Nat) (t : Team) : (s.setTeam u t).wins = s.wins := rfl
@[simp] theorem State.setTeam_nodes (s : State) (u : Nat) (t : Team) : (s.setTeam u t).nodes = s.nodes := rfl
@[simp] theorem State.setTeam_holders (s : State) (u : Nat) (t : Team) : (s.setTeam u t).holders = s.holders := rfl
@[simp] theorem State.setTeam_campaigns (s : State) (u : Nat) (t : Team) : (s.setTeam u t).campaigns = s.campaigns := rfl
@[simp] theorem State.setTeam_chanJobs (s : State) (u : Nat) (t : Team) : (s.setTeam u t).chanJobs = s.chanJobs := rfl
@[simp] theorem State.setTeam_routeMsgs (s : State) (u : Nat) (t : Team) : (s.setTeam u t).routeMsgs = s.routeMsgs := rfl
@[simp] theorem State.setTeam_routeAcks (s : State) (u : Nat) (t : Team) : (s.setTeam u t).routeAcks = s.routeAcks := rfl
@[simp] theorem State.setTeam_transfers (s : State) (u : Nat) (t : Team) : (s.setTeam u t).transfers = s.transfers := rfl
@[simp] theorem State.setTeam_mirrors (s : State) (u : Nat) (t : Team) : (s.setTeam u t).mirrors = s.mirrors := rfl
@[simp] theorem State.setTeam_prepares (s : State) (u : Nat) (t : Team) : (s.setTeam u t).prepares = s.prepares := rfl
@[simp] theorem State.setTeam_prepAcks (s : State) (u : Nat) (t : Team) : (s.setTeam u t).prepAcks = s.prepAcks := rfl
@[simp] theorem State.setTeam_commits (s : State) (u : Nat) (t : Team) : (s.setTeam u t).commits = s.commits := rfl
@[simp] theorem State.setTeam_prepared (s : State) (u : Nat) (t : Team) : (s.setTeam u t).prepared = s.prepared := rfl
@[simp] theorem State.setTeam_notices (s : State) (u : Nat) (t : Team) : (s.setTeam u t).notices = s.notices := rfl
@[simp] theorem State.setTeam_links (s : State) (u : Nat) (t : Team) : (s.setTeam u t).links = s.links := rfl
@[simp] theorem State.setTeam_piers (s : State) (u : Nat) (t : Team) : (s.setTeam u t).piers = s.piers := rfl
@[simp] theorem State.setTeam_worlds (s : State) (u : Nat) (t : Team) : (s.setTeam u t).worlds = s.worlds := rfl
@[simp] theorem State.setTeam_samplings (s : State) (u : Nat) (t : Team) : (s.setTeam u t).samplings = s.samplings := rfl
@[simp] theorem State.setTeam_abutLogs (s : State) (u : Nat) (t : Team) : (s.setTeam u t).abutLogs = s.abutLogs := rfl
@[simp] theorem State.setTeam_abutDccs (s : State) (u : Nat) (t : Team) : (s.setTeam u t).abutDccs = s.abutDccs := rfl
@[simp] theorem State.setTeam_host (s : State) (u : Nat) (t : Team) : (s.setTeam u t).host = s.host := rfl
@[simp] theorem State.setTeam_net (s : State) (u : Nat) (t : Team) : (s.setTeam u t).net = s.net := rfl
@[simp] theorem State.setTeam_boot (s : State) (u : Nat) (t : Team) : (s.setTeam u t).boot = s.boot := rfl

@[simp] theorem State.modTeam_cur (s : State) (u : Nat) (f : Team → Team) : (s.modTeam u f).cur = s.cur := by unfold State.modTeam; split <;> rfl
@[simp] theorem State.modTeam_agenda (s : State) (u : Nat) (f : Team → Team) : (s.modTeam u f).agenda = s.agenda := by unfold State.modTeam; split <;> rfl
@[simp] theorem State.modTeam_phase (s : State) (u : Nat) (f : Team → Team) : (s.modTeam u f).phase = s.phase := by unfold State.modTeam; split <;> rfl
@[simp] theorem State.modTeam_nextId (s : State) (u : Nat) (f : Team → Team) : (s.modTeam u f).nextId = s.nextId := by unfold State.modTeam; split <;> rfl
@[simp] theorem State.modTeam_free (s : State) (u : Nat) (f : Team → Team) : (s.modTeam u f).free = s.free := by unfold State.modTeam; split <;> rfl
@[simp] theorem State.modTeam_tagFails (s : State) (u : Nat) (f : Team → Team) : (s.modTeam u f).tagFails = s.tagFails := by unfold State.modTeam; split <;> rfl
@[simp] theorem State.modTeam_badWorlds (s : State) (u : Nat) (f : Team → Team) : (s.modTeam u f).badWorlds = s.badWorlds := by unfold State.modTeam; split <;> rfl
@[simp] theorem State.modTeam_variant (s : State) (u : Nat) (f : Team → Team) : (s.modTeam u f).variant = s.variant := by unfold State.modTeam; split <;> rfl
@[simp] theorem State.modTeam_capDies (s : State) (u : Nat) (f : Team → Team) : (s.modTeam u f).capDies = s.capDies := by unfold State.modTeam; split <;> rfl
@[simp] theorem State.modTeam_capCxl (s : State) (u : Nat) (f : Team → Team) : (s.modTeam u f).capCxl = s.capCxl := by unfold State.modTeam; split <;> rfl
@[simp] theorem State.modTeam_capNet (s : State) (u : Nat) (f : Team → Team) : (s.modTeam u f).capNet = s.capNet := by unfold State.modTeam; split <;> rfl
@[simp] theorem State.modTeam_crews (s : State) (u : Nat) (f : Team → Team) : (s.modTeam u f).crews = s.crews := by unfold State.modTeam; split <;> rfl
@[simp] theorem State.modTeam_cards (s : State) (u : Nat) (f : Team → Team) : (s.modTeam u f).cards = s.cards := by unfold State.modTeam; split <;> rfl
@[simp] theorem State.modTeam_handles (s : State) (u : Nat) (f : Team → Team) : (s.modTeam u f).handles = s.handles := by unfold State.modTeam; split <;> rfl
@[simp] theorem State.modTeam_dies (s : State) (u : Nat) (f : Team → Team) : (s.modTeam u f).dies = s.dies := by unfold State.modTeam; split <;> rfl
@[simp] theorem State.modTeam_cores (s : State) (u : Nat) (f : Team → Team) : (s.modTeam u f).cores = s.cores := by unfold State.modTeam; split <;> rfl
@[simp] theorem State.modTeam_copies (s : State) (u : Nat) (f : Team → Team) : (s.modTeam u f).copies = s.copies := by unfold State.modTeam; split <;> rfl
@[simp] theorem State.modTeam_bars (s : State) (u : Nat) (f : Team → Team) : (s.modTeam u f).bars = s.bars := by unfold State.modTeam; split <;> rfl
@[simp] theorem State.modTeam_mem (s : State) (u : Nat) (f : Team → Team) : (s.modTeam u f).mem = s.mem := by unfold State.modTeam; split <;> rfl
@[simp] theorem State.modTeam_ops (s : State) (u : Nat) (f : Team → Team) : (s.modTeam u f).ops = s.ops := by unfold State.modTeam; split <;> rfl
@[simp] theorem State.modTeam_lands (s : State) (u : Nat) (f : Team → Team) : (s.modTeam u f).lands = s.lands := by unfold State.modTeam; split <;> rfl
@[simp] theorem State.modTeam_pkts (s : State) (u : Nat) (f : Team → Team) : (s.modTeam u f).pkts = s.pkts := by unfold State.modTeam; split <;> rfl
@[simp] theorem State.modTeam_replies (s : State) (u : Nat) (f : Team → Team) : (s.modTeam u f).replies = s.replies := by unfold State.modTeam; split <;> rfl
@[simp] theorem State.modTeam_wins (s : State) (u : Nat) (f : Team → Team) : (s.modTeam u f).wins = s.wins := by unfold State.modTeam; split <;> rfl
@[simp] theorem State.modTeam_nodes (s : State) (u : Nat) (f : Team → Team) : (s.modTeam u f).nodes = s.nodes := by unfold State.modTeam; split <;> rfl
@[simp] theorem State.modTeam_holders (s : State) (u : Nat) (f : Team → Team) : (s.modTeam u f).holders = s.holders := by unfold State.modTeam; split <;> rfl
@[simp] theorem State.modTeam_campaigns (s : State) (u : Nat) (f : Team → Team) : (s.modTeam u f).campaigns = s.campaigns := by unfold State.modTeam; split <;> rfl
@[simp] theorem State.modTeam_chanJobs (s : State) (u : Nat) (f : Team → Team) : (s.modTeam u f).chanJobs = s.chanJobs := by unfold State.modTeam; split <;> rfl
@[simp] theorem State.modTeam_routeMsgs (s : State) (u : Nat) (f : Team → Team) : (s.modTeam u f).routeMsgs = s.routeMsgs := by unfold State.modTeam; split <;> rfl
@[simp] theorem State.modTeam_routeAcks (s : State) (u : Nat) (f : Team → Team) : (s.modTeam u f).routeAcks = s.routeAcks := by unfold State.modTeam; split <;> rfl
@[simp] theorem State.modTeam_transfers (s : State) (u : Nat) (f : Team → Team) : (s.modTeam u f).transfers = s.transfers := by unfold State.modTeam; split <;> rfl
@[simp] theorem State.modTeam_mirrors (s : State) (u : Nat) (f : Team → Team) : (s.modTeam u f).mirrors = s.mirrors := by unfold State.modTeam; split <;> rfl
@[simp] theorem State.modTeam_prepares (s : State) (u : Nat) (f : Team → Team) : (s.modTeam u f).prepares = s.prepares := by unfold State.modTeam; split <;> rfl
@[simp] theorem State.modTeam_prepAcks (s : State) (u : Nat) (f : Team → Team) : (s.modTeam u f).prepAcks = s.prepAcks := by unfold State.modTeam; split <;> rfl
@[simp] theorem State.modTeam_commits (s : State) (u : Nat) (f : Team → Team) : (s.modTeam u f).commits = s.commits := by unfold State.modTeam; split <;> rfl
@[simp] theorem State.modTeam_prepared (s : State) (u : Nat) (f : Team → Team) : (s.modTeam u f).prepared = s.prepared := by unfold State.modTeam; split <;> rfl
@[simp] theorem State.modTeam_notices (s : State) (u : Nat) (f : Team → Team) : (s.modTeam u f).notices = s.notices := by unfold State.modTeam; split <;> rfl
@[simp] theorem State.modTeam_links (s : State) (u : Nat) (f : Team → Team) : (s.modTeam u f).links = s.links := by unfold State.modTeam; split <;> rfl
@[simp] theorem State.modTeam_piers (s : State) (u : Nat) (f : Team → Team) : (s.modTeam u f).piers = s.piers := by unfold State.modTeam; split <;> rfl
@[simp] theorem State.modTeam_worlds (s : State) (u : Nat) (f : Team → Team) : (s.modTeam u f).worlds = s.worlds := by unfold State.modTeam; split <;> rfl
@[simp] theorem State.modTeam_samplings (s : State) (u : Nat) (f : Team → Team) : (s.modTeam u f).samplings = s.samplings := by unfold State.modTeam; split <;> rfl
@[simp] theorem State.modTeam_abutLogs (s : State) (u : Nat) (f : Team → Team) : (s.modTeam u f).abutLogs = s.abutLogs := by unfold State.modTeam; split <;> rfl
@[simp] theorem State.modTeam_abutDccs (s : State) (u : Nat) (f : Team → Team) : (s.modTeam u f).abutDccs = s.abutDccs := by unfold State.modTeam; split <;> rfl
@[simp] theorem State.modTeam_host (s : State) (u : Nat) (f : Team → Team) : (s.modTeam u f).host = s.host := by unfold State.modTeam; split <;> rfl
@[simp] theorem State.modTeam_net (s : State) (u : Nat) (f : Team → Team) : (s.modTeam u f).net = s.net := by unfold State.modTeam; split <;> rfl
@[simp] theorem State.modTeam_boot (s : State) (u : Nat) (f : Team → Team) : (s.modTeam u f).boot = s.boot := by unfold State.modTeam; split <;> rfl

@[simp] theorem State.setCrew_cur (s : State) (u : Nat) (k : Crew) : (s.setCrew u k).cur = s.cur := rfl
@[simp] theorem State.setCrew_agenda (s : State) (u : Nat) (k : Crew) : (s.setCrew u k).agenda = s.agenda := rfl
@[simp] theorem State.setCrew_phase (s : State) (u : Nat) (k : Crew) : (s.setCrew u k).phase = s.phase := rfl
@[simp] theorem State.setCrew_nextId (s : State) (u : Nat) (k : Crew) : (s.setCrew u k).nextId = s.nextId := rfl
@[simp] theorem State.setCrew_free (s : State) (u : Nat) (k : Crew) : (s.setCrew u k).free = s.free := rfl
@[simp] theorem State.setCrew_tagFails (s : State) (u : Nat) (k : Crew) : (s.setCrew u k).tagFails = s.tagFails := rfl
@[simp] theorem State.setCrew_badWorlds (s : State) (u : Nat) (k : Crew) : (s.setCrew u k).badWorlds = s.badWorlds := rfl
@[simp] theorem State.setCrew_variant (s : State) (u : Nat) (k : Crew) : (s.setCrew u k).variant = s.variant := rfl
@[simp] theorem State.setCrew_capDies (s : State) (u : Nat) (k : Crew) : (s.setCrew u k).capDies = s.capDies := rfl
@[simp] theorem State.setCrew_capCxl (s : State) (u : Nat) (k : Crew) : (s.setCrew u k).capCxl = s.capCxl := rfl
@[simp] theorem State.setCrew_capNet (s : State) (u : Nat) (k : Crew) : (s.setCrew u k).capNet = s.capNet := rfl
@[simp] theorem State.setCrew_teams (s : State) (u : Nat) (k : Crew) : (s.setCrew u k).teams = s.teams := rfl
@[simp] theorem State.setCrew_cards (s : State) (u : Nat) (k : Crew) : (s.setCrew u k).cards = s.cards := rfl
@[simp] theorem State.setCrew_handles (s : State) (u : Nat) (k : Crew) : (s.setCrew u k).handles = s.handles := rfl
@[simp] theorem State.setCrew_dies (s : State) (u : Nat) (k : Crew) : (s.setCrew u k).dies = s.dies := rfl
@[simp] theorem State.setCrew_cores (s : State) (u : Nat) (k : Crew) : (s.setCrew u k).cores = s.cores := rfl
@[simp] theorem State.setCrew_copies (s : State) (u : Nat) (k : Crew) : (s.setCrew u k).copies = s.copies := rfl
@[simp] theorem State.setCrew_bars (s : State) (u : Nat) (k : Crew) : (s.setCrew u k).bars = s.bars := rfl
@[simp] theorem State.setCrew_mem (s : State) (u : Nat) (k : Crew) : (s.setCrew u k).mem = s.mem := rfl
@[simp] theorem State.setCrew_ops (s : State) (u : Nat) (k : Crew) : (s.setCrew u k).ops = s.ops := rfl
@[simp] theorem State.setCrew_lands (s : State) (u : Nat) (k : Crew) : (s.setCrew u k).lands = s.lands := rfl
@[simp] theorem State.setCrew_pkts (s : State) (u : Nat) (k : Crew) : (s.setCrew u k).pkts = s.pkts := rfl
@[simp] theorem State.setCrew_replies (s : State) (u : Nat) (k : Crew) : (s.setCrew u k).replies = s.replies := rfl
@[simp] theorem State.setCrew_wins (s : State) (u : Nat) (k : Crew) : (s.setCrew u k).wins = s.wins := rfl
@[simp] theorem State.setCrew_nodes (s : State) (u : Nat) (k : Crew) : (s.setCrew u k).nodes = s.nodes := rfl
@[simp] theorem State.setCrew_holders (s : State) (u : Nat) (k : Crew) : (s.setCrew u k).holders = s.holders := rfl
@[simp] theorem State.setCrew_campaigns (s : State) (u : Nat) (k : Crew) : (s.setCrew u k).campaigns = s.campaigns := rfl
@[simp] theorem State.setCrew_chanJobs (s : State) (u : Nat) (k : Crew) : (s.setCrew u k).chanJobs = s.chanJobs := rfl
@[simp] theorem State.setCrew_routeMsgs (s : State) (u : Nat) (k : Crew) : (s.setCrew u k).routeMsgs = s.routeMsgs := rfl
@[simp] theorem State.setCrew_routeAcks (s : State) (u : Nat) (k : Crew) : (s.setCrew u k).routeAcks = s.routeAcks := rfl
@[simp] theorem State.setCrew_transfers (s : State) (u : Nat) (k : Crew) : (s.setCrew u k).transfers = s.transfers := rfl
@[simp] theorem State.setCrew_mirrors (s : State) (u : Nat) (k : Crew) : (s.setCrew u k).mirrors = s.mirrors := rfl
@[simp] theorem State.setCrew_prepares (s : State) (u : Nat) (k : Crew) : (s.setCrew u k).prepares = s.prepares := rfl
@[simp] theorem State.setCrew_prepAcks (s : State) (u : Nat) (k : Crew) : (s.setCrew u k).prepAcks = s.prepAcks := rfl
@[simp] theorem State.setCrew_commits (s : State) (u : Nat) (k : Crew) : (s.setCrew u k).commits = s.commits := rfl
@[simp] theorem State.setCrew_prepared (s : State) (u : Nat) (k : Crew) : (s.setCrew u k).prepared = s.prepared := rfl
@[simp] theorem State.setCrew_notices (s : State) (u : Nat) (k : Crew) : (s.setCrew u k).notices = s.notices := rfl
@[simp] theorem State.setCrew_links (s : State) (u : Nat) (k : Crew) : (s.setCrew u k).links = s.links := rfl
@[simp] theorem State.setCrew_piers (s : State) (u : Nat) (k : Crew) : (s.setCrew u k).piers = s.piers := rfl
@[simp] theorem State.setCrew_worlds (s : State) (u : Nat) (k : Crew) : (s.setCrew u k).worlds = s.worlds := rfl
@[simp] theorem State.setCrew_samplings (s : State) (u : Nat) (k : Crew) : (s.setCrew u k).samplings = s.samplings := rfl
@[simp] theorem State.setCrew_abutLogs (s : State) (u : Nat) (k : Crew) : (s.setCrew u k).abutLogs = s.abutLogs := rfl
@[simp] theorem State.setCrew_abutDccs (s : State) (u : Nat) (k : Crew) : (s.setCrew u k).abutDccs = s.abutDccs := rfl
@[simp] theorem State.setCrew_host (s : State) (u : Nat) (k : Crew) : (s.setCrew u k).host = s.host := rfl
@[simp] theorem State.setCrew_net (s : State) (u : Nat) (k : Crew) : (s.setCrew u k).net = s.net := rfl
@[simp] theorem State.setCrew_boot (s : State) (u : Nat) (k : Crew) : (s.setCrew u k).boot = s.boot := rfl

@[simp] theorem State.modCrew_cur (s : State) (u : Nat) (f : Crew → Crew) : (s.modCrew u f).cur = s.cur := by unfold State.modCrew; split <;> rfl
@[simp] theorem State.modCrew_agenda (s : State) (u : Nat) (f : Crew → Crew) : (s.modCrew u f).agenda = s.agenda := by unfold State.modCrew; split <;> rfl
@[simp] theorem State.modCrew_phase (s : State) (u : Nat) (f : Crew → Crew) : (s.modCrew u f).phase = s.phase := by unfold State.modCrew; split <;> rfl
@[simp] theorem State.modCrew_nextId (s : State) (u : Nat) (f : Crew → Crew) : (s.modCrew u f).nextId = s.nextId := by unfold State.modCrew; split <;> rfl
@[simp] theorem State.modCrew_free (s : State) (u : Nat) (f : Crew → Crew) : (s.modCrew u f).free = s.free := by unfold State.modCrew; split <;> rfl
@[simp] theorem State.modCrew_tagFails (s : State) (u : Nat) (f : Crew → Crew) : (s.modCrew u f).tagFails = s.tagFails := by unfold State.modCrew; split <;> rfl
@[simp] theorem State.modCrew_badWorlds (s : State) (u : Nat) (f : Crew → Crew) : (s.modCrew u f).badWorlds = s.badWorlds := by unfold State.modCrew; split <;> rfl
@[simp] theorem State.modCrew_variant (s : State) (u : Nat) (f : Crew → Crew) : (s.modCrew u f).variant = s.variant := by unfold State.modCrew; split <;> rfl
@[simp] theorem State.modCrew_capDies (s : State) (u : Nat) (f : Crew → Crew) : (s.modCrew u f).capDies = s.capDies := by unfold State.modCrew; split <;> rfl
@[simp] theorem State.modCrew_capCxl (s : State) (u : Nat) (f : Crew → Crew) : (s.modCrew u f).capCxl = s.capCxl := by unfold State.modCrew; split <;> rfl
@[simp] theorem State.modCrew_capNet (s : State) (u : Nat) (f : Crew → Crew) : (s.modCrew u f).capNet = s.capNet := by unfold State.modCrew; split <;> rfl
@[simp] theorem State.modCrew_teams (s : State) (u : Nat) (f : Crew → Crew) : (s.modCrew u f).teams = s.teams := by unfold State.modCrew; split <;> rfl
@[simp] theorem State.modCrew_cards (s : State) (u : Nat) (f : Crew → Crew) : (s.modCrew u f).cards = s.cards := by unfold State.modCrew; split <;> rfl
@[simp] theorem State.modCrew_handles (s : State) (u : Nat) (f : Crew → Crew) : (s.modCrew u f).handles = s.handles := by unfold State.modCrew; split <;> rfl
@[simp] theorem State.modCrew_dies (s : State) (u : Nat) (f : Crew → Crew) : (s.modCrew u f).dies = s.dies := by unfold State.modCrew; split <;> rfl
@[simp] theorem State.modCrew_cores (s : State) (u : Nat) (f : Crew → Crew) : (s.modCrew u f).cores = s.cores := by unfold State.modCrew; split <;> rfl
@[simp] theorem State.modCrew_copies (s : State) (u : Nat) (f : Crew → Crew) : (s.modCrew u f).copies = s.copies := by unfold State.modCrew; split <;> rfl
@[simp] theorem State.modCrew_bars (s : State) (u : Nat) (f : Crew → Crew) : (s.modCrew u f).bars = s.bars := by unfold State.modCrew; split <;> rfl
@[simp] theorem State.modCrew_mem (s : State) (u : Nat) (f : Crew → Crew) : (s.modCrew u f).mem = s.mem := by unfold State.modCrew; split <;> rfl
@[simp] theorem State.modCrew_ops (s : State) (u : Nat) (f : Crew → Crew) : (s.modCrew u f).ops = s.ops := by unfold State.modCrew; split <;> rfl
@[simp] theorem State.modCrew_lands (s : State) (u : Nat) (f : Crew → Crew) : (s.modCrew u f).lands = s.lands := by unfold State.modCrew; split <;> rfl
@[simp] theorem State.modCrew_pkts (s : State) (u : Nat) (f : Crew → Crew) : (s.modCrew u f).pkts = s.pkts := by unfold State.modCrew; split <;> rfl
@[simp] theorem State.modCrew_replies (s : State) (u : Nat) (f : Crew → Crew) : (s.modCrew u f).replies = s.replies := by unfold State.modCrew; split <;> rfl
@[simp] theorem State.modCrew_wins (s : State) (u : Nat) (f : Crew → Crew) : (s.modCrew u f).wins = s.wins := by unfold State.modCrew; split <;> rfl
@[simp] theorem State.modCrew_nodes (s : State) (u : Nat) (f : Crew → Crew) : (s.modCrew u f).nodes = s.nodes := by unfold State.modCrew; split <;> rfl
@[simp] theorem State.modCrew_holders (s : State) (u : Nat) (f : Crew → Crew) : (s.modCrew u f).holders = s.holders := by unfold State.modCrew; split <;> rfl
@[simp] theorem State.modCrew_campaigns (s : State) (u : Nat) (f : Crew → Crew) : (s.modCrew u f).campaigns = s.campaigns := by unfold State.modCrew; split <;> rfl
@[simp] theorem State.modCrew_chanJobs (s : State) (u : Nat) (f : Crew → Crew) : (s.modCrew u f).chanJobs = s.chanJobs := by unfold State.modCrew; split <;> rfl
@[simp] theorem State.modCrew_routeMsgs (s : State) (u : Nat) (f : Crew → Crew) : (s.modCrew u f).routeMsgs = s.routeMsgs := by unfold State.modCrew; split <;> rfl
@[simp] theorem State.modCrew_routeAcks (s : State) (u : Nat) (f : Crew → Crew) : (s.modCrew u f).routeAcks = s.routeAcks := by unfold State.modCrew; split <;> rfl
@[simp] theorem State.modCrew_transfers (s : State) (u : Nat) (f : Crew → Crew) : (s.modCrew u f).transfers = s.transfers := by unfold State.modCrew; split <;> rfl
@[simp] theorem State.modCrew_mirrors (s : State) (u : Nat) (f : Crew → Crew) : (s.modCrew u f).mirrors = s.mirrors := by unfold State.modCrew; split <;> rfl
@[simp] theorem State.modCrew_prepares (s : State) (u : Nat) (f : Crew → Crew) : (s.modCrew u f).prepares = s.prepares := by unfold State.modCrew; split <;> rfl
@[simp] theorem State.modCrew_prepAcks (s : State) (u : Nat) (f : Crew → Crew) : (s.modCrew u f).prepAcks = s.prepAcks := by unfold State.modCrew; split <;> rfl
@[simp] theorem State.modCrew_commits (s : State) (u : Nat) (f : Crew → Crew) : (s.modCrew u f).commits = s.commits := by unfold State.modCrew; split <;> rfl
@[simp] theorem State.modCrew_prepared (s : State) (u : Nat) (f : Crew → Crew) : (s.modCrew u f).prepared = s.prepared := by unfold State.modCrew; split <;> rfl
@[simp] theorem State.modCrew_notices (s : State) (u : Nat) (f : Crew → Crew) : (s.modCrew u f).notices = s.notices := by unfold State.modCrew; split <;> rfl
@[simp] theorem State.modCrew_links (s : State) (u : Nat) (f : Crew → Crew) : (s.modCrew u f).links = s.links := by unfold State.modCrew; split <;> rfl
@[simp] theorem State.modCrew_piers (s : State) (u : Nat) (f : Crew → Crew) : (s.modCrew u f).piers = s.piers := by unfold State.modCrew; split <;> rfl
@[simp] theorem State.modCrew_worlds (s : State) (u : Nat) (f : Crew → Crew) : (s.modCrew u f).worlds = s.worlds := by unfold State.modCrew; split <;> rfl
@[simp] theorem State.modCrew_samplings (s : State) (u : Nat) (f : Crew → Crew) : (s.modCrew u f).samplings = s.samplings := by unfold State.modCrew; split <;> rfl
@[simp] theorem State.modCrew_abutLogs (s : State) (u : Nat) (f : Crew → Crew) : (s.modCrew u f).abutLogs = s.abutLogs := by unfold State.modCrew; split <;> rfl
@[simp] theorem State.modCrew_abutDccs (s : State) (u : Nat) (f : Crew → Crew) : (s.modCrew u f).abutDccs = s.abutDccs := by unfold State.modCrew; split <;> rfl
@[simp] theorem State.modCrew_host (s : State) (u : Nat) (f : Crew → Crew) : (s.modCrew u f).host = s.host := by unfold State.modCrew; split <;> rfl
@[simp] theorem State.modCrew_net (s : State) (u : Nat) (f : Crew → Crew) : (s.modCrew u f).net = s.net := by unfold State.modCrew; split <;> rfl
@[simp] theorem State.modCrew_boot (s : State) (u : Nat) (f : Crew → Crew) : (s.modCrew u f).boot = s.boot := by unfold State.modCrew; split <;> rfl

@[simp] theorem State.modDie_cur (s : State) (d : Nat) (f : Die → Die) : (s.modDie d f).cur = s.cur := rfl
@[simp] theorem State.modDie_agenda (s : State) (d : Nat) (f : Die → Die) : (s.modDie d f).agenda = s.agenda := rfl
@[simp] theorem State.modDie_phase (s : State) (d : Nat) (f : Die → Die) : (s.modDie d f).phase = s.phase := rfl
@[simp] theorem State.modDie_nextId (s : State) (d : Nat) (f : Die → Die) : (s.modDie d f).nextId = s.nextId := rfl
@[simp] theorem State.modDie_free (s : State) (d : Nat) (f : Die → Die) : (s.modDie d f).free = s.free := rfl
@[simp] theorem State.modDie_tagFails (s : State) (d : Nat) (f : Die → Die) : (s.modDie d f).tagFails = s.tagFails := rfl
@[simp] theorem State.modDie_badWorlds (s : State) (d : Nat) (f : Die → Die) : (s.modDie d f).badWorlds = s.badWorlds := rfl
@[simp] theorem State.modDie_variant (s : State) (d : Nat) (f : Die → Die) : (s.modDie d f).variant = s.variant := rfl
@[simp] theorem State.modDie_capDies (s : State) (d : Nat) (f : Die → Die) : (s.modDie d f).capDies = s.capDies := rfl
@[simp] theorem State.modDie_capCxl (s : State) (d : Nat) (f : Die → Die) : (s.modDie d f).capCxl = s.capCxl := rfl
@[simp] theorem State.modDie_capNet (s : State) (d : Nat) (f : Die → Die) : (s.modDie d f).capNet = s.capNet := rfl
@[simp] theorem State.modDie_teams (s : State) (d : Nat) (f : Die → Die) : (s.modDie d f).teams = s.teams := rfl
@[simp] theorem State.modDie_crews (s : State) (d : Nat) (f : Die → Die) : (s.modDie d f).crews = s.crews := rfl
@[simp] theorem State.modDie_cards (s : State) (d : Nat) (f : Die → Die) : (s.modDie d f).cards = s.cards := rfl
@[simp] theorem State.modDie_handles (s : State) (d : Nat) (f : Die → Die) : (s.modDie d f).handles = s.handles := rfl
@[simp] theorem State.modDie_cores (s : State) (d : Nat) (f : Die → Die) : (s.modDie d f).cores = s.cores := rfl
@[simp] theorem State.modDie_copies (s : State) (d : Nat) (f : Die → Die) : (s.modDie d f).copies = s.copies := rfl
@[simp] theorem State.modDie_bars (s : State) (d : Nat) (f : Die → Die) : (s.modDie d f).bars = s.bars := rfl
@[simp] theorem State.modDie_mem (s : State) (d : Nat) (f : Die → Die) : (s.modDie d f).mem = s.mem := rfl
@[simp] theorem State.modDie_ops (s : State) (d : Nat) (f : Die → Die) : (s.modDie d f).ops = s.ops := rfl
@[simp] theorem State.modDie_lands (s : State) (d : Nat) (f : Die → Die) : (s.modDie d f).lands = s.lands := rfl
@[simp] theorem State.modDie_pkts (s : State) (d : Nat) (f : Die → Die) : (s.modDie d f).pkts = s.pkts := rfl
@[simp] theorem State.modDie_replies (s : State) (d : Nat) (f : Die → Die) : (s.modDie d f).replies = s.replies := rfl
@[simp] theorem State.modDie_wins (s : State) (d : Nat) (f : Die → Die) : (s.modDie d f).wins = s.wins := rfl
@[simp] theorem State.modDie_nodes (s : State) (d : Nat) (f : Die → Die) : (s.modDie d f).nodes = s.nodes := rfl
@[simp] theorem State.modDie_holders (s : State) (d : Nat) (f : Die → Die) : (s.modDie d f).holders = s.holders := rfl
@[simp] theorem State.modDie_campaigns (s : State) (d : Nat) (f : Die → Die) : (s.modDie d f).campaigns = s.campaigns := rfl
@[simp] theorem State.modDie_chanJobs (s : State) (d : Nat) (f : Die → Die) : (s.modDie d f).chanJobs = s.chanJobs := rfl
@[simp] theorem State.modDie_routeMsgs (s : State) (d : Nat) (f : Die → Die) : (s.modDie d f).routeMsgs = s.routeMsgs := rfl
@[simp] theorem State.modDie_routeAcks (s : State) (d : Nat) (f : Die → Die) : (s.modDie d f).routeAcks = s.routeAcks := rfl
@[simp] theorem State.modDie_transfers (s : State) (d : Nat) (f : Die → Die) : (s.modDie d f).transfers = s.transfers := rfl
@[simp] theorem State.modDie_mirrors (s : State) (d : Nat) (f : Die → Die) : (s.modDie d f).mirrors = s.mirrors := rfl
@[simp] theorem State.modDie_prepares (s : State) (d : Nat) (f : Die → Die) : (s.modDie d f).prepares = s.prepares := rfl
@[simp] theorem State.modDie_prepAcks (s : State) (d : Nat) (f : Die → Die) : (s.modDie d f).prepAcks = s.prepAcks := rfl
@[simp] theorem State.modDie_commits (s : State) (d : Nat) (f : Die → Die) : (s.modDie d f).commits = s.commits := rfl
@[simp] theorem State.modDie_prepared (s : State) (d : Nat) (f : Die → Die) : (s.modDie d f).prepared = s.prepared := rfl
@[simp] theorem State.modDie_notices (s : State) (d : Nat) (f : Die → Die) : (s.modDie d f).notices = s.notices := rfl
@[simp] theorem State.modDie_links (s : State) (d : Nat) (f : Die → Die) : (s.modDie d f).links = s.links := rfl
@[simp] theorem State.modDie_piers (s : State) (d : Nat) (f : Die → Die) : (s.modDie d f).piers = s.piers := rfl
@[simp] theorem State.modDie_worlds (s : State) (d : Nat) (f : Die → Die) : (s.modDie d f).worlds = s.worlds := rfl
@[simp] theorem State.modDie_samplings (s : State) (d : Nat) (f : Die → Die) : (s.modDie d f).samplings = s.samplings := rfl
@[simp] theorem State.modDie_abutLogs (s : State) (d : Nat) (f : Die → Die) : (s.modDie d f).abutLogs = s.abutLogs := rfl
@[simp] theorem State.modDie_abutDccs (s : State) (d : Nat) (f : Die → Die) : (s.modDie d f).abutDccs = s.abutDccs := rfl
@[simp] theorem State.modDie_host (s : State) (d : Nat) (f : Die → Die) : (s.modDie d f).host = s.host := rfl
@[simp] theorem State.modDie_net (s : State) (d : Nat) (f : Die → Die) : (s.modDie d f).net = s.net := rfl
@[simp] theorem State.modDie_boot (s : State) (d : Nat) (f : Die → Die) : (s.modDie d f).boot = s.boot := rfl

@[simp] theorem State.modCore_cur (s : State) (k : Nat) (f : CoreSt → CoreSt) : (s.modCore k f).cur = s.cur := rfl
@[simp] theorem State.modCore_agenda (s : State) (k : Nat) (f : CoreSt → CoreSt) : (s.modCore k f).agenda = s.agenda := rfl
@[simp] theorem State.modCore_phase (s : State) (k : Nat) (f : CoreSt → CoreSt) : (s.modCore k f).phase = s.phase := rfl
@[simp] theorem State.modCore_nextId (s : State) (k : Nat) (f : CoreSt → CoreSt) : (s.modCore k f).nextId = s.nextId := rfl
@[simp] theorem State.modCore_free (s : State) (k : Nat) (f : CoreSt → CoreSt) : (s.modCore k f).free = s.free := rfl
@[simp] theorem State.modCore_tagFails (s : State) (k : Nat) (f : CoreSt → CoreSt) : (s.modCore k f).tagFails = s.tagFails := rfl
@[simp] theorem State.modCore_badWorlds (s : State) (k : Nat) (f : CoreSt → CoreSt) : (s.modCore k f).badWorlds = s.badWorlds := rfl
@[simp] theorem State.modCore_variant (s : State) (k : Nat) (f : CoreSt → CoreSt) : (s.modCore k f).variant = s.variant := rfl
@[simp] theorem State.modCore_capDies (s : State) (k : Nat) (f : CoreSt → CoreSt) : (s.modCore k f).capDies = s.capDies := rfl
@[simp] theorem State.modCore_capCxl (s : State) (k : Nat) (f : CoreSt → CoreSt) : (s.modCore k f).capCxl = s.capCxl := rfl
@[simp] theorem State.modCore_capNet (s : State) (k : Nat) (f : CoreSt → CoreSt) : (s.modCore k f).capNet = s.capNet := rfl
@[simp] theorem State.modCore_teams (s : State) (k : Nat) (f : CoreSt → CoreSt) : (s.modCore k f).teams = s.teams := rfl
@[simp] theorem State.modCore_crews (s : State) (k : Nat) (f : CoreSt → CoreSt) : (s.modCore k f).crews = s.crews := rfl
@[simp] theorem State.modCore_cards (s : State) (k : Nat) (f : CoreSt → CoreSt) : (s.modCore k f).cards = s.cards := rfl
@[simp] theorem State.modCore_handles (s : State) (k : Nat) (f : CoreSt → CoreSt) : (s.modCore k f).handles = s.handles := rfl
@[simp] theorem State.modCore_dies (s : State) (k : Nat) (f : CoreSt → CoreSt) : (s.modCore k f).dies = s.dies := rfl
@[simp] theorem State.modCore_copies (s : State) (k : Nat) (f : CoreSt → CoreSt) : (s.modCore k f).copies = s.copies := rfl
@[simp] theorem State.modCore_bars (s : State) (k : Nat) (f : CoreSt → CoreSt) : (s.modCore k f).bars = s.bars := rfl
@[simp] theorem State.modCore_mem (s : State) (k : Nat) (f : CoreSt → CoreSt) : (s.modCore k f).mem = s.mem := rfl
@[simp] theorem State.modCore_ops (s : State) (k : Nat) (f : CoreSt → CoreSt) : (s.modCore k f).ops = s.ops := rfl
@[simp] theorem State.modCore_lands (s : State) (k : Nat) (f : CoreSt → CoreSt) : (s.modCore k f).lands = s.lands := rfl
@[simp] theorem State.modCore_pkts (s : State) (k : Nat) (f : CoreSt → CoreSt) : (s.modCore k f).pkts = s.pkts := rfl
@[simp] theorem State.modCore_replies (s : State) (k : Nat) (f : CoreSt → CoreSt) : (s.modCore k f).replies = s.replies := rfl
@[simp] theorem State.modCore_wins (s : State) (k : Nat) (f : CoreSt → CoreSt) : (s.modCore k f).wins = s.wins := rfl
@[simp] theorem State.modCore_nodes (s : State) (k : Nat) (f : CoreSt → CoreSt) : (s.modCore k f).nodes = s.nodes := rfl
@[simp] theorem State.modCore_holders (s : State) (k : Nat) (f : CoreSt → CoreSt) : (s.modCore k f).holders = s.holders := rfl
@[simp] theorem State.modCore_campaigns (s : State) (k : Nat) (f : CoreSt → CoreSt) : (s.modCore k f).campaigns = s.campaigns := rfl
@[simp] theorem State.modCore_chanJobs (s : State) (k : Nat) (f : CoreSt → CoreSt) : (s.modCore k f).chanJobs = s.chanJobs := rfl
@[simp] theorem State.modCore_routeMsgs (s : State) (k : Nat) (f : CoreSt → CoreSt) : (s.modCore k f).routeMsgs = s.routeMsgs := rfl
@[simp] theorem State.modCore_routeAcks (s : State) (k : Nat) (f : CoreSt → CoreSt) : (s.modCore k f).routeAcks = s.routeAcks := rfl
@[simp] theorem State.modCore_transfers (s : State) (k : Nat) (f : CoreSt → CoreSt) : (s.modCore k f).transfers = s.transfers := rfl
@[simp] theorem State.modCore_mirrors (s : State) (k : Nat) (f : CoreSt → CoreSt) : (s.modCore k f).mirrors = s.mirrors := rfl
@[simp] theorem State.modCore_prepares (s : State) (k : Nat) (f : CoreSt → CoreSt) : (s.modCore k f).prepares = s.prepares := rfl
@[simp] theorem State.modCore_prepAcks (s : State) (k : Nat) (f : CoreSt → CoreSt) : (s.modCore k f).prepAcks = s.prepAcks := rfl
@[simp] theorem State.modCore_commits (s : State) (k : Nat) (f : CoreSt → CoreSt) : (s.modCore k f).commits = s.commits := rfl
@[simp] theorem State.modCore_prepared (s : State) (k : Nat) (f : CoreSt → CoreSt) : (s.modCore k f).prepared = s.prepared := rfl
@[simp] theorem State.modCore_notices (s : State) (k : Nat) (f : CoreSt → CoreSt) : (s.modCore k f).notices = s.notices := rfl
@[simp] theorem State.modCore_links (s : State) (k : Nat) (f : CoreSt → CoreSt) : (s.modCore k f).links = s.links := rfl
@[simp] theorem State.modCore_piers (s : State) (k : Nat) (f : CoreSt → CoreSt) : (s.modCore k f).piers = s.piers := rfl
@[simp] theorem State.modCore_worlds (s : State) (k : Nat) (f : CoreSt → CoreSt) : (s.modCore k f).worlds = s.worlds := rfl
@[simp] theorem State.modCore_samplings (s : State) (k : Nat) (f : CoreSt → CoreSt) : (s.modCore k f).samplings = s.samplings := rfl
@[simp] theorem State.modCore_abutLogs (s : State) (k : Nat) (f : CoreSt → CoreSt) : (s.modCore k f).abutLogs = s.abutLogs := rfl
@[simp] theorem State.modCore_abutDccs (s : State) (k : Nat) (f : CoreSt → CoreSt) : (s.modCore k f).abutDccs = s.abutDccs := rfl
@[simp] theorem State.modCore_host (s : State) (k : Nat) (f : CoreSt → CoreSt) : (s.modCore k f).host = s.host := rfl
@[simp] theorem State.modCore_net (s : State) (k : Nat) (f : CoreSt → CoreSt) : (s.modCore k f).net = s.net := rfl
@[simp] theorem State.modCore_boot (s : State) (k : Nat) (f : CoreSt → CoreSt) : (s.modCore k f).boot = s.boot := rfl

@[simp] theorem State.modWorld_cur (s : State) (w : Nat) (f : World → World) : (s.modWorld w f).cur = s.cur := rfl
@[simp] theorem State.modWorld_agenda (s : State) (w : Nat) (f : World → World) : (s.modWorld w f).agenda = s.agenda := rfl
@[simp] theorem State.modWorld_phase (s : State) (w : Nat) (f : World → World) : (s.modWorld w f).phase = s.phase := rfl
@[simp] theorem State.modWorld_nextId (s : State) (w : Nat) (f : World → World) : (s.modWorld w f).nextId = s.nextId := rfl
@[simp] theorem State.modWorld_free (s : State) (w : Nat) (f : World → World) : (s.modWorld w f).free = s.free := rfl
@[simp] theorem State.modWorld_tagFails (s : State) (w : Nat) (f : World → World) : (s.modWorld w f).tagFails = s.tagFails := rfl
@[simp] theorem State.modWorld_badWorlds (s : State) (w : Nat) (f : World → World) : (s.modWorld w f).badWorlds = s.badWorlds := rfl
@[simp] theorem State.modWorld_variant (s : State) (w : Nat) (f : World → World) : (s.modWorld w f).variant = s.variant := rfl
@[simp] theorem State.modWorld_capDies (s : State) (w : Nat) (f : World → World) : (s.modWorld w f).capDies = s.capDies := rfl
@[simp] theorem State.modWorld_capCxl (s : State) (w : Nat) (f : World → World) : (s.modWorld w f).capCxl = s.capCxl := rfl
@[simp] theorem State.modWorld_capNet (s : State) (w : Nat) (f : World → World) : (s.modWorld w f).capNet = s.capNet := rfl
@[simp] theorem State.modWorld_teams (s : State) (w : Nat) (f : World → World) : (s.modWorld w f).teams = s.teams := rfl
@[simp] theorem State.modWorld_crews (s : State) (w : Nat) (f : World → World) : (s.modWorld w f).crews = s.crews := rfl
@[simp] theorem State.modWorld_cards (s : State) (w : Nat) (f : World → World) : (s.modWorld w f).cards = s.cards := rfl
@[simp] theorem State.modWorld_handles (s : State) (w : Nat) (f : World → World) : (s.modWorld w f).handles = s.handles := rfl
@[simp] theorem State.modWorld_dies (s : State) (w : Nat) (f : World → World) : (s.modWorld w f).dies = s.dies := rfl
@[simp] theorem State.modWorld_cores (s : State) (w : Nat) (f : World → World) : (s.modWorld w f).cores = s.cores := rfl
@[simp] theorem State.modWorld_copies (s : State) (w : Nat) (f : World → World) : (s.modWorld w f).copies = s.copies := rfl
@[simp] theorem State.modWorld_bars (s : State) (w : Nat) (f : World → World) : (s.modWorld w f).bars = s.bars := rfl
@[simp] theorem State.modWorld_mem (s : State) (w : Nat) (f : World → World) : (s.modWorld w f).mem = s.mem := rfl
@[simp] theorem State.modWorld_ops (s : State) (w : Nat) (f : World → World) : (s.modWorld w f).ops = s.ops := rfl
@[simp] theorem State.modWorld_lands (s : State) (w : Nat) (f : World → World) : (s.modWorld w f).lands = s.lands := rfl
@[simp] theorem State.modWorld_pkts (s : State) (w : Nat) (f : World → World) : (s.modWorld w f).pkts = s.pkts := rfl
@[simp] theorem State.modWorld_replies (s : State) (w : Nat) (f : World → World) : (s.modWorld w f).replies = s.replies := rfl
@[simp] theorem State.modWorld_wins (s : State) (w : Nat) (f : World → World) : (s.modWorld w f).wins = s.wins := rfl
@[simp] theorem State.modWorld_nodes (s : State) (w : Nat) (f : World → World) : (s.modWorld w f).nodes = s.nodes := rfl
@[simp] theorem State.modWorld_holders (s : State) (w : Nat) (f : World → World) : (s.modWorld w f).holders = s.holders := rfl
@[simp] theorem State.modWorld_campaigns (s : State) (w : Nat) (f : World → World) : (s.modWorld w f).campaigns = s.campaigns := rfl
@[simp] theorem State.modWorld_chanJobs (s : State) (w : Nat) (f : World → World) : (s.modWorld w f).chanJobs = s.chanJobs := rfl
@[simp] theorem State.modWorld_routeMsgs (s : State) (w : Nat) (f : World → World) : (s.modWorld w f).routeMsgs = s.routeMsgs := rfl
@[simp] theorem State.modWorld_routeAcks (s : State) (w : Nat) (f : World → World) : (s.modWorld w f).routeAcks = s.routeAcks := rfl
@[simp] theorem State.modWorld_transfers (s : State) (w : Nat) (f : World → World) : (s.modWorld w f).transfers = s.transfers := rfl
@[simp] theorem State.modWorld_mirrors (s : State) (w : Nat) (f : World → World) : (s.modWorld w f).mirrors = s.mirrors := rfl
@[simp] theorem State.modWorld_prepares (s : State) (w : Nat) (f : World → World) : (s.modWorld w f).prepares = s.prepares := rfl
@[simp] theorem State.modWorld_prepAcks (s : State) (w : Nat) (f : World → World) : (s.modWorld w f).prepAcks = s.prepAcks := rfl
@[simp] theorem State.modWorld_commits (s : State) (w : Nat) (f : World → World) : (s.modWorld w f).commits = s.commits := rfl
@[simp] theorem State.modWorld_prepared (s : State) (w : Nat) (f : World → World) : (s.modWorld w f).prepared = s.prepared := rfl
@[simp] theorem State.modWorld_notices (s : State) (w : Nat) (f : World → World) : (s.modWorld w f).notices = s.notices := rfl
@[simp] theorem State.modWorld_links (s : State) (w : Nat) (f : World → World) : (s.modWorld w f).links = s.links := rfl
@[simp] theorem State.modWorld_piers (s : State) (w : Nat) (f : World → World) : (s.modWorld w f).piers = s.piers := rfl
@[simp] theorem State.modWorld_samplings (s : State) (w : Nat) (f : World → World) : (s.modWorld w f).samplings = s.samplings := rfl
@[simp] theorem State.modWorld_abutLogs (s : State) (w : Nat) (f : World → World) : (s.modWorld w f).abutLogs = s.abutLogs := rfl
@[simp] theorem State.modWorld_abutDccs (s : State) (w : Nat) (f : World → World) : (s.modWorld w f).abutDccs = s.abutDccs := rfl
@[simp] theorem State.modWorld_host (s : State) (w : Nat) (f : World → World) : (s.modWorld w f).host = s.host := rfl
@[simp] theorem State.modWorld_net (s : State) (w : Nat) (f : World → World) : (s.modWorld w f).net = s.net := rfl
@[simp] theorem State.modWorld_boot (s : State) (w : Nat) (f : World → World) : (s.modWorld w f).boot = s.boot := rfl

@[simp] theorem State.modNode_cur (s : State) (n : Nat) (f : Node → Node) : (s.modNode n f).cur = s.cur := rfl
@[simp] theorem State.modNode_agenda (s : State) (n : Nat) (f : Node → Node) : (s.modNode n f).agenda = s.agenda := rfl
@[simp] theorem State.modNode_phase (s : State) (n : Nat) (f : Node → Node) : (s.modNode n f).phase = s.phase := rfl
@[simp] theorem State.modNode_nextId (s : State) (n : Nat) (f : Node → Node) : (s.modNode n f).nextId = s.nextId := rfl
@[simp] theorem State.modNode_free (s : State) (n : Nat) (f : Node → Node) : (s.modNode n f).free = s.free := rfl
@[simp] theorem State.modNode_tagFails (s : State) (n : Nat) (f : Node → Node) : (s.modNode n f).tagFails = s.tagFails := rfl
@[simp] theorem State.modNode_badWorlds (s : State) (n : Nat) (f : Node → Node) : (s.modNode n f).badWorlds = s.badWorlds := rfl
@[simp] theorem State.modNode_variant (s : State) (n : Nat) (f : Node → Node) : (s.modNode n f).variant = s.variant := rfl
@[simp] theorem State.modNode_capDies (s : State) (n : Nat) (f : Node → Node) : (s.modNode n f).capDies = s.capDies := rfl
@[simp] theorem State.modNode_capCxl (s : State) (n : Nat) (f : Node → Node) : (s.modNode n f).capCxl = s.capCxl := rfl
@[simp] theorem State.modNode_capNet (s : State) (n : Nat) (f : Node → Node) : (s.modNode n f).capNet = s.capNet := rfl
@[simp] theorem State.modNode_teams (s : State) (n : Nat) (f : Node → Node) : (s.modNode n f).teams = s.teams := rfl
@[simp] theorem State.modNode_crews (s : State) (n : Nat) (f : Node → Node) : (s.modNode n f).crews = s.crews := rfl
@[simp] theorem State.modNode_cards (s : State) (n : Nat) (f : Node → Node) : (s.modNode n f).cards = s.cards := rfl
@[simp] theorem State.modNode_handles (s : State) (n : Nat) (f : Node → Node) : (s.modNode n f).handles = s.handles := rfl
@[simp] theorem State.modNode_dies (s : State) (n : Nat) (f : Node → Node) : (s.modNode n f).dies = s.dies := rfl
@[simp] theorem State.modNode_cores (s : State) (n : Nat) (f : Node → Node) : (s.modNode n f).cores = s.cores := rfl
@[simp] theorem State.modNode_copies (s : State) (n : Nat) (f : Node → Node) : (s.modNode n f).copies = s.copies := rfl
@[simp] theorem State.modNode_bars (s : State) (n : Nat) (f : Node → Node) : (s.modNode n f).bars = s.bars := rfl
@[simp] theorem State.modNode_mem (s : State) (n : Nat) (f : Node → Node) : (s.modNode n f).mem = s.mem := rfl
@[simp] theorem State.modNode_ops (s : State) (n : Nat) (f : Node → Node) : (s.modNode n f).ops = s.ops := rfl
@[simp] theorem State.modNode_lands (s : State) (n : Nat) (f : Node → Node) : (s.modNode n f).lands = s.lands := rfl
@[simp] theorem State.modNode_pkts (s : State) (n : Nat) (f : Node → Node) : (s.modNode n f).pkts = s.pkts := rfl
@[simp] theorem State.modNode_replies (s : State) (n : Nat) (f : Node → Node) : (s.modNode n f).replies = s.replies := rfl
@[simp] theorem State.modNode_wins (s : State) (n : Nat) (f : Node → Node) : (s.modNode n f).wins = s.wins := rfl
@[simp] theorem State.modNode_holders (s : State) (n : Nat) (f : Node → Node) : (s.modNode n f).holders = s.holders := rfl
@[simp] theorem State.modNode_campaigns (s : State) (n : Nat) (f : Node → Node) : (s.modNode n f).campaigns = s.campaigns := rfl
@[simp] theorem State.modNode_chanJobs (s : State) (n : Nat) (f : Node → Node) : (s.modNode n f).chanJobs = s.chanJobs := rfl
@[simp] theorem State.modNode_routeMsgs (s : State) (n : Nat) (f : Node → Node) : (s.modNode n f).routeMsgs = s.routeMsgs := rfl
@[simp] theorem State.modNode_routeAcks (s : State) (n : Nat) (f : Node → Node) : (s.modNode n f).routeAcks = s.routeAcks := rfl
@[simp] theorem State.modNode_transfers (s : State) (n : Nat) (f : Node → Node) : (s.modNode n f).transfers = s.transfers := rfl
@[simp] theorem State.modNode_mirrors (s : State) (n : Nat) (f : Node → Node) : (s.modNode n f).mirrors = s.mirrors := rfl
@[simp] theorem State.modNode_prepares (s : State) (n : Nat) (f : Node → Node) : (s.modNode n f).prepares = s.prepares := rfl
@[simp] theorem State.modNode_prepAcks (s : State) (n : Nat) (f : Node → Node) : (s.modNode n f).prepAcks = s.prepAcks := rfl
@[simp] theorem State.modNode_commits (s : State) (n : Nat) (f : Node → Node) : (s.modNode n f).commits = s.commits := rfl
@[simp] theorem State.modNode_prepared (s : State) (n : Nat) (f : Node → Node) : (s.modNode n f).prepared = s.prepared := rfl
@[simp] theorem State.modNode_notices (s : State) (n : Nat) (f : Node → Node) : (s.modNode n f).notices = s.notices := rfl
@[simp] theorem State.modNode_links (s : State) (n : Nat) (f : Node → Node) : (s.modNode n f).links = s.links := rfl
@[simp] theorem State.modNode_piers (s : State) (n : Nat) (f : Node → Node) : (s.modNode n f).piers = s.piers := rfl
@[simp] theorem State.modNode_worlds (s : State) (n : Nat) (f : Node → Node) : (s.modNode n f).worlds = s.worlds := rfl
@[simp] theorem State.modNode_samplings (s : State) (n : Nat) (f : Node → Node) : (s.modNode n f).samplings = s.samplings := rfl
@[simp] theorem State.modNode_abutLogs (s : State) (n : Nat) (f : Node → Node) : (s.modNode n f).abutLogs = s.abutLogs := rfl
@[simp] theorem State.modNode_abutDccs (s : State) (n : Nat) (f : Node → Node) : (s.modNode n f).abutDccs = s.abutDccs := rfl
@[simp] theorem State.modNode_host (s : State) (n : Nat) (f : Node → Node) : (s.modNode n f).host = s.host := rfl
@[simp] theorem State.modNode_net (s : State) (n : Nat) (f : Node → Node) : (s.modNode n f).net = s.net := rfl
@[simp] theorem State.modNode_boot (s : State) (n : Nat) (f : Node → Node) : (s.modNode n f).boot = s.boot := rfl

@[simp] theorem State.modHolder_cur (s : State) (h : Nat) (f : Holder → Holder) : (s.modHolder h f).cur = s.cur := rfl
@[simp] theorem State.modHolder_agenda (s : State) (h : Nat) (f : Holder → Holder) : (s.modHolder h f).agenda = s.agenda := rfl
@[simp] theorem State.modHolder_phase (s : State) (h : Nat) (f : Holder → Holder) : (s.modHolder h f).phase = s.phase := rfl
@[simp] theorem State.modHolder_nextId (s : State) (h : Nat) (f : Holder → Holder) : (s.modHolder h f).nextId = s.nextId := rfl
@[simp] theorem State.modHolder_free (s : State) (h : Nat) (f : Holder → Holder) : (s.modHolder h f).free = s.free := rfl
@[simp] theorem State.modHolder_tagFails (s : State) (h : Nat) (f : Holder → Holder) : (s.modHolder h f).tagFails = s.tagFails := rfl
@[simp] theorem State.modHolder_badWorlds (s : State) (h : Nat) (f : Holder → Holder) : (s.modHolder h f).badWorlds = s.badWorlds := rfl
@[simp] theorem State.modHolder_variant (s : State) (h : Nat) (f : Holder → Holder) : (s.modHolder h f).variant = s.variant := rfl
@[simp] theorem State.modHolder_capDies (s : State) (h : Nat) (f : Holder → Holder) : (s.modHolder h f).capDies = s.capDies := rfl
@[simp] theorem State.modHolder_capCxl (s : State) (h : Nat) (f : Holder → Holder) : (s.modHolder h f).capCxl = s.capCxl := rfl
@[simp] theorem State.modHolder_capNet (s : State) (h : Nat) (f : Holder → Holder) : (s.modHolder h f).capNet = s.capNet := rfl
@[simp] theorem State.modHolder_teams (s : State) (h : Nat) (f : Holder → Holder) : (s.modHolder h f).teams = s.teams := rfl
@[simp] theorem State.modHolder_crews (s : State) (h : Nat) (f : Holder → Holder) : (s.modHolder h f).crews = s.crews := rfl
@[simp] theorem State.modHolder_cards (s : State) (h : Nat) (f : Holder → Holder) : (s.modHolder h f).cards = s.cards := rfl
@[simp] theorem State.modHolder_handles (s : State) (h : Nat) (f : Holder → Holder) : (s.modHolder h f).handles = s.handles := rfl
@[simp] theorem State.modHolder_dies (s : State) (h : Nat) (f : Holder → Holder) : (s.modHolder h f).dies = s.dies := rfl
@[simp] theorem State.modHolder_cores (s : State) (h : Nat) (f : Holder → Holder) : (s.modHolder h f).cores = s.cores := rfl
@[simp] theorem State.modHolder_copies (s : State) (h : Nat) (f : Holder → Holder) : (s.modHolder h f).copies = s.copies := rfl
@[simp] theorem State.modHolder_bars (s : State) (h : Nat) (f : Holder → Holder) : (s.modHolder h f).bars = s.bars := rfl
@[simp] theorem State.modHolder_mem (s : State) (h : Nat) (f : Holder → Holder) : (s.modHolder h f).mem = s.mem := rfl
@[simp] theorem State.modHolder_ops (s : State) (h : Nat) (f : Holder → Holder) : (s.modHolder h f).ops = s.ops := rfl
@[simp] theorem State.modHolder_lands (s : State) (h : Nat) (f : Holder → Holder) : (s.modHolder h f).lands = s.lands := rfl
@[simp] theorem State.modHolder_pkts (s : State) (h : Nat) (f : Holder → Holder) : (s.modHolder h f).pkts = s.pkts := rfl
@[simp] theorem State.modHolder_replies (s : State) (h : Nat) (f : Holder → Holder) : (s.modHolder h f).replies = s.replies := rfl
@[simp] theorem State.modHolder_wins (s : State) (h : Nat) (f : Holder → Holder) : (s.modHolder h f).wins = s.wins := rfl
@[simp] theorem State.modHolder_nodes (s : State) (h : Nat) (f : Holder → Holder) : (s.modHolder h f).nodes = s.nodes := rfl
@[simp] theorem State.modHolder_campaigns (s : State) (h : Nat) (f : Holder → Holder) : (s.modHolder h f).campaigns = s.campaigns := rfl
@[simp] theorem State.modHolder_chanJobs (s : State) (h : Nat) (f : Holder → Holder) : (s.modHolder h f).chanJobs = s.chanJobs := rfl
@[simp] theorem State.modHolder_routeMsgs (s : State) (h : Nat) (f : Holder → Holder) : (s.modHolder h f).routeMsgs = s.routeMsgs := rfl
@[simp] theorem State.modHolder_routeAcks (s : State) (h : Nat) (f : Holder → Holder) : (s.modHolder h f).routeAcks = s.routeAcks := rfl
@[simp] theorem State.modHolder_transfers (s : State) (h : Nat) (f : Holder → Holder) : (s.modHolder h f).transfers = s.transfers := rfl
@[simp] theorem State.modHolder_mirrors (s : State) (h : Nat) (f : Holder → Holder) : (s.modHolder h f).mirrors = s.mirrors := rfl
@[simp] theorem State.modHolder_prepares (s : State) (h : Nat) (f : Holder → Holder) : (s.modHolder h f).prepares = s.prepares := rfl
@[simp] theorem State.modHolder_prepAcks (s : State) (h : Nat) (f : Holder → Holder) : (s.modHolder h f).prepAcks = s.prepAcks := rfl
@[simp] theorem State.modHolder_commits (s : State) (h : Nat) (f : Holder → Holder) : (s.modHolder h f).commits = s.commits := rfl
@[simp] theorem State.modHolder_prepared (s : State) (h : Nat) (f : Holder → Holder) : (s.modHolder h f).prepared = s.prepared := rfl
@[simp] theorem State.modHolder_notices (s : State) (h : Nat) (f : Holder → Holder) : (s.modHolder h f).notices = s.notices := rfl
@[simp] theorem State.modHolder_links (s : State) (h : Nat) (f : Holder → Holder) : (s.modHolder h f).links = s.links := rfl
@[simp] theorem State.modHolder_piers (s : State) (h : Nat) (f : Holder → Holder) : (s.modHolder h f).piers = s.piers := rfl
@[simp] theorem State.modHolder_worlds (s : State) (h : Nat) (f : Holder → Holder) : (s.modHolder h f).worlds = s.worlds := rfl
@[simp] theorem State.modHolder_samplings (s : State) (h : Nat) (f : Holder → Holder) : (s.modHolder h f).samplings = s.samplings := rfl
@[simp] theorem State.modHolder_abutLogs (s : State) (h : Nat) (f : Holder → Holder) : (s.modHolder h f).abutLogs = s.abutLogs := rfl
@[simp] theorem State.modHolder_abutDccs (s : State) (h : Nat) (f : Holder → Holder) : (s.modHolder h f).abutDccs = s.abutDccs := rfl
@[simp] theorem State.modHolder_host (s : State) (h : Nat) (f : Holder → Holder) : (s.modHolder h f).host = s.host := rfl
@[simp] theorem State.modHolder_net (s : State) (h : Nat) (f : Holder → Holder) : (s.modHolder h f).net = s.net := rfl
@[simp] theorem State.modHolder_boot (s : State) (h : Nat) (f : Holder → Holder) : (s.modHolder h f).boot = s.boot := rfl

@[simp] theorem State.modPier_cur (s : State) (p : Nat) (f : Pier → Pier) : (s.modPier p f).cur = s.cur := rfl
@[simp] theorem State.modPier_agenda (s : State) (p : Nat) (f : Pier → Pier) : (s.modPier p f).agenda = s.agenda := rfl
@[simp] theorem State.modPier_phase (s : State) (p : Nat) (f : Pier → Pier) : (s.modPier p f).phase = s.phase := rfl
@[simp] theorem State.modPier_nextId (s : State) (p : Nat) (f : Pier → Pier) : (s.modPier p f).nextId = s.nextId := rfl
@[simp] theorem State.modPier_free (s : State) (p : Nat) (f : Pier → Pier) : (s.modPier p f).free = s.free := rfl
@[simp] theorem State.modPier_tagFails (s : State) (p : Nat) (f : Pier → Pier) : (s.modPier p f).tagFails = s.tagFails := rfl
@[simp] theorem State.modPier_badWorlds (s : State) (p : Nat) (f : Pier → Pier) : (s.modPier p f).badWorlds = s.badWorlds := rfl
@[simp] theorem State.modPier_variant (s : State) (p : Nat) (f : Pier → Pier) : (s.modPier p f).variant = s.variant := rfl
@[simp] theorem State.modPier_capDies (s : State) (p : Nat) (f : Pier → Pier) : (s.modPier p f).capDies = s.capDies := rfl
@[simp] theorem State.modPier_capCxl (s : State) (p : Nat) (f : Pier → Pier) : (s.modPier p f).capCxl = s.capCxl := rfl
@[simp] theorem State.modPier_capNet (s : State) (p : Nat) (f : Pier → Pier) : (s.modPier p f).capNet = s.capNet := rfl
@[simp] theorem State.modPier_teams (s : State) (p : Nat) (f : Pier → Pier) : (s.modPier p f).teams = s.teams := rfl
@[simp] theorem State.modPier_crews (s : State) (p : Nat) (f : Pier → Pier) : (s.modPier p f).crews = s.crews := rfl
@[simp] theorem State.modPier_cards (s : State) (p : Nat) (f : Pier → Pier) : (s.modPier p f).cards = s.cards := rfl
@[simp] theorem State.modPier_handles (s : State) (p : Nat) (f : Pier → Pier) : (s.modPier p f).handles = s.handles := rfl
@[simp] theorem State.modPier_dies (s : State) (p : Nat) (f : Pier → Pier) : (s.modPier p f).dies = s.dies := rfl
@[simp] theorem State.modPier_cores (s : State) (p : Nat) (f : Pier → Pier) : (s.modPier p f).cores = s.cores := rfl
@[simp] theorem State.modPier_copies (s : State) (p : Nat) (f : Pier → Pier) : (s.modPier p f).copies = s.copies := rfl
@[simp] theorem State.modPier_bars (s : State) (p : Nat) (f : Pier → Pier) : (s.modPier p f).bars = s.bars := rfl
@[simp] theorem State.modPier_mem (s : State) (p : Nat) (f : Pier → Pier) : (s.modPier p f).mem = s.mem := rfl
@[simp] theorem State.modPier_ops (s : State) (p : Nat) (f : Pier → Pier) : (s.modPier p f).ops = s.ops := rfl
@[simp] theorem State.modPier_lands (s : State) (p : Nat) (f : Pier → Pier) : (s.modPier p f).lands = s.lands := rfl
@[simp] theorem State.modPier_pkts (s : State) (p : Nat) (f : Pier → Pier) : (s.modPier p f).pkts = s.pkts := rfl
@[simp] theorem State.modPier_replies (s : State) (p : Nat) (f : Pier → Pier) : (s.modPier p f).replies = s.replies := rfl
@[simp] theorem State.modPier_wins (s : State) (p : Nat) (f : Pier → Pier) : (s.modPier p f).wins = s.wins := rfl
@[simp] theorem State.modPier_nodes (s : State) (p : Nat) (f : Pier → Pier) : (s.modPier p f).nodes = s.nodes := rfl
@[simp] theorem State.modPier_holders (s : State) (p : Nat) (f : Pier → Pier) : (s.modPier p f).holders = s.holders := rfl
@[simp] theorem State.modPier_campaigns (s : State) (p : Nat) (f : Pier → Pier) : (s.modPier p f).campaigns = s.campaigns := rfl
@[simp] theorem State.modPier_chanJobs (s : State) (p : Nat) (f : Pier → Pier) : (s.modPier p f).chanJobs = s.chanJobs := rfl
@[simp] theorem State.modPier_routeMsgs (s : State) (p : Nat) (f : Pier → Pier) : (s.modPier p f).routeMsgs = s.routeMsgs := rfl
@[simp] theorem State.modPier_routeAcks (s : State) (p : Nat) (f : Pier → Pier) : (s.modPier p f).routeAcks = s.routeAcks := rfl
@[simp] theorem State.modPier_transfers (s : State) (p : Nat) (f : Pier → Pier) : (s.modPier p f).transfers = s.transfers := rfl
@[simp] theorem State.modPier_mirrors (s : State) (p : Nat) (f : Pier → Pier) : (s.modPier p f).mirrors = s.mirrors := rfl
@[simp] theorem State.modPier_prepares (s : State) (p : Nat) (f : Pier → Pier) : (s.modPier p f).prepares = s.prepares := rfl
@[simp] theorem State.modPier_prepAcks (s : State) (p : Nat) (f : Pier → Pier) : (s.modPier p f).prepAcks = s.prepAcks := rfl
@[simp] theorem State.modPier_commits (s : State) (p : Nat) (f : Pier → Pier) : (s.modPier p f).commits = s.commits := rfl
@[simp] theorem State.modPier_prepared (s : State) (p : Nat) (f : Pier → Pier) : (s.modPier p f).prepared = s.prepared := rfl
@[simp] theorem State.modPier_notices (s : State) (p : Nat) (f : Pier → Pier) : (s.modPier p f).notices = s.notices := rfl
@[simp] theorem State.modPier_links (s : State) (p : Nat) (f : Pier → Pier) : (s.modPier p f).links = s.links := rfl
@[simp] theorem State.modPier_worlds (s : State) (p : Nat) (f : Pier → Pier) : (s.modPier p f).worlds = s.worlds := rfl
@[simp] theorem State.modPier_samplings (s : State) (p : Nat) (f : Pier → Pier) : (s.modPier p f).samplings = s.samplings := rfl
@[simp] theorem State.modPier_abutLogs (s : State) (p : Nat) (f : Pier → Pier) : (s.modPier p f).abutLogs = s.abutLogs := rfl
@[simp] theorem State.modPier_abutDccs (s : State) (p : Nat) (f : Pier → Pier) : (s.modPier p f).abutDccs = s.abutDccs := rfl
@[simp] theorem State.modPier_host (s : State) (p : Nat) (f : Pier → Pier) : (s.modPier p f).host = s.host := rfl
@[simp] theorem State.modPier_net (s : State) (p : Nat) (f : Pier → Pier) : (s.modPier p f).net = s.net := rfl
@[simp] theorem State.modPier_boot (s : State) (p : Nat) (f : Pier → Pier) : (s.modPier p f).boot = s.boot := rfl

@[simp] theorem State.stallTeam_cur (s : State) (u n : Nat) : (s.stallTeam u n).cur = s.cur := by unfold State.stallTeam; simp
@[simp] theorem State.stallTeam_agenda (s : State) (u n : Nat) : (s.stallTeam u n).agenda = s.agenda := by unfold State.stallTeam; simp
@[simp] theorem State.stallTeam_phase (s : State) (u n : Nat) : (s.stallTeam u n).phase = s.phase := by unfold State.stallTeam; simp
@[simp] theorem State.stallTeam_nextId (s : State) (u n : Nat) : (s.stallTeam u n).nextId = s.nextId := by unfold State.stallTeam; simp
@[simp] theorem State.stallTeam_free (s : State) (u n : Nat) : (s.stallTeam u n).free = s.free := by unfold State.stallTeam; simp
@[simp] theorem State.stallTeam_tagFails (s : State) (u n : Nat) : (s.stallTeam u n).tagFails = s.tagFails := by unfold State.stallTeam; simp
@[simp] theorem State.stallTeam_badWorlds (s : State) (u n : Nat) : (s.stallTeam u n).badWorlds = s.badWorlds := by unfold State.stallTeam; simp
@[simp] theorem State.stallTeam_variant (s : State) (u n : Nat) : (s.stallTeam u n).variant = s.variant := by unfold State.stallTeam; simp
@[simp] theorem State.stallTeam_capDies (s : State) (u n : Nat) : (s.stallTeam u n).capDies = s.capDies := by unfold State.stallTeam; simp
@[simp] theorem State.stallTeam_capCxl (s : State) (u n : Nat) : (s.stallTeam u n).capCxl = s.capCxl := by unfold State.stallTeam; simp
@[simp] theorem State.stallTeam_capNet (s : State) (u n : Nat) : (s.stallTeam u n).capNet = s.capNet := by unfold State.stallTeam; simp
@[simp] theorem State.stallTeam_crews (s : State) (u n : Nat) : (s.stallTeam u n).crews = s.crews := by unfold State.stallTeam; simp
@[simp] theorem State.stallTeam_cards (s : State) (u n : Nat) : (s.stallTeam u n).cards = s.cards := by unfold State.stallTeam; simp
@[simp] theorem State.stallTeam_handles (s : State) (u n : Nat) : (s.stallTeam u n).handles = s.handles := by unfold State.stallTeam; simp
@[simp] theorem State.stallTeam_dies (s : State) (u n : Nat) : (s.stallTeam u n).dies = s.dies := by unfold State.stallTeam; simp
@[simp] theorem State.stallTeam_cores (s : State) (u n : Nat) : (s.stallTeam u n).cores = s.cores := by unfold State.stallTeam; simp
@[simp] theorem State.stallTeam_copies (s : State) (u n : Nat) : (s.stallTeam u n).copies = s.copies := by unfold State.stallTeam; simp
@[simp] theorem State.stallTeam_bars (s : State) (u n : Nat) : (s.stallTeam u n).bars = s.bars := by unfold State.stallTeam; simp
@[simp] theorem State.stallTeam_mem (s : State) (u n : Nat) : (s.stallTeam u n).mem = s.mem := by unfold State.stallTeam; simp
@[simp] theorem State.stallTeam_ops (s : State) (u n : Nat) : (s.stallTeam u n).ops = s.ops := by unfold State.stallTeam; simp
@[simp] theorem State.stallTeam_lands (s : State) (u n : Nat) : (s.stallTeam u n).lands = s.lands := by unfold State.stallTeam; simp
@[simp] theorem State.stallTeam_pkts (s : State) (u n : Nat) : (s.stallTeam u n).pkts = s.pkts := by unfold State.stallTeam; simp
@[simp] theorem State.stallTeam_replies (s : State) (u n : Nat) : (s.stallTeam u n).replies = s.replies := by unfold State.stallTeam; simp
@[simp] theorem State.stallTeam_wins (s : State) (u n : Nat) : (s.stallTeam u n).wins = s.wins := by unfold State.stallTeam; simp
@[simp] theorem State.stallTeam_nodes (s : State) (u n : Nat) : (s.stallTeam u n).nodes = s.nodes := by unfold State.stallTeam; simp
@[simp] theorem State.stallTeam_holders (s : State) (u n : Nat) : (s.stallTeam u n).holders = s.holders := by unfold State.stallTeam; simp
@[simp] theorem State.stallTeam_campaigns (s : State) (u n : Nat) : (s.stallTeam u n).campaigns = s.campaigns := by unfold State.stallTeam; simp
@[simp] theorem State.stallTeam_chanJobs (s : State) (u n : Nat) : (s.stallTeam u n).chanJobs = s.chanJobs := by unfold State.stallTeam; simp
@[simp] theorem State.stallTeam_routeMsgs (s : State) (u n : Nat) : (s.stallTeam u n).routeMsgs = s.routeMsgs := by unfold State.stallTeam; simp
@[simp] theorem State.stallTeam_routeAcks (s : State) (u n : Nat) : (s.stallTeam u n).routeAcks = s.routeAcks := by unfold State.stallTeam; simp
@[simp] theorem State.stallTeam_transfers (s : State) (u n : Nat) : (s.stallTeam u n).transfers = s.transfers := by unfold State.stallTeam; simp
@[simp] theorem State.stallTeam_mirrors (s : State) (u n : Nat) : (s.stallTeam u n).mirrors = s.mirrors := by unfold State.stallTeam; simp
@[simp] theorem State.stallTeam_prepares (s : State) (u n : Nat) : (s.stallTeam u n).prepares = s.prepares := by unfold State.stallTeam; simp
@[simp] theorem State.stallTeam_prepAcks (s : State) (u n : Nat) : (s.stallTeam u n).prepAcks = s.prepAcks := by unfold State.stallTeam; simp
@[simp] theorem State.stallTeam_commits (s : State) (u n : Nat) : (s.stallTeam u n).commits = s.commits := by unfold State.stallTeam; simp
@[simp] theorem State.stallTeam_prepared (s : State) (u n : Nat) : (s.stallTeam u n).prepared = s.prepared := by unfold State.stallTeam; simp
@[simp] theorem State.stallTeam_notices (s : State) (u n : Nat) : (s.stallTeam u n).notices = s.notices := by unfold State.stallTeam; simp
@[simp] theorem State.stallTeam_links (s : State) (u n : Nat) : (s.stallTeam u n).links = s.links := by unfold State.stallTeam; simp
@[simp] theorem State.stallTeam_piers (s : State) (u n : Nat) : (s.stallTeam u n).piers = s.piers := by unfold State.stallTeam; simp
@[simp] theorem State.stallTeam_worlds (s : State) (u n : Nat) : (s.stallTeam u n).worlds = s.worlds := by unfold State.stallTeam; simp
@[simp] theorem State.stallTeam_samplings (s : State) (u n : Nat) : (s.stallTeam u n).samplings = s.samplings := by unfold State.stallTeam; simp
@[simp] theorem State.stallTeam_abutLogs (s : State) (u n : Nat) : (s.stallTeam u n).abutLogs = s.abutLogs := by unfold State.stallTeam; simp
@[simp] theorem State.stallTeam_abutDccs (s : State) (u n : Nat) : (s.stallTeam u n).abutDccs = s.abutDccs := by unfold State.stallTeam; simp
@[simp] theorem State.stallTeam_host (s : State) (u n : Nat) : (s.stallTeam u n).host = s.host := by unfold State.stallTeam; simp
@[simp] theorem State.stallTeam_net (s : State) (u n : Nat) : (s.stallTeam u n).net = s.net := by unfold State.stallTeam; simp
@[simp] theorem State.stallTeam_boot (s : State) (u n : Nat) : (s.stallTeam u n).boot = s.boot := by unfold State.stallTeam; simp

@[simp] theorem State.issued_cur (s : State) (u c : Nat) (b : Bool) (n : Nat) : (s.issued u c b n).cur = s.cur := by unfold State.issued; simp
@[simp] theorem State.issued_agenda (s : State) (u c : Nat) (b : Bool) (n : Nat) : (s.issued u c b n).agenda = s.agenda := by unfold State.issued; simp
@[simp] theorem State.issued_phase (s : State) (u c : Nat) (b : Bool) (n : Nat) : (s.issued u c b n).phase = s.phase := by unfold State.issued; simp
@[simp] theorem State.issued_nextId (s : State) (u c : Nat) (b : Bool) (n : Nat) : (s.issued u c b n).nextId = s.nextId := by unfold State.issued; simp
@[simp] theorem State.issued_free (s : State) (u c : Nat) (b : Bool) (n : Nat) : (s.issued u c b n).free = s.free := by unfold State.issued; simp
@[simp] theorem State.issued_tagFails (s : State) (u c : Nat) (b : Bool) (n : Nat) : (s.issued u c b n).tagFails = s.tagFails := by unfold State.issued; simp
@[simp] theorem State.issued_badWorlds (s : State) (u c : Nat) (b : Bool) (n : Nat) : (s.issued u c b n).badWorlds = s.badWorlds := by unfold State.issued; simp
@[simp] theorem State.issued_variant (s : State) (u c : Nat) (b : Bool) (n : Nat) : (s.issued u c b n).variant = s.variant := by unfold State.issued; simp
@[simp] theorem State.issued_capDies (s : State) (u c : Nat) (b : Bool) (n : Nat) : (s.issued u c b n).capDies = s.capDies := by unfold State.issued; simp
@[simp] theorem State.issued_capCxl (s : State) (u c : Nat) (b : Bool) (n : Nat) : (s.issued u c b n).capCxl = s.capCxl := by unfold State.issued; simp
@[simp] theorem State.issued_capNet (s : State) (u c : Nat) (b : Bool) (n : Nat) : (s.issued u c b n).capNet = s.capNet := by unfold State.issued; simp
@[simp] theorem State.issued_crews (s : State) (u c : Nat) (b : Bool) (n : Nat) : (s.issued u c b n).crews = s.crews := by unfold State.issued; simp
@[simp] theorem State.issued_cards (s : State) (u c : Nat) (b : Bool) (n : Nat) : (s.issued u c b n).cards = s.cards := by unfold State.issued; simp
@[simp] theorem State.issued_handles (s : State) (u c : Nat) (b : Bool) (n : Nat) : (s.issued u c b n).handles = s.handles := by unfold State.issued; simp
@[simp] theorem State.issued_dies (s : State) (u c : Nat) (b : Bool) (n : Nat) : (s.issued u c b n).dies = s.dies := by unfold State.issued; simp
@[simp] theorem State.issued_copies (s : State) (u c : Nat) (b : Bool) (n : Nat) : (s.issued u c b n).copies = s.copies := by unfold State.issued; simp
@[simp] theorem State.issued_bars (s : State) (u c : Nat) (b : Bool) (n : Nat) : (s.issued u c b n).bars = s.bars := by unfold State.issued; simp
@[simp] theorem State.issued_mem (s : State) (u c : Nat) (b : Bool) (n : Nat) : (s.issued u c b n).mem = s.mem := by unfold State.issued; simp
@[simp] theorem State.issued_ops (s : State) (u c : Nat) (b : Bool) (n : Nat) : (s.issued u c b n).ops = s.ops := by unfold State.issued; simp
@[simp] theorem State.issued_lands (s : State) (u c : Nat) (b : Bool) (n : Nat) : (s.issued u c b n).lands = s.lands := by unfold State.issued; simp
@[simp] theorem State.issued_pkts (s : State) (u c : Nat) (b : Bool) (n : Nat) : (s.issued u c b n).pkts = s.pkts := by unfold State.issued; simp
@[simp] theorem State.issued_replies (s : State) (u c : Nat) (b : Bool) (n : Nat) : (s.issued u c b n).replies = s.replies := by unfold State.issued; simp
@[simp] theorem State.issued_wins (s : State) (u c : Nat) (b : Bool) (n : Nat) : (s.issued u c b n).wins = s.wins := by unfold State.issued; simp
@[simp] theorem State.issued_nodes (s : State) (u c : Nat) (b : Bool) (n : Nat) : (s.issued u c b n).nodes = s.nodes := by unfold State.issued; simp
@[simp] theorem State.issued_holders (s : State) (u c : Nat) (b : Bool) (n : Nat) : (s.issued u c b n).holders = s.holders := by unfold State.issued; simp
@[simp] theorem State.issued_campaigns (s : State) (u c : Nat) (b : Bool) (n : Nat) : (s.issued u c b n).campaigns = s.campaigns := by unfold State.issued; simp
@[simp] theorem State.issued_chanJobs (s : State) (u c : Nat) (b : Bool) (n : Nat) : (s.issued u c b n).chanJobs = s.chanJobs := by unfold State.issued; simp
@[simp] theorem State.issued_routeMsgs (s : State) (u c : Nat) (b : Bool) (n : Nat) : (s.issued u c b n).routeMsgs = s.routeMsgs := by unfold State.issued; simp
@[simp] theorem State.issued_routeAcks (s : State) (u c : Nat) (b : Bool) (n : Nat) : (s.issued u c b n).routeAcks = s.routeAcks := by unfold State.issued; simp
@[simp] theorem State.issued_transfers (s : State) (u c : Nat) (b : Bool) (n : Nat) : (s.issued u c b n).transfers = s.transfers := by unfold State.issued; simp
@[simp] theorem State.issued_mirrors (s : State) (u c : Nat) (b : Bool) (n : Nat) : (s.issued u c b n).mirrors = s.mirrors := by unfold State.issued; simp
@[simp] theorem State.issued_prepares (s : State) (u c : Nat) (b : Bool) (n : Nat) : (s.issued u c b n).prepares = s.prepares := by unfold State.issued; simp
@[simp] theorem State.issued_prepAcks (s : State) (u c : Nat) (b : Bool) (n : Nat) : (s.issued u c b n).prepAcks = s.prepAcks := by unfold State.issued; simp
@[simp] theorem State.issued_commits (s : State) (u c : Nat) (b : Bool) (n : Nat) : (s.issued u c b n).commits = s.commits := by unfold State.issued; simp
@[simp] theorem State.issued_prepared (s : State) (u c : Nat) (b : Bool) (n : Nat) : (s.issued u c b n).prepared = s.prepared := by unfold State.issued; simp
@[simp] theorem State.issued_notices (s : State) (u c : Nat) (b : Bool) (n : Nat) : (s.issued u c b n).notices = s.notices := by unfold State.issued; simp
@[simp] theorem State.issued_links (s : State) (u c : Nat) (b : Bool) (n : Nat) : (s.issued u c b n).links = s.links := by unfold State.issued; simp
@[simp] theorem State.issued_piers (s : State) (u c : Nat) (b : Bool) (n : Nat) : (s.issued u c b n).piers = s.piers := by unfold State.issued; simp
@[simp] theorem State.issued_worlds (s : State) (u c : Nat) (b : Bool) (n : Nat) : (s.issued u c b n).worlds = s.worlds := by unfold State.issued; simp
@[simp] theorem State.issued_samplings (s : State) (u c : Nat) (b : Bool) (n : Nat) : (s.issued u c b n).samplings = s.samplings := by unfold State.issued; simp
@[simp] theorem State.issued_abutLogs (s : State) (u c : Nat) (b : Bool) (n : Nat) : (s.issued u c b n).abutLogs = s.abutLogs := by unfold State.issued; simp
@[simp] theorem State.issued_abutDccs (s : State) (u c : Nat) (b : Bool) (n : Nat) : (s.issued u c b n).abutDccs = s.abutDccs := by unfold State.issued; simp
@[simp] theorem State.issued_host (s : State) (u c : Nat) (b : Bool) (n : Nat) : (s.issued u c b n).host = s.host := by unfold State.issued; simp
@[simp] theorem State.issued_net (s : State) (u c : Nat) (b : Bool) (n : Nat) : (s.issued u c b n).net = s.net := by unfold State.issued; simp
@[simp] theorem State.issued_boot (s : State) (u c : Nat) (b : Bool) (n : Nat) : (s.issued u c b n).boot = s.boot := by unfold State.issued; simp

@[simp] theorem State.clearStorePoison_cur (s : State) (u : Nat) (tr : Trap) : (s.clearStorePoison u tr).cur = s.cur := by unfold State.clearStorePoison; split <;> (try split) <;> simp
@[simp] theorem State.clearStorePoison_agenda (s : State) (u : Nat) (tr : Trap) : (s.clearStorePoison u tr).agenda = s.agenda := by unfold State.clearStorePoison; split <;> (try split) <;> simp
@[simp] theorem State.clearStorePoison_phase (s : State) (u : Nat) (tr : Trap) : (s.clearStorePoison u tr).phase = s.phase := by unfold State.clearStorePoison; split <;> (try split) <;> simp
@[simp] theorem State.clearStorePoison_nextId (s : State) (u : Nat) (tr : Trap) : (s.clearStorePoison u tr).nextId = s.nextId := by unfold State.clearStorePoison; split <;> (try split) <;> simp
@[simp] theorem State.clearStorePoison_free (s : State) (u : Nat) (tr : Trap) : (s.clearStorePoison u tr).free = s.free := by unfold State.clearStorePoison; split <;> (try split) <;> simp
@[simp] theorem State.clearStorePoison_tagFails (s : State) (u : Nat) (tr : Trap) : (s.clearStorePoison u tr).tagFails = s.tagFails := by unfold State.clearStorePoison; split <;> (try split) <;> simp
@[simp] theorem State.clearStorePoison_badWorlds (s : State) (u : Nat) (tr : Trap) : (s.clearStorePoison u tr).badWorlds = s.badWorlds := by unfold State.clearStorePoison; split <;> (try split) <;> simp
@[simp] theorem State.clearStorePoison_variant (s : State) (u : Nat) (tr : Trap) : (s.clearStorePoison u tr).variant = s.variant := by unfold State.clearStorePoison; split <;> (try split) <;> simp
@[simp] theorem State.clearStorePoison_capDies (s : State) (u : Nat) (tr : Trap) : (s.clearStorePoison u tr).capDies = s.capDies := by unfold State.clearStorePoison; split <;> (try split) <;> simp
@[simp] theorem State.clearStorePoison_capCxl (s : State) (u : Nat) (tr : Trap) : (s.clearStorePoison u tr).capCxl = s.capCxl := by unfold State.clearStorePoison; split <;> (try split) <;> simp
@[simp] theorem State.clearStorePoison_capNet (s : State) (u : Nat) (tr : Trap) : (s.clearStorePoison u tr).capNet = s.capNet := by unfold State.clearStorePoison; split <;> (try split) <;> simp
@[simp] theorem State.clearStorePoison_teams (s : State) (u : Nat) (tr : Trap) : (s.clearStorePoison u tr).teams = s.teams := by unfold State.clearStorePoison; split <;> (try split) <;> simp
@[simp] theorem State.clearStorePoison_cards (s : State) (u : Nat) (tr : Trap) : (s.clearStorePoison u tr).cards = s.cards := by unfold State.clearStorePoison; split <;> (try split) <;> simp
@[simp] theorem State.clearStorePoison_handles (s : State) (u : Nat) (tr : Trap) : (s.clearStorePoison u tr).handles = s.handles := by unfold State.clearStorePoison; split <;> (try split) <;> simp
@[simp] theorem State.clearStorePoison_dies (s : State) (u : Nat) (tr : Trap) : (s.clearStorePoison u tr).dies = s.dies := by unfold State.clearStorePoison; split <;> (try split) <;> simp
@[simp] theorem State.clearStorePoison_cores (s : State) (u : Nat) (tr : Trap) : (s.clearStorePoison u tr).cores = s.cores := by unfold State.clearStorePoison; split <;> (try split) <;> simp
@[simp] theorem State.clearStorePoison_copies (s : State) (u : Nat) (tr : Trap) : (s.clearStorePoison u tr).copies = s.copies := by unfold State.clearStorePoison; split <;> (try split) <;> simp
@[simp] theorem State.clearStorePoison_bars (s : State) (u : Nat) (tr : Trap) : (s.clearStorePoison u tr).bars = s.bars := by unfold State.clearStorePoison; split <;> (try split) <;> simp
@[simp] theorem State.clearStorePoison_mem (s : State) (u : Nat) (tr : Trap) : (s.clearStorePoison u tr).mem = s.mem := by unfold State.clearStorePoison; split <;> (try split) <;> simp
@[simp] theorem State.clearStorePoison_ops (s : State) (u : Nat) (tr : Trap) : (s.clearStorePoison u tr).ops = s.ops := by unfold State.clearStorePoison; split <;> (try split) <;> simp
@[simp] theorem State.clearStorePoison_lands (s : State) (u : Nat) (tr : Trap) : (s.clearStorePoison u tr).lands = s.lands := by unfold State.clearStorePoison; split <;> (try split) <;> simp
@[simp] theorem State.clearStorePoison_pkts (s : State) (u : Nat) (tr : Trap) : (s.clearStorePoison u tr).pkts = s.pkts := by unfold State.clearStorePoison; split <;> (try split) <;> simp
@[simp] theorem State.clearStorePoison_replies (s : State) (u : Nat) (tr : Trap) : (s.clearStorePoison u tr).replies = s.replies := by unfold State.clearStorePoison; split <;> (try split) <;> simp
@[simp] theorem State.clearStorePoison_wins (s : State) (u : Nat) (tr : Trap) : (s.clearStorePoison u tr).wins = s.wins := by unfold State.clearStorePoison; split <;> (try split) <;> simp
@[simp] theorem State.clearStorePoison_nodes (s : State) (u : Nat) (tr : Trap) : (s.clearStorePoison u tr).nodes = s.nodes := by unfold State.clearStorePoison; split <;> (try split) <;> simp
@[simp] theorem State.clearStorePoison_holders (s : State) (u : Nat) (tr : Trap) : (s.clearStorePoison u tr).holders = s.holders := by unfold State.clearStorePoison; split <;> (try split) <;> simp
@[simp] theorem State.clearStorePoison_campaigns (s : State) (u : Nat) (tr : Trap) : (s.clearStorePoison u tr).campaigns = s.campaigns := by unfold State.clearStorePoison; split <;> (try split) <;> simp
@[simp] theorem State.clearStorePoison_chanJobs (s : State) (u : Nat) (tr : Trap) : (s.clearStorePoison u tr).chanJobs = s.chanJobs := by unfold State.clearStorePoison; split <;> (try split) <;> simp
@[simp] theorem State.clearStorePoison_routeMsgs (s : State) (u : Nat) (tr : Trap) : (s.clearStorePoison u tr).routeMsgs = s.routeMsgs := by unfold State.clearStorePoison; split <;> (try split) <;> simp
@[simp] theorem State.clearStorePoison_routeAcks (s : State) (u : Nat) (tr : Trap) : (s.clearStorePoison u tr).routeAcks = s.routeAcks := by unfold State.clearStorePoison; split <;> (try split) <;> simp
@[simp] theorem State.clearStorePoison_transfers (s : State) (u : Nat) (tr : Trap) : (s.clearStorePoison u tr).transfers = s.transfers := by unfold State.clearStorePoison; split <;> (try split) <;> simp
@[simp] theorem State.clearStorePoison_mirrors (s : State) (u : Nat) (tr : Trap) : (s.clearStorePoison u tr).mirrors = s.mirrors := by unfold State.clearStorePoison; split <;> (try split) <;> simp
@[simp] theorem State.clearStorePoison_prepares (s : State) (u : Nat) (tr : Trap) : (s.clearStorePoison u tr).prepares = s.prepares := by unfold State.clearStorePoison; split <;> (try split) <;> simp
@[simp] theorem State.clearStorePoison_prepAcks (s : State) (u : Nat) (tr : Trap) : (s.clearStorePoison u tr).prepAcks = s.prepAcks := by unfold State.clearStorePoison; split <;> (try split) <;> simp
@[simp] theorem State.clearStorePoison_commits (s : State) (u : Nat) (tr : Trap) : (s.clearStorePoison u tr).commits = s.commits := by unfold State.clearStorePoison; split <;> (try split) <;> simp
@[simp] theorem State.clearStorePoison_prepared (s : State) (u : Nat) (tr : Trap) : (s.clearStorePoison u tr).prepared = s.prepared := by unfold State.clearStorePoison; split <;> (try split) <;> simp
@[simp] theorem State.clearStorePoison_notices (s : State) (u : Nat) (tr : Trap) : (s.clearStorePoison u tr).notices = s.notices := by unfold State.clearStorePoison; split <;> (try split) <;> simp
@[simp] theorem State.clearStorePoison_links (s : State) (u : Nat) (tr : Trap) : (s.clearStorePoison u tr).links = s.links := by unfold State.clearStorePoison; split <;> (try split) <;> simp
@[simp] theorem State.clearStorePoison_piers (s : State) (u : Nat) (tr : Trap) : (s.clearStorePoison u tr).piers = s.piers := by unfold State.clearStorePoison; split <;> (try split) <;> simp
@[simp] theorem State.clearStorePoison_worlds (s : State) (u : Nat) (tr : Trap) : (s.clearStorePoison u tr).worlds = s.worlds := by unfold State.clearStorePoison; split <;> (try split) <;> simp
@[simp] theorem State.clearStorePoison_samplings (s : State) (u : Nat) (tr : Trap) : (s.clearStorePoison u tr).samplings = s.samplings := by unfold State.clearStorePoison; split <;> (try split) <;> simp
@[simp] theorem State.clearStorePoison_abutLogs (s : State) (u : Nat) (tr : Trap) : (s.clearStorePoison u tr).abutLogs = s.abutLogs := by unfold State.clearStorePoison; split <;> (try split) <;> simp
@[simp] theorem State.clearStorePoison_abutDccs (s : State) (u : Nat) (tr : Trap) : (s.clearStorePoison u tr).abutDccs = s.abutDccs := by unfold State.clearStorePoison; split <;> (try split) <;> simp
@[simp] theorem State.clearStorePoison_host (s : State) (u : Nat) (tr : Trap) : (s.clearStorePoison u tr).host = s.host := by unfold State.clearStorePoison; split <;> (try split) <;> simp
@[simp] theorem State.clearStorePoison_net (s : State) (u : Nat) (tr : Trap) : (s.clearStorePoison u tr).net = s.net := by unfold State.clearStorePoison; split <;> (try split) <;> simp
@[simp] theorem State.clearStorePoison_boot (s : State) (u : Nat) (tr : Trap) : (s.clearStorePoison u tr).boot = s.boot := by unfold State.clearStorePoison; split <;> (try split) <;> simp

@[simp] theorem State.modOp_cur (s : State) (n : Nat) (f : OpRec → OpRec) : (s.modOp n f).cur = s.cur := by unfold State.modOp; split <;> (try dsimp only) <;> (try split) <;> simp
@[simp] theorem State.modOp_agenda (s : State) (n : Nat) (f : OpRec → OpRec) : (s.modOp n f).agenda = s.agenda := by unfold State.modOp; split <;> (try dsimp only) <;> (try split) <;> simp
@[simp] theorem State.modOp_phase (s : State) (n : Nat) (f : OpRec → OpRec) : (s.modOp n f).phase = s.phase := by unfold State.modOp; split <;> (try dsimp only) <;> (try split) <;> simp
@[simp] theorem State.modOp_nextId (s : State) (n : Nat) (f : OpRec → OpRec) : (s.modOp n f).nextId = s.nextId := by unfold State.modOp; split <;> (try dsimp only) <;> (try split) <;> simp
@[simp] theorem State.modOp_free (s : State) (n : Nat) (f : OpRec → OpRec) : (s.modOp n f).free = s.free := by unfold State.modOp; split <;> (try dsimp only) <;> (try split) <;> simp
@[simp] theorem State.modOp_tagFails (s : State) (n : Nat) (f : OpRec → OpRec) : (s.modOp n f).tagFails = s.tagFails := by unfold State.modOp; split <;> (try dsimp only) <;> (try split) <;> simp
@[simp] theorem State.modOp_badWorlds (s : State) (n : Nat) (f : OpRec → OpRec) : (s.modOp n f).badWorlds = s.badWorlds := by unfold State.modOp; split <;> (try dsimp only) <;> (try split) <;> simp
@[simp] theorem State.modOp_variant (s : State) (n : Nat) (f : OpRec → OpRec) : (s.modOp n f).variant = s.variant := by unfold State.modOp; split <;> (try dsimp only) <;> (try split) <;> simp
@[simp] theorem State.modOp_capDies (s : State) (n : Nat) (f : OpRec → OpRec) : (s.modOp n f).capDies = s.capDies := by unfold State.modOp; split <;> (try dsimp only) <;> (try split) <;> simp
@[simp] theorem State.modOp_capCxl (s : State) (n : Nat) (f : OpRec → OpRec) : (s.modOp n f).capCxl = s.capCxl := by unfold State.modOp; split <;> (try dsimp only) <;> (try split) <;> simp
@[simp] theorem State.modOp_capNet (s : State) (n : Nat) (f : OpRec → OpRec) : (s.modOp n f).capNet = s.capNet := by unfold State.modOp; split <;> (try dsimp only) <;> (try split) <;> simp
@[simp] theorem State.modOp_crews (s : State) (n : Nat) (f : OpRec → OpRec) : (s.modOp n f).crews = s.crews := by unfold State.modOp; split <;> (try dsimp only) <;> (try split) <;> simp
@[simp] theorem State.modOp_cards (s : State) (n : Nat) (f : OpRec → OpRec) : (s.modOp n f).cards = s.cards := by unfold State.modOp; split <;> (try dsimp only) <;> (try split) <;> simp
@[simp] theorem State.modOp_handles (s : State) (n : Nat) (f : OpRec → OpRec) : (s.modOp n f).handles = s.handles := by unfold State.modOp; split <;> (try dsimp only) <;> (try split) <;> simp
@[simp] theorem State.modOp_dies (s : State) (n : Nat) (f : OpRec → OpRec) : (s.modOp n f).dies = s.dies := by unfold State.modOp; split <;> (try dsimp only) <;> (try split) <;> simp
@[simp] theorem State.modOp_cores (s : State) (n : Nat) (f : OpRec → OpRec) : (s.modOp n f).cores = s.cores := by unfold State.modOp; split <;> (try dsimp only) <;> (try split) <;> simp
@[simp] theorem State.modOp_copies (s : State) (n : Nat) (f : OpRec → OpRec) : (s.modOp n f).copies = s.copies := by unfold State.modOp; split <;> (try dsimp only) <;> (try split) <;> simp
@[simp] theorem State.modOp_bars (s : State) (n : Nat) (f : OpRec → OpRec) : (s.modOp n f).bars = s.bars := by unfold State.modOp; split <;> (try dsimp only) <;> (try split) <;> simp
@[simp] theorem State.modOp_mem (s : State) (n : Nat) (f : OpRec → OpRec) : (s.modOp n f).mem = s.mem := by unfold State.modOp; split <;> (try dsimp only) <;> (try split) <;> simp
@[simp] theorem State.modOp_lands (s : State) (n : Nat) (f : OpRec → OpRec) : (s.modOp n f).lands = s.lands := by unfold State.modOp; split <;> (try dsimp only) <;> (try split) <;> simp
@[simp] theorem State.modOp_pkts (s : State) (n : Nat) (f : OpRec → OpRec) : (s.modOp n f).pkts = s.pkts := by unfold State.modOp; split <;> (try dsimp only) <;> (try split) <;> simp
@[simp] theorem State.modOp_replies (s : State) (n : Nat) (f : OpRec → OpRec) : (s.modOp n f).replies = s.replies := by unfold State.modOp; split <;> (try dsimp only) <;> (try split) <;> simp
@[simp] theorem State.modOp_wins (s : State) (n : Nat) (f : OpRec → OpRec) : (s.modOp n f).wins = s.wins := by unfold State.modOp; split <;> (try dsimp only) <;> (try split) <;> simp
@[simp] theorem State.modOp_nodes (s : State) (n : Nat) (f : OpRec → OpRec) : (s.modOp n f).nodes = s.nodes := by unfold State.modOp; split <;> (try dsimp only) <;> (try split) <;> simp
@[simp] theorem State.modOp_holders (s : State) (n : Nat) (f : OpRec → OpRec) : (s.modOp n f).holders = s.holders := by unfold State.modOp; split <;> (try dsimp only) <;> (try split) <;> simp
@[simp] theorem State.modOp_campaigns (s : State) (n : Nat) (f : OpRec → OpRec) : (s.modOp n f).campaigns = s.campaigns := by unfold State.modOp; split <;> (try dsimp only) <;> (try split) <;> simp
@[simp] theorem State.modOp_chanJobs (s : State) (n : Nat) (f : OpRec → OpRec) : (s.modOp n f).chanJobs = s.chanJobs := by unfold State.modOp; split <;> (try dsimp only) <;> (try split) <;> simp
@[simp] theorem State.modOp_routeMsgs (s : State) (n : Nat) (f : OpRec → OpRec) : (s.modOp n f).routeMsgs = s.routeMsgs := by unfold State.modOp; split <;> (try dsimp only) <;> (try split) <;> simp
@[simp] theorem State.modOp_routeAcks (s : State) (n : Nat) (f : OpRec → OpRec) : (s.modOp n f).routeAcks = s.routeAcks := by unfold State.modOp; split <;> (try dsimp only) <;> (try split) <;> simp
@[simp] theorem State.modOp_transfers (s : State) (n : Nat) (f : OpRec → OpRec) : (s.modOp n f).transfers = s.transfers := by unfold State.modOp; split <;> (try dsimp only) <;> (try split) <;> simp
@[simp] theorem State.modOp_mirrors (s : State) (n : Nat) (f : OpRec → OpRec) : (s.modOp n f).mirrors = s.mirrors := by unfold State.modOp; split <;> (try dsimp only) <;> (try split) <;> simp
@[simp] theorem State.modOp_prepares (s : State) (n : Nat) (f : OpRec → OpRec) : (s.modOp n f).prepares = s.prepares := by unfold State.modOp; split <;> (try dsimp only) <;> (try split) <;> simp
@[simp] theorem State.modOp_prepAcks (s : State) (n : Nat) (f : OpRec → OpRec) : (s.modOp n f).prepAcks = s.prepAcks := by unfold State.modOp; split <;> (try dsimp only) <;> (try split) <;> simp
@[simp] theorem State.modOp_commits (s : State) (n : Nat) (f : OpRec → OpRec) : (s.modOp n f).commits = s.commits := by unfold State.modOp; split <;> (try dsimp only) <;> (try split) <;> simp
@[simp] theorem State.modOp_prepared (s : State) (n : Nat) (f : OpRec → OpRec) : (s.modOp n f).prepared = s.prepared := by unfold State.modOp; split <;> (try dsimp only) <;> (try split) <;> simp
@[simp] theorem State.modOp_notices (s : State) (n : Nat) (f : OpRec → OpRec) : (s.modOp n f).notices = s.notices := by unfold State.modOp; split <;> (try dsimp only) <;> (try split) <;> simp
@[simp] theorem State.modOp_links (s : State) (n : Nat) (f : OpRec → OpRec) : (s.modOp n f).links = s.links := by unfold State.modOp; split <;> (try dsimp only) <;> (try split) <;> simp
@[simp] theorem State.modOp_piers (s : State) (n : Nat) (f : OpRec → OpRec) : (s.modOp n f).piers = s.piers := by unfold State.modOp; split <;> (try dsimp only) <;> (try split) <;> simp
@[simp] theorem State.modOp_worlds (s : State) (n : Nat) (f : OpRec → OpRec) : (s.modOp n f).worlds = s.worlds := by unfold State.modOp; split <;> (try dsimp only) <;> (try split) <;> simp
@[simp] theorem State.modOp_samplings (s : State) (n : Nat) (f : OpRec → OpRec) : (s.modOp n f).samplings = s.samplings := by unfold State.modOp; split <;> (try dsimp only) <;> (try split) <;> simp
@[simp] theorem State.modOp_abutLogs (s : State) (n : Nat) (f : OpRec → OpRec) : (s.modOp n f).abutLogs = s.abutLogs := by unfold State.modOp; split <;> (try dsimp only) <;> (try split) <;> simp
@[simp] theorem State.modOp_abutDccs (s : State) (n : Nat) (f : OpRec → OpRec) : (s.modOp n f).abutDccs = s.abutDccs := by unfold State.modOp; split <;> (try dsimp only) <;> (try split) <;> simp
@[simp] theorem State.modOp_host (s : State) (n : Nat) (f : OpRec → OpRec) : (s.modOp n f).host = s.host := by unfold State.modOp; split <;> (try dsimp only) <;> (try split) <;> simp
@[simp] theorem State.modOp_net (s : State) (n : Nat) (f : OpRec → OpRec) : (s.modOp n f).net = s.net := by unfold State.modOp; split <;> (try dsimp only) <;> (try split) <;> simp
@[simp] theorem State.modOp_boot (s : State) (n : Nat) (f : OpRec → OpRec) : (s.modOp n f).boot = s.boot := by unfold State.modOp; split <;> (try dsimp only) <;> (try split) <;> simp

@[simp] theorem State.addOp_cur (s : State) (o : OpRec) : (s.addOp o).cur = s.cur := by unfold State.addOp; split <;> simp
@[simp] theorem State.addOp_agenda (s : State) (o : OpRec) : (s.addOp o).agenda = s.agenda := by unfold State.addOp; split <;> simp
@[simp] theorem State.addOp_phase (s : State) (o : OpRec) : (s.addOp o).phase = s.phase := by unfold State.addOp; split <;> simp
@[simp] theorem State.addOp_nextId (s : State) (o : OpRec) : (s.addOp o).nextId = s.nextId := by unfold State.addOp; split <;> simp
@[simp] theorem State.addOp_free (s : State) (o : OpRec) : (s.addOp o).free = s.free := by unfold State.addOp; split <;> simp
@[simp] theorem State.addOp_tagFails (s : State) (o : OpRec) : (s.addOp o).tagFails = s.tagFails := by unfold State.addOp; split <;> simp
@[simp] theorem State.addOp_badWorlds (s : State) (o : OpRec) : (s.addOp o).badWorlds = s.badWorlds := by unfold State.addOp; split <;> simp
@[simp] theorem State.addOp_variant (s : State) (o : OpRec) : (s.addOp o).variant = s.variant := by unfold State.addOp; split <;> simp
@[simp] theorem State.addOp_capDies (s : State) (o : OpRec) : (s.addOp o).capDies = s.capDies := by unfold State.addOp; split <;> simp
@[simp] theorem State.addOp_capCxl (s : State) (o : OpRec) : (s.addOp o).capCxl = s.capCxl := by unfold State.addOp; split <;> simp
@[simp] theorem State.addOp_capNet (s : State) (o : OpRec) : (s.addOp o).capNet = s.capNet := by unfold State.addOp; split <;> simp
@[simp] theorem State.addOp_crews (s : State) (o : OpRec) : (s.addOp o).crews = s.crews := by unfold State.addOp; split <;> simp
@[simp] theorem State.addOp_cards (s : State) (o : OpRec) : (s.addOp o).cards = s.cards := by unfold State.addOp; split <;> simp
@[simp] theorem State.addOp_handles (s : State) (o : OpRec) : (s.addOp o).handles = s.handles := by unfold State.addOp; split <;> simp
@[simp] theorem State.addOp_dies (s : State) (o : OpRec) : (s.addOp o).dies = s.dies := by unfold State.addOp; split <;> simp
@[simp] theorem State.addOp_cores (s : State) (o : OpRec) : (s.addOp o).cores = s.cores := by unfold State.addOp; split <;> simp
@[simp] theorem State.addOp_copies (s : State) (o : OpRec) : (s.addOp o).copies = s.copies := by unfold State.addOp; split <;> simp
@[simp] theorem State.addOp_bars (s : State) (o : OpRec) : (s.addOp o).bars = s.bars := by unfold State.addOp; split <;> simp
@[simp] theorem State.addOp_mem (s : State) (o : OpRec) : (s.addOp o).mem = s.mem := by unfold State.addOp; split <;> simp
@[simp] theorem State.addOp_lands (s : State) (o : OpRec) : (s.addOp o).lands = s.lands := by unfold State.addOp; split <;> simp
@[simp] theorem State.addOp_pkts (s : State) (o : OpRec) : (s.addOp o).pkts = s.pkts := by unfold State.addOp; split <;> simp
@[simp] theorem State.addOp_replies (s : State) (o : OpRec) : (s.addOp o).replies = s.replies := by unfold State.addOp; split <;> simp
@[simp] theorem State.addOp_wins (s : State) (o : OpRec) : (s.addOp o).wins = s.wins := by unfold State.addOp; split <;> simp
@[simp] theorem State.addOp_nodes (s : State) (o : OpRec) : (s.addOp o).nodes = s.nodes := by unfold State.addOp; split <;> simp
@[simp] theorem State.addOp_holders (s : State) (o : OpRec) : (s.addOp o).holders = s.holders := by unfold State.addOp; split <;> simp
@[simp] theorem State.addOp_campaigns (s : State) (o : OpRec) : (s.addOp o).campaigns = s.campaigns := by unfold State.addOp; split <;> simp
@[simp] theorem State.addOp_chanJobs (s : State) (o : OpRec) : (s.addOp o).chanJobs = s.chanJobs := by unfold State.addOp; split <;> simp
@[simp] theorem State.addOp_routeMsgs (s : State) (o : OpRec) : (s.addOp o).routeMsgs = s.routeMsgs := by unfold State.addOp; split <;> simp
@[simp] theorem State.addOp_routeAcks (s : State) (o : OpRec) : (s.addOp o).routeAcks = s.routeAcks := by unfold State.addOp; split <;> simp
@[simp] theorem State.addOp_transfers (s : State) (o : OpRec) : (s.addOp o).transfers = s.transfers := by unfold State.addOp; split <;> simp
@[simp] theorem State.addOp_mirrors (s : State) (o : OpRec) : (s.addOp o).mirrors = s.mirrors := by unfold State.addOp; split <;> simp
@[simp] theorem State.addOp_prepares (s : State) (o : OpRec) : (s.addOp o).prepares = s.prepares := by unfold State.addOp; split <;> simp
@[simp] theorem State.addOp_prepAcks (s : State) (o : OpRec) : (s.addOp o).prepAcks = s.prepAcks := by unfold State.addOp; split <;> simp
@[simp] theorem State.addOp_commits (s : State) (o : OpRec) : (s.addOp o).commits = s.commits := by unfold State.addOp; split <;> simp
@[simp] theorem State.addOp_prepared (s : State) (o : OpRec) : (s.addOp o).prepared = s.prepared := by unfold State.addOp; split <;> simp
@[simp] theorem State.addOp_notices (s : State) (o : OpRec) : (s.addOp o).notices = s.notices := by unfold State.addOp; split <;> simp
@[simp] theorem State.addOp_links (s : State) (o : OpRec) : (s.addOp o).links = s.links := by unfold State.addOp; split <;> simp
@[simp] theorem State.addOp_piers (s : State) (o : OpRec) : (s.addOp o).piers = s.piers := by unfold State.addOp; split <;> simp
@[simp] theorem State.addOp_worlds (s : State) (o : OpRec) : (s.addOp o).worlds = s.worlds := by unfold State.addOp; split <;> simp
@[simp] theorem State.addOp_samplings (s : State) (o : OpRec) : (s.addOp o).samplings = s.samplings := by unfold State.addOp; split <;> simp
@[simp] theorem State.addOp_abutLogs (s : State) (o : OpRec) : (s.addOp o).abutLogs = s.abutLogs := by unfold State.addOp; split <;> simp
@[simp] theorem State.addOp_abutDccs (s : State) (o : OpRec) : (s.addOp o).abutDccs = s.abutDccs := by unfold State.addOp; split <;> simp
@[simp] theorem State.addOp_host (s : State) (o : OpRec) : (s.addOp o).host = s.host := by unfold State.addOp; split <;> simp
@[simp] theorem State.addOp_net (s : State) (o : OpRec) : (s.addOp o).net = s.net := by unfold State.addOp; split <;> simp
@[simp] theorem State.addOp_boot (s : State) (o : OpRec) : (s.addOp o).boot = s.boot := by unfold State.addOp; split <;> simp

@[simp] theorem State.abandon_cur (s : State) (u : Nat) : (s.abandon u).cur = s.cur := by unfold State.abandon; simp
@[simp] theorem State.abandon_agenda (s : State) (u : Nat) : (s.abandon u).agenda = s.agenda := by unfold State.abandon; simp
@[simp] theorem State.abandon_phase (s : State) (u : Nat) : (s.abandon u).phase = s.phase := by unfold State.abandon; simp
@[simp] theorem State.abandon_nextId (s : State) (u : Nat) : (s.abandon u).nextId = s.nextId := by unfold State.abandon; simp
@[simp] theorem State.abandon_free (s : State) (u : Nat) : (s.abandon u).free = s.free := by unfold State.abandon; simp
@[simp] theorem State.abandon_tagFails (s : State) (u : Nat) : (s.abandon u).tagFails = s.tagFails := by unfold State.abandon; simp
@[simp] theorem State.abandon_badWorlds (s : State) (u : Nat) : (s.abandon u).badWorlds = s.badWorlds := by unfold State.abandon; simp
@[simp] theorem State.abandon_variant (s : State) (u : Nat) : (s.abandon u).variant = s.variant := by unfold State.abandon; simp
@[simp] theorem State.abandon_capDies (s : State) (u : Nat) : (s.abandon u).capDies = s.capDies := by unfold State.abandon; simp
@[simp] theorem State.abandon_capCxl (s : State) (u : Nat) : (s.abandon u).capCxl = s.capCxl := by unfold State.abandon; simp
@[simp] theorem State.abandon_capNet (s : State) (u : Nat) : (s.abandon u).capNet = s.capNet := by unfold State.abandon; simp
@[simp] theorem State.abandon_crews (s : State) (u : Nat) : (s.abandon u).crews = s.crews := by unfold State.abandon; simp
@[simp] theorem State.abandon_cards (s : State) (u : Nat) : (s.abandon u).cards = s.cards := by unfold State.abandon; simp
@[simp] theorem State.abandon_handles (s : State) (u : Nat) : (s.abandon u).handles = s.handles := by unfold State.abandon; simp
@[simp] theorem State.abandon_dies (s : State) (u : Nat) : (s.abandon u).dies = s.dies := by unfold State.abandon; simp
@[simp] theorem State.abandon_cores (s : State) (u : Nat) : (s.abandon u).cores = s.cores := by unfold State.abandon; simp
@[simp] theorem State.abandon_copies (s : State) (u : Nat) : (s.abandon u).copies = s.copies := by unfold State.abandon; simp
@[simp] theorem State.abandon_bars (s : State) (u : Nat) : (s.abandon u).bars = s.bars := by unfold State.abandon; simp
@[simp] theorem State.abandon_mem (s : State) (u : Nat) : (s.abandon u).mem = s.mem := by unfold State.abandon; simp
@[simp] theorem State.abandon_lands (s : State) (u : Nat) : (s.abandon u).lands = s.lands := by unfold State.abandon; simp
@[simp] theorem State.abandon_pkts (s : State) (u : Nat) : (s.abandon u).pkts = s.pkts := by unfold State.abandon; simp
@[simp] theorem State.abandon_replies (s : State) (u : Nat) : (s.abandon u).replies = s.replies := by unfold State.abandon; simp
@[simp] theorem State.abandon_wins (s : State) (u : Nat) : (s.abandon u).wins = s.wins := by unfold State.abandon; simp
@[simp] theorem State.abandon_nodes (s : State) (u : Nat) : (s.abandon u).nodes = s.nodes := by unfold State.abandon; simp
@[simp] theorem State.abandon_holders (s : State) (u : Nat) : (s.abandon u).holders = s.holders := by unfold State.abandon; simp
@[simp] theorem State.abandon_campaigns (s : State) (u : Nat) : (s.abandon u).campaigns = s.campaigns := by unfold State.abandon; simp
@[simp] theorem State.abandon_chanJobs (s : State) (u : Nat) : (s.abandon u).chanJobs = s.chanJobs := by unfold State.abandon; simp
@[simp] theorem State.abandon_routeMsgs (s : State) (u : Nat) : (s.abandon u).routeMsgs = s.routeMsgs := by unfold State.abandon; simp
@[simp] theorem State.abandon_routeAcks (s : State) (u : Nat) : (s.abandon u).routeAcks = s.routeAcks := by unfold State.abandon; simp
@[simp] theorem State.abandon_transfers (s : State) (u : Nat) : (s.abandon u).transfers = s.transfers := by unfold State.abandon; simp
@[simp] theorem State.abandon_mirrors (s : State) (u : Nat) : (s.abandon u).mirrors = s.mirrors := by unfold State.abandon; simp
@[simp] theorem State.abandon_prepares (s : State) (u : Nat) : (s.abandon u).prepares = s.prepares := by unfold State.abandon; simp
@[simp] theorem State.abandon_prepAcks (s : State) (u : Nat) : (s.abandon u).prepAcks = s.prepAcks := by unfold State.abandon; simp
@[simp] theorem State.abandon_commits (s : State) (u : Nat) : (s.abandon u).commits = s.commits := by unfold State.abandon; simp
@[simp] theorem State.abandon_prepared (s : State) (u : Nat) : (s.abandon u).prepared = s.prepared := by unfold State.abandon; simp
@[simp] theorem State.abandon_notices (s : State) (u : Nat) : (s.abandon u).notices = s.notices := by unfold State.abandon; simp
@[simp] theorem State.abandon_links (s : State) (u : Nat) : (s.abandon u).links = s.links := by unfold State.abandon; simp
@[simp] theorem State.abandon_piers (s : State) (u : Nat) : (s.abandon u).piers = s.piers := by unfold State.abandon; simp
@[simp] theorem State.abandon_worlds (s : State) (u : Nat) : (s.abandon u).worlds = s.worlds := by unfold State.abandon; simp
@[simp] theorem State.abandon_samplings (s : State) (u : Nat) : (s.abandon u).samplings = s.samplings := by unfold State.abandon; simp
@[simp] theorem State.abandon_abutLogs (s : State) (u : Nat) : (s.abandon u).abutLogs = s.abutLogs := by unfold State.abandon; simp
@[simp] theorem State.abandon_abutDccs (s : State) (u : Nat) : (s.abandon u).abutDccs = s.abutDccs := by unfold State.abandon; simp
@[simp] theorem State.abandon_host (s : State) (u : Nat) : (s.abandon u).host = s.host := by unfold State.abandon; simp
@[simp] theorem State.abandon_net (s : State) (u : Nat) : (s.abandon u).net = s.net := by unfold State.abandon; simp
@[simp] theorem State.abandon_boot (s : State) (u : Nat) : (s.abandon u).boot = s.boot := by unfold State.abandon; simp

@[simp] theorem State.suspend_cur (s : State) (u : Nat) (i : TrapInfo) : (s.suspend u i).cur = s.cur := by unfold State.suspend; simp
@[simp] theorem State.suspend_agenda (s : State) (u : Nat) (i : TrapInfo) : (s.suspend u i).agenda = s.agenda := by unfold State.suspend; simp
@[simp] theorem State.suspend_phase (s : State) (u : Nat) (i : TrapInfo) : (s.suspend u i).phase = s.phase := by unfold State.suspend; simp
@[simp] theorem State.suspend_nextId (s : State) (u : Nat) (i : TrapInfo) : (s.suspend u i).nextId = s.nextId := by unfold State.suspend; simp
@[simp] theorem State.suspend_free (s : State) (u : Nat) (i : TrapInfo) : (s.suspend u i).free = s.free := by unfold State.suspend; simp
@[simp] theorem State.suspend_tagFails (s : State) (u : Nat) (i : TrapInfo) : (s.suspend u i).tagFails = s.tagFails := by unfold State.suspend; simp
@[simp] theorem State.suspend_badWorlds (s : State) (u : Nat) (i : TrapInfo) : (s.suspend u i).badWorlds = s.badWorlds := by unfold State.suspend; simp
@[simp] theorem State.suspend_variant (s : State) (u : Nat) (i : TrapInfo) : (s.suspend u i).variant = s.variant := by unfold State.suspend; simp
@[simp] theorem State.suspend_capDies (s : State) (u : Nat) (i : TrapInfo) : (s.suspend u i).capDies = s.capDies := by unfold State.suspend; simp
@[simp] theorem State.suspend_capCxl (s : State) (u : Nat) (i : TrapInfo) : (s.suspend u i).capCxl = s.capCxl := by unfold State.suspend; simp
@[simp] theorem State.suspend_capNet (s : State) (u : Nat) (i : TrapInfo) : (s.suspend u i).capNet = s.capNet := by unfold State.suspend; simp
@[simp] theorem State.suspend_crews (s : State) (u : Nat) (i : TrapInfo) : (s.suspend u i).crews = s.crews := by unfold State.suspend; simp
@[simp] theorem State.suspend_cards (s : State) (u : Nat) (i : TrapInfo) : (s.suspend u i).cards = s.cards := by unfold State.suspend; simp
@[simp] theorem State.suspend_handles (s : State) (u : Nat) (i : TrapInfo) : (s.suspend u i).handles = s.handles := by unfold State.suspend; simp
@[simp] theorem State.suspend_dies (s : State) (u : Nat) (i : TrapInfo) : (s.suspend u i).dies = s.dies := by unfold State.suspend; simp
@[simp] theorem State.suspend_cores (s : State) (u : Nat) (i : TrapInfo) : (s.suspend u i).cores = s.cores := by unfold State.suspend; simp
@[simp] theorem State.suspend_copies (s : State) (u : Nat) (i : TrapInfo) : (s.suspend u i).copies = s.copies := by unfold State.suspend; simp
@[simp] theorem State.suspend_bars (s : State) (u : Nat) (i : TrapInfo) : (s.suspend u i).bars = s.bars := by unfold State.suspend; simp
@[simp] theorem State.suspend_mem (s : State) (u : Nat) (i : TrapInfo) : (s.suspend u i).mem = s.mem := by unfold State.suspend; simp
@[simp] theorem State.suspend_lands (s : State) (u : Nat) (i : TrapInfo) : (s.suspend u i).lands = s.lands := by unfold State.suspend; simp
@[simp] theorem State.suspend_pkts (s : State) (u : Nat) (i : TrapInfo) : (s.suspend u i).pkts = s.pkts := by unfold State.suspend; simp
@[simp] theorem State.suspend_replies (s : State) (u : Nat) (i : TrapInfo) : (s.suspend u i).replies = s.replies := by unfold State.suspend; simp
@[simp] theorem State.suspend_wins (s : State) (u : Nat) (i : TrapInfo) : (s.suspend u i).wins = s.wins := by unfold State.suspend; simp
@[simp] theorem State.suspend_nodes (s : State) (u : Nat) (i : TrapInfo) : (s.suspend u i).nodes = s.nodes := by unfold State.suspend; simp
@[simp] theorem State.suspend_holders (s : State) (u : Nat) (i : TrapInfo) : (s.suspend u i).holders = s.holders := by unfold State.suspend; simp
@[simp] theorem State.suspend_campaigns (s : State) (u : Nat) (i : TrapInfo) : (s.suspend u i).campaigns = s.campaigns := by unfold State.suspend; simp
@[simp] theorem State.suspend_chanJobs (s : State) (u : Nat) (i : TrapInfo) : (s.suspend u i).chanJobs = s.chanJobs := by unfold State.suspend; simp
@[simp] theorem State.suspend_routeMsgs (s : State) (u : Nat) (i : TrapInfo) : (s.suspend u i).routeMsgs = s.routeMsgs := by unfold State.suspend; simp
@[simp] theorem State.suspend_routeAcks (s : State) (u : Nat) (i : TrapInfo) : (s.suspend u i).routeAcks = s.routeAcks := by unfold State.suspend; simp
@[simp] theorem State.suspend_transfers (s : State) (u : Nat) (i : TrapInfo) : (s.suspend u i).transfers = s.transfers := by unfold State.suspend; simp
@[simp] theorem State.suspend_mirrors (s : State) (u : Nat) (i : TrapInfo) : (s.suspend u i).mirrors = s.mirrors := by unfold State.suspend; simp
@[simp] theorem State.suspend_prepares (s : State) (u : Nat) (i : TrapInfo) : (s.suspend u i).prepares = s.prepares := by unfold State.suspend; simp
@[simp] theorem State.suspend_prepAcks (s : State) (u : Nat) (i : TrapInfo) : (s.suspend u i).prepAcks = s.prepAcks := by unfold State.suspend; simp
@[simp] theorem State.suspend_commits (s : State) (u : Nat) (i : TrapInfo) : (s.suspend u i).commits = s.commits := by unfold State.suspend; simp
@[simp] theorem State.suspend_prepared (s : State) (u : Nat) (i : TrapInfo) : (s.suspend u i).prepared = s.prepared := by unfold State.suspend; simp
@[simp] theorem State.suspend_notices (s : State) (u : Nat) (i : TrapInfo) : (s.suspend u i).notices = s.notices := by unfold State.suspend; simp
@[simp] theorem State.suspend_links (s : State) (u : Nat) (i : TrapInfo) : (s.suspend u i).links = s.links := by unfold State.suspend; simp
@[simp] theorem State.suspend_piers (s : State) (u : Nat) (i : TrapInfo) : (s.suspend u i).piers = s.piers := by unfold State.suspend; simp
@[simp] theorem State.suspend_worlds (s : State) (u : Nat) (i : TrapInfo) : (s.suspend u i).worlds = s.worlds := by unfold State.suspend; simp
@[simp] theorem State.suspend_samplings (s : State) (u : Nat) (i : TrapInfo) : (s.suspend u i).samplings = s.samplings := by unfold State.suspend; simp
@[simp] theorem State.suspend_abutLogs (s : State) (u : Nat) (i : TrapInfo) : (s.suspend u i).abutLogs = s.abutLogs := by unfold State.suspend; simp
@[simp] theorem State.suspend_abutDccs (s : State) (u : Nat) (i : TrapInfo) : (s.suspend u i).abutDccs = s.abutDccs := by unfold State.suspend; simp
@[simp] theorem State.suspend_host (s : State) (u : Nat) (i : TrapInfo) : (s.suspend u i).host = s.host := by unfold State.suspend; simp
@[simp] theorem State.suspend_net (s : State) (u : Nat) (i : TrapInfo) : (s.suspend u i).net = s.net := by unfold State.suspend; simp
@[simp] theorem State.suspend_boot (s : State) (u : Nat) (i : TrapInfo) : (s.suspend u i).boot = s.boot := by unfold State.suspend; simp

@[simp] theorem State.takeTrap_cur (s : State) (u : Nat) (h : VA) (tr : Trap) (b : Bool) : (s.takeTrap u h tr b).cur = s.cur := by unfold State.takeTrap; simp
@[simp] theorem State.takeTrap_agenda (s : State) (u : Nat) (h : VA) (tr : Trap) (b : Bool) : (s.takeTrap u h tr b).agenda = s.agenda := by unfold State.takeTrap; simp
@[simp] theorem State.takeTrap_phase (s : State) (u : Nat) (h : VA) (tr : Trap) (b : Bool) : (s.takeTrap u h tr b).phase = s.phase := by unfold State.takeTrap; simp
@[simp] theorem State.takeTrap_nextId (s : State) (u : Nat) (h : VA) (tr : Trap) (b : Bool) : (s.takeTrap u h tr b).nextId = s.nextId := by unfold State.takeTrap; simp
@[simp] theorem State.takeTrap_tagFails (s : State) (u : Nat) (h : VA) (tr : Trap) (b : Bool) : (s.takeTrap u h tr b).tagFails = s.tagFails := by unfold State.takeTrap; simp
@[simp] theorem State.takeTrap_badWorlds (s : State) (u : Nat) (h : VA) (tr : Trap) (b : Bool) : (s.takeTrap u h tr b).badWorlds = s.badWorlds := by unfold State.takeTrap; simp
@[simp] theorem State.takeTrap_variant (s : State) (u : Nat) (h : VA) (tr : Trap) (b : Bool) : (s.takeTrap u h tr b).variant = s.variant := by unfold State.takeTrap; simp
@[simp] theorem State.takeTrap_capDies (s : State) (u : Nat) (h : VA) (tr : Trap) (b : Bool) : (s.takeTrap u h tr b).capDies = s.capDies := by unfold State.takeTrap; simp
@[simp] theorem State.takeTrap_capCxl (s : State) (u : Nat) (h : VA) (tr : Trap) (b : Bool) : (s.takeTrap u h tr b).capCxl = s.capCxl := by unfold State.takeTrap; simp
@[simp] theorem State.takeTrap_capNet (s : State) (u : Nat) (h : VA) (tr : Trap) (b : Bool) : (s.takeTrap u h tr b).capNet = s.capNet := by unfold State.takeTrap; simp
@[simp] theorem State.takeTrap_cards (s : State) (u : Nat) (h : VA) (tr : Trap) (b : Bool) : (s.takeTrap u h tr b).cards = s.cards := by unfold State.takeTrap; simp
@[simp] theorem State.takeTrap_handles (s : State) (u : Nat) (h : VA) (tr : Trap) (b : Bool) : (s.takeTrap u h tr b).handles = s.handles := by unfold State.takeTrap; simp
@[simp] theorem State.takeTrap_dies (s : State) (u : Nat) (h : VA) (tr : Trap) (b : Bool) : (s.takeTrap u h tr b).dies = s.dies := by unfold State.takeTrap; simp
@[simp] theorem State.takeTrap_cores (s : State) (u : Nat) (h : VA) (tr : Trap) (b : Bool) : (s.takeTrap u h tr b).cores = s.cores := by unfold State.takeTrap; simp
@[simp] theorem State.takeTrap_copies (s : State) (u : Nat) (h : VA) (tr : Trap) (b : Bool) : (s.takeTrap u h tr b).copies = s.copies := by unfold State.takeTrap; simp
@[simp] theorem State.takeTrap_bars (s : State) (u : Nat) (h : VA) (tr : Trap) (b : Bool) : (s.takeTrap u h tr b).bars = s.bars := by unfold State.takeTrap; simp
@[simp] theorem State.takeTrap_mem (s : State) (u : Nat) (h : VA) (tr : Trap) (b : Bool) : (s.takeTrap u h tr b).mem = s.mem := by unfold State.takeTrap; simp
@[simp] theorem State.takeTrap_lands (s : State) (u : Nat) (h : VA) (tr : Trap) (b : Bool) : (s.takeTrap u h tr b).lands = s.lands := by unfold State.takeTrap; simp
@[simp] theorem State.takeTrap_pkts (s : State) (u : Nat) (h : VA) (tr : Trap) (b : Bool) : (s.takeTrap u h tr b).pkts = s.pkts := by unfold State.takeTrap; simp
@[simp] theorem State.takeTrap_replies (s : State) (u : Nat) (h : VA) (tr : Trap) (b : Bool) : (s.takeTrap u h tr b).replies = s.replies := by unfold State.takeTrap; simp
@[simp] theorem State.takeTrap_wins (s : State) (u : Nat) (h : VA) (tr : Trap) (b : Bool) : (s.takeTrap u h tr b).wins = s.wins := by unfold State.takeTrap; simp
@[simp] theorem State.takeTrap_nodes (s : State) (u : Nat) (h : VA) (tr : Trap) (b : Bool) : (s.takeTrap u h tr b).nodes = s.nodes := by unfold State.takeTrap; simp
@[simp] theorem State.takeTrap_holders (s : State) (u : Nat) (h : VA) (tr : Trap) (b : Bool) : (s.takeTrap u h tr b).holders = s.holders := by unfold State.takeTrap; simp
@[simp] theorem State.takeTrap_campaigns (s : State) (u : Nat) (h : VA) (tr : Trap) (b : Bool) : (s.takeTrap u h tr b).campaigns = s.campaigns := by unfold State.takeTrap; simp
@[simp] theorem State.takeTrap_chanJobs (s : State) (u : Nat) (h : VA) (tr : Trap) (b : Bool) : (s.takeTrap u h tr b).chanJobs = s.chanJobs := by unfold State.takeTrap; simp
@[simp] theorem State.takeTrap_routeMsgs (s : State) (u : Nat) (h : VA) (tr : Trap) (b : Bool) : (s.takeTrap u h tr b).routeMsgs = s.routeMsgs := by unfold State.takeTrap; simp
@[simp] theorem State.takeTrap_routeAcks (s : State) (u : Nat) (h : VA) (tr : Trap) (b : Bool) : (s.takeTrap u h tr b).routeAcks = s.routeAcks := by unfold State.takeTrap; simp
@[simp] theorem State.takeTrap_transfers (s : State) (u : Nat) (h : VA) (tr : Trap) (b : Bool) : (s.takeTrap u h tr b).transfers = s.transfers := by unfold State.takeTrap; simp
@[simp] theorem State.takeTrap_mirrors (s : State) (u : Nat) (h : VA) (tr : Trap) (b : Bool) : (s.takeTrap u h tr b).mirrors = s.mirrors := by unfold State.takeTrap; simp
@[simp] theorem State.takeTrap_prepares (s : State) (u : Nat) (h : VA) (tr : Trap) (b : Bool) : (s.takeTrap u h tr b).prepares = s.prepares := by unfold State.takeTrap; simp
@[simp] theorem State.takeTrap_prepAcks (s : State) (u : Nat) (h : VA) (tr : Trap) (b : Bool) : (s.takeTrap u h tr b).prepAcks = s.prepAcks := by unfold State.takeTrap; simp
@[simp] theorem State.takeTrap_commits (s : State) (u : Nat) (h : VA) (tr : Trap) (b : Bool) : (s.takeTrap u h tr b).commits = s.commits := by unfold State.takeTrap; simp
@[simp] theorem State.takeTrap_prepared (s : State) (u : Nat) (h : VA) (tr : Trap) (b : Bool) : (s.takeTrap u h tr b).prepared = s.prepared := by unfold State.takeTrap; simp
@[simp] theorem State.takeTrap_notices (s : State) (u : Nat) (h : VA) (tr : Trap) (b : Bool) : (s.takeTrap u h tr b).notices = s.notices := by unfold State.takeTrap; simp
@[simp] theorem State.takeTrap_links (s : State) (u : Nat) (h : VA) (tr : Trap) (b : Bool) : (s.takeTrap u h tr b).links = s.links := by unfold State.takeTrap; simp
@[simp] theorem State.takeTrap_piers (s : State) (u : Nat) (h : VA) (tr : Trap) (b : Bool) : (s.takeTrap u h tr b).piers = s.piers := by unfold State.takeTrap; simp
@[simp] theorem State.takeTrap_worlds (s : State) (u : Nat) (h : VA) (tr : Trap) (b : Bool) : (s.takeTrap u h tr b).worlds = s.worlds := by unfold State.takeTrap; simp
@[simp] theorem State.takeTrap_samplings (s : State) (u : Nat) (h : VA) (tr : Trap) (b : Bool) : (s.takeTrap u h tr b).samplings = s.samplings := by unfold State.takeTrap; simp
@[simp] theorem State.takeTrap_abutLogs (s : State) (u : Nat) (h : VA) (tr : Trap) (b : Bool) : (s.takeTrap u h tr b).abutLogs = s.abutLogs := by unfold State.takeTrap; simp
@[simp] theorem State.takeTrap_abutDccs (s : State) (u : Nat) (h : VA) (tr : Trap) (b : Bool) : (s.takeTrap u h tr b).abutDccs = s.abutDccs := by unfold State.takeTrap; simp
@[simp] theorem State.takeTrap_host (s : State) (u : Nat) (h : VA) (tr : Trap) (b : Bool) : (s.takeTrap u h tr b).host = s.host := by unfold State.takeTrap; simp
@[simp] theorem State.takeTrap_net (s : State) (u : Nat) (h : VA) (tr : Trap) (b : Bool) : (s.takeTrap u h tr b).net = s.net := by unfold State.takeTrap; simp
@[simp] theorem State.takeTrap_boot (s : State) (u : Nat) (h : VA) (tr : Trap) (b : Bool) : (s.takeTrap u h tr b).boot = s.boot := by unfold State.takeTrap; simp

@[simp] theorem State.violated_cur (s : State) (u : Nat) (tr : Trap) : (s.violated u tr).cur = s.cur := by unfold State.violated; split <;> (try split) <;> (try split) <;> rfl
@[simp] theorem State.violated_agenda (s : State) (u : Nat) (tr : Trap) : (s.violated u tr).agenda = s.agenda := by unfold State.violated; split <;> (try split) <;> (try split) <;> rfl
@[simp] theorem State.violated_phase (s : State) (u : Nat) (tr : Trap) : (s.violated u tr).phase = s.phase := by unfold State.violated; split <;> (try split) <;> (try split) <;> rfl
@[simp] theorem State.violated_nextId (s : State) (u : Nat) (tr : Trap) : (s.violated u tr).nextId = s.nextId := by unfold State.violated; split <;> (try split) <;> (try split) <;> rfl
@[simp] theorem State.violated_free (s : State) (u : Nat) (tr : Trap) : (s.violated u tr).free = s.free := by unfold State.violated; split <;> (try split) <;> (try split) <;> rfl
@[simp] theorem State.violated_tagFails (s : State) (u : Nat) (tr : Trap) : (s.violated u tr).tagFails = s.tagFails := by unfold State.violated; split <;> (try split) <;> (try split) <;> rfl
@[simp] theorem State.violated_variant (s : State) (u : Nat) (tr : Trap) : (s.violated u tr).variant = s.variant := by unfold State.violated; split <;> (try split) <;> (try split) <;> rfl
@[simp] theorem State.violated_capDies (s : State) (u : Nat) (tr : Trap) : (s.violated u tr).capDies = s.capDies := by unfold State.violated; split <;> (try split) <;> (try split) <;> rfl
@[simp] theorem State.violated_capCxl (s : State) (u : Nat) (tr : Trap) : (s.violated u tr).capCxl = s.capCxl := by unfold State.violated; split <;> (try split) <;> (try split) <;> rfl
@[simp] theorem State.violated_capNet (s : State) (u : Nat) (tr : Trap) : (s.violated u tr).capNet = s.capNet := by unfold State.violated; split <;> (try split) <;> (try split) <;> rfl
@[simp] theorem State.violated_teams (s : State) (u : Nat) (tr : Trap) : (s.violated u tr).teams = s.teams := by unfold State.violated; split <;> (try split) <;> (try split) <;> rfl
@[simp] theorem State.violated_crews (s : State) (u : Nat) (tr : Trap) : (s.violated u tr).crews = s.crews := by unfold State.violated; split <;> (try split) <;> (try split) <;> rfl
@[simp] theorem State.violated_cards (s : State) (u : Nat) (tr : Trap) : (s.violated u tr).cards = s.cards := by unfold State.violated; split <;> (try split) <;> (try split) <;> rfl
@[simp] theorem State.violated_handles (s : State) (u : Nat) (tr : Trap) : (s.violated u tr).handles = s.handles := by unfold State.violated; split <;> (try split) <;> (try split) <;> rfl
@[simp] theorem State.violated_dies (s : State) (u : Nat) (tr : Trap) : (s.violated u tr).dies = s.dies := by unfold State.violated; split <;> (try split) <;> (try split) <;> rfl
@[simp] theorem State.violated_cores (s : State) (u : Nat) (tr : Trap) : (s.violated u tr).cores = s.cores := by unfold State.violated; split <;> (try split) <;> (try split) <;> rfl
@[simp] theorem State.violated_copies (s : State) (u : Nat) (tr : Trap) : (s.violated u tr).copies = s.copies := by unfold State.violated; split <;> (try split) <;> (try split) <;> rfl
@[simp] theorem State.violated_bars (s : State) (u : Nat) (tr : Trap) : (s.violated u tr).bars = s.bars := by unfold State.violated; split <;> (try split) <;> (try split) <;> rfl
@[simp] theorem State.violated_mem (s : State) (u : Nat) (tr : Trap) : (s.violated u tr).mem = s.mem := by unfold State.violated; split <;> (try split) <;> (try split) <;> rfl
@[simp] theorem State.violated_ops (s : State) (u : Nat) (tr : Trap) : (s.violated u tr).ops = s.ops := by unfold State.violated; split <;> (try split) <;> (try split) <;> rfl
@[simp] theorem State.violated_lands (s : State) (u : Nat) (tr : Trap) : (s.violated u tr).lands = s.lands := by unfold State.violated; split <;> (try split) <;> (try split) <;> rfl
@[simp] theorem State.violated_pkts (s : State) (u : Nat) (tr : Trap) : (s.violated u tr).pkts = s.pkts := by unfold State.violated; split <;> (try split) <;> (try split) <;> rfl
@[simp] theorem State.violated_replies (s : State) (u : Nat) (tr : Trap) : (s.violated u tr).replies = s.replies := by unfold State.violated; split <;> (try split) <;> (try split) <;> rfl
@[simp] theorem State.violated_wins (s : State) (u : Nat) (tr : Trap) : (s.violated u tr).wins = s.wins := by unfold State.violated; split <;> (try split) <;> (try split) <;> rfl
@[simp] theorem State.violated_nodes (s : State) (u : Nat) (tr : Trap) : (s.violated u tr).nodes = s.nodes := by unfold State.violated; split <;> (try split) <;> (try split) <;> rfl
@[simp] theorem State.violated_holders (s : State) (u : Nat) (tr : Trap) : (s.violated u tr).holders = s.holders := by unfold State.violated; split <;> (try split) <;> (try split) <;> rfl
@[simp] theorem State.violated_campaigns (s : State) (u : Nat) (tr : Trap) : (s.violated u tr).campaigns = s.campaigns := by unfold State.violated; split <;> (try split) <;> (try split) <;> rfl
@[simp] theorem State.violated_chanJobs (s : State) (u : Nat) (tr : Trap) : (s.violated u tr).chanJobs = s.chanJobs := by unfold State.violated; split <;> (try split) <;> (try split) <;> rfl
@[simp] theorem State.violated_routeMsgs (s : State) (u : Nat) (tr : Trap) : (s.violated u tr).routeMsgs = s.routeMsgs := by unfold State.violated; split <;> (try split) <;> (try split) <;> rfl
@[simp] theorem State.violated_routeAcks (s : State) (u : Nat) (tr : Trap) : (s.violated u tr).routeAcks = s.routeAcks := by unfold State.violated; split <;> (try split) <;> (try split) <;> rfl
@[simp] theorem State.violated_transfers (s : State) (u : Nat) (tr : Trap) : (s.violated u tr).transfers = s.transfers := by unfold State.violated; split <;> (try split) <;> (try split) <;> rfl
@[simp] theorem State.violated_mirrors (s : State) (u : Nat) (tr : Trap) : (s.violated u tr).mirrors = s.mirrors := by unfold State.violated; split <;> (try split) <;> (try split) <;> rfl
@[simp] theorem State.violated_prepares (s : State) (u : Nat) (tr : Trap) : (s.violated u tr).prepares = s.prepares := by unfold State.violated; split <;> (try split) <;> (try split) <;> rfl
@[simp] theorem State.violated_prepAcks (s : State) (u : Nat) (tr : Trap) : (s.violated u tr).prepAcks = s.prepAcks := by unfold State.violated; split <;> (try split) <;> (try split) <;> rfl
@[simp] theorem State.violated_commits (s : State) (u : Nat) (tr : Trap) : (s.violated u tr).commits = s.commits := by unfold State.violated; split <;> (try split) <;> (try split) <;> rfl
@[simp] theorem State.violated_prepared (s : State) (u : Nat) (tr : Trap) : (s.violated u tr).prepared = s.prepared := by unfold State.violated; split <;> (try split) <;> (try split) <;> rfl
@[simp] theorem State.violated_notices (s : State) (u : Nat) (tr : Trap) : (s.violated u tr).notices = s.notices := by unfold State.violated; split <;> (try split) <;> (try split) <;> rfl
@[simp] theorem State.violated_links (s : State) (u : Nat) (tr : Trap) : (s.violated u tr).links = s.links := by unfold State.violated; split <;> (try split) <;> (try split) <;> rfl
@[simp] theorem State.violated_piers (s : State) (u : Nat) (tr : Trap) : (s.violated u tr).piers = s.piers := by unfold State.violated; split <;> (try split) <;> (try split) <;> rfl
@[simp] theorem State.violated_worlds (s : State) (u : Nat) (tr : Trap) : (s.violated u tr).worlds = s.worlds := by unfold State.violated; split <;> (try split) <;> (try split) <;> rfl
@[simp] theorem State.violated_samplings (s : State) (u : Nat) (tr : Trap) : (s.violated u tr).samplings = s.samplings := by unfold State.violated; split <;> (try split) <;> (try split) <;> rfl
@[simp] theorem State.violated_abutLogs (s : State) (u : Nat) (tr : Trap) : (s.violated u tr).abutLogs = s.abutLogs := by unfold State.violated; split <;> (try split) <;> (try split) <;> rfl
@[simp] theorem State.violated_abutDccs (s : State) (u : Nat) (tr : Trap) : (s.violated u tr).abutDccs = s.abutDccs := by unfold State.violated; split <;> (try split) <;> (try split) <;> rfl
@[simp] theorem State.violated_host (s : State) (u : Nat) (tr : Trap) : (s.violated u tr).host = s.host := by unfold State.violated; split <;> (try split) <;> (try split) <;> rfl
@[simp] theorem State.violated_net (s : State) (u : Nat) (tr : Trap) : (s.violated u tr).net = s.net := by unfold State.violated; split <;> (try split) <;> (try split) <;> rfl
@[simp] theorem State.violated_boot (s : State) (u : Nat) (tr : Trap) : (s.violated u tr).boot = s.boot := by unfold State.violated; split <;> (try split) <;> (try split) <;> rfl

@[simp] theorem State.lateTrap_cur (s : State) (u : Nat) (h : VA) (tr : Trap) : (s.lateTrap u h tr).cur = s.cur := by unfold State.lateTrap; simp
@[simp] theorem State.lateTrap_agenda (s : State) (u : Nat) (h : VA) (tr : Trap) : (s.lateTrap u h tr).agenda = s.agenda := by unfold State.lateTrap; simp
@[simp] theorem State.lateTrap_phase (s : State) (u : Nat) (h : VA) (tr : Trap) : (s.lateTrap u h tr).phase = s.phase := by unfold State.lateTrap; simp
@[simp] theorem State.lateTrap_nextId (s : State) (u : Nat) (h : VA) (tr : Trap) : (s.lateTrap u h tr).nextId = s.nextId := by unfold State.lateTrap; simp
@[simp] theorem State.lateTrap_tagFails (s : State) (u : Nat) (h : VA) (tr : Trap) : (s.lateTrap u h tr).tagFails = s.tagFails := by unfold State.lateTrap; simp
@[simp] theorem State.lateTrap_badWorlds (s : State) (u : Nat) (h : VA) (tr : Trap) : (s.lateTrap u h tr).badWorlds = s.badWorlds := by unfold State.lateTrap; simp
@[simp] theorem State.lateTrap_variant (s : State) (u : Nat) (h : VA) (tr : Trap) : (s.lateTrap u h tr).variant = s.variant := by unfold State.lateTrap; simp
@[simp] theorem State.lateTrap_capDies (s : State) (u : Nat) (h : VA) (tr : Trap) : (s.lateTrap u h tr).capDies = s.capDies := by unfold State.lateTrap; simp
@[simp] theorem State.lateTrap_capCxl (s : State) (u : Nat) (h : VA) (tr : Trap) : (s.lateTrap u h tr).capCxl = s.capCxl := by unfold State.lateTrap; simp
@[simp] theorem State.lateTrap_capNet (s : State) (u : Nat) (h : VA) (tr : Trap) : (s.lateTrap u h tr).capNet = s.capNet := by unfold State.lateTrap; simp
@[simp] theorem State.lateTrap_crews (s : State) (u : Nat) (h : VA) (tr : Trap) : (s.lateTrap u h tr).crews = s.crews := by unfold State.lateTrap; simp
@[simp] theorem State.lateTrap_cards (s : State) (u : Nat) (h : VA) (tr : Trap) : (s.lateTrap u h tr).cards = s.cards := by unfold State.lateTrap; simp
@[simp] theorem State.lateTrap_handles (s : State) (u : Nat) (h : VA) (tr : Trap) : (s.lateTrap u h tr).handles = s.handles := by unfold State.lateTrap; simp
@[simp] theorem State.lateTrap_dies (s : State) (u : Nat) (h : VA) (tr : Trap) : (s.lateTrap u h tr).dies = s.dies := by unfold State.lateTrap; simp
@[simp] theorem State.lateTrap_cores (s : State) (u : Nat) (h : VA) (tr : Trap) : (s.lateTrap u h tr).cores = s.cores := by unfold State.lateTrap; simp
@[simp] theorem State.lateTrap_copies (s : State) (u : Nat) (h : VA) (tr : Trap) : (s.lateTrap u h tr).copies = s.copies := by unfold State.lateTrap; simp
@[simp] theorem State.lateTrap_bars (s : State) (u : Nat) (h : VA) (tr : Trap) : (s.lateTrap u h tr).bars = s.bars := by unfold State.lateTrap; simp
@[simp] theorem State.lateTrap_mem (s : State) (u : Nat) (h : VA) (tr : Trap) : (s.lateTrap u h tr).mem = s.mem := by unfold State.lateTrap; simp
@[simp] theorem State.lateTrap_ops (s : State) (u : Nat) (h : VA) (tr : Trap) : (s.lateTrap u h tr).ops = s.ops := by unfold State.lateTrap; simp
@[simp] theorem State.lateTrap_lands (s : State) (u : Nat) (h : VA) (tr : Trap) : (s.lateTrap u h tr).lands = s.lands := by unfold State.lateTrap; simp
@[simp] theorem State.lateTrap_pkts (s : State) (u : Nat) (h : VA) (tr : Trap) : (s.lateTrap u h tr).pkts = s.pkts := by unfold State.lateTrap; simp
@[simp] theorem State.lateTrap_replies (s : State) (u : Nat) (h : VA) (tr : Trap) : (s.lateTrap u h tr).replies = s.replies := by unfold State.lateTrap; simp
@[simp] theorem State.lateTrap_wins (s : State) (u : Nat) (h : VA) (tr : Trap) : (s.lateTrap u h tr).wins = s.wins := by unfold State.lateTrap; simp
@[simp] theorem State.lateTrap_nodes (s : State) (u : Nat) (h : VA) (tr : Trap) : (s.lateTrap u h tr).nodes = s.nodes := by unfold State.lateTrap; simp
@[simp] theorem State.lateTrap_holders (s : State) (u : Nat) (h : VA) (tr : Trap) : (s.lateTrap u h tr).holders = s.holders := by unfold State.lateTrap; simp
@[simp] theorem State.lateTrap_campaigns (s : State) (u : Nat) (h : VA) (tr : Trap) : (s.lateTrap u h tr).campaigns = s.campaigns := by unfold State.lateTrap; simp
@[simp] theorem State.lateTrap_chanJobs (s : State) (u : Nat) (h : VA) (tr : Trap) : (s.lateTrap u h tr).chanJobs = s.chanJobs := by unfold State.lateTrap; simp
@[simp] theorem State.lateTrap_routeMsgs (s : State) (u : Nat) (h : VA) (tr : Trap) : (s.lateTrap u h tr).routeMsgs = s.routeMsgs := by unfold State.lateTrap; simp
@[simp] theorem State.lateTrap_routeAcks (s : State) (u : Nat) (h : VA) (tr : Trap) : (s.lateTrap u h tr).routeAcks = s.routeAcks := by unfold State.lateTrap; simp
@[simp] theorem State.lateTrap_transfers (s : State) (u : Nat) (h : VA) (tr : Trap) : (s.lateTrap u h tr).transfers = s.transfers := by unfold State.lateTrap; simp
@[simp] theorem State.lateTrap_mirrors (s : State) (u : Nat) (h : VA) (tr : Trap) : (s.lateTrap u h tr).mirrors = s.mirrors := by unfold State.lateTrap; simp
@[simp] theorem State.lateTrap_prepares (s : State) (u : Nat) (h : VA) (tr : Trap) : (s.lateTrap u h tr).prepares = s.prepares := by unfold State.lateTrap; simp
@[simp] theorem State.lateTrap_prepAcks (s : State) (u : Nat) (h : VA) (tr : Trap) : (s.lateTrap u h tr).prepAcks = s.prepAcks := by unfold State.lateTrap; simp
@[simp] theorem State.lateTrap_commits (s : State) (u : Nat) (h : VA) (tr : Trap) : (s.lateTrap u h tr).commits = s.commits := by unfold State.lateTrap; simp
@[simp] theorem State.lateTrap_prepared (s : State) (u : Nat) (h : VA) (tr : Trap) : (s.lateTrap u h tr).prepared = s.prepared := by unfold State.lateTrap; simp
@[simp] theorem State.lateTrap_notices (s : State) (u : Nat) (h : VA) (tr : Trap) : (s.lateTrap u h tr).notices = s.notices := by unfold State.lateTrap; simp
@[simp] theorem State.lateTrap_links (s : State) (u : Nat) (h : VA) (tr : Trap) : (s.lateTrap u h tr).links = s.links := by unfold State.lateTrap; simp
@[simp] theorem State.lateTrap_piers (s : State) (u : Nat) (h : VA) (tr : Trap) : (s.lateTrap u h tr).piers = s.piers := by unfold State.lateTrap; simp
@[simp] theorem State.lateTrap_worlds (s : State) (u : Nat) (h : VA) (tr : Trap) : (s.lateTrap u h tr).worlds = s.worlds := by unfold State.lateTrap; simp
@[simp] theorem State.lateTrap_samplings (s : State) (u : Nat) (h : VA) (tr : Trap) : (s.lateTrap u h tr).samplings = s.samplings := by unfold State.lateTrap; simp
@[simp] theorem State.lateTrap_abutLogs (s : State) (u : Nat) (h : VA) (tr : Trap) : (s.lateTrap u h tr).abutLogs = s.abutLogs := by unfold State.lateTrap; simp
@[simp] theorem State.lateTrap_abutDccs (s : State) (u : Nat) (h : VA) (tr : Trap) : (s.lateTrap u h tr).abutDccs = s.abutDccs := by unfold State.lateTrap; simp
@[simp] theorem State.lateTrap_host (s : State) (u : Nat) (h : VA) (tr : Trap) : (s.lateTrap u h tr).host = s.host := by unfold State.lateTrap; simp
@[simp] theorem State.lateTrap_net (s : State) (u : Nat) (h : VA) (tr : Trap) : (s.lateTrap u h tr).net = s.net := by unfold State.lateTrap; simp
@[simp] theorem State.lateTrap_boot (s : State) (u : Nat) (h : VA) (tr : Trap) : (s.lateTrap u h tr).boot = s.boot := by unfold State.lateTrap; simp

@[simp] theorem State.addLanding_cur (s : State) (n u : Nat) (ws : List (Owed × UnitVal)) (h : Option (BitVec 8)) : (s.addLanding n u ws h).cur = s.cur := rfl
@[simp] theorem State.addLanding_agenda (s : State) (n u : Nat) (ws : List (Owed × UnitVal)) (h : Option (BitVec 8)) : (s.addLanding n u ws h).agenda = s.agenda := rfl
@[simp] theorem State.addLanding_phase (s : State) (n u : Nat) (ws : List (Owed × UnitVal)) (h : Option (BitVec 8)) : (s.addLanding n u ws h).phase = s.phase := rfl
@[simp] theorem State.addLanding_free (s : State) (n u : Nat) (ws : List (Owed × UnitVal)) (h : Option (BitVec 8)) : (s.addLanding n u ws h).free = s.free := rfl
@[simp] theorem State.addLanding_tagFails (s : State) (n u : Nat) (ws : List (Owed × UnitVal)) (h : Option (BitVec 8)) : (s.addLanding n u ws h).tagFails = s.tagFails := rfl
@[simp] theorem State.addLanding_badWorlds (s : State) (n u : Nat) (ws : List (Owed × UnitVal)) (h : Option (BitVec 8)) : (s.addLanding n u ws h).badWorlds = s.badWorlds := rfl
@[simp] theorem State.addLanding_variant (s : State) (n u : Nat) (ws : List (Owed × UnitVal)) (h : Option (BitVec 8)) : (s.addLanding n u ws h).variant = s.variant := rfl
@[simp] theorem State.addLanding_capDies (s : State) (n u : Nat) (ws : List (Owed × UnitVal)) (h : Option (BitVec 8)) : (s.addLanding n u ws h).capDies = s.capDies := rfl
@[simp] theorem State.addLanding_capCxl (s : State) (n u : Nat) (ws : List (Owed × UnitVal)) (h : Option (BitVec 8)) : (s.addLanding n u ws h).capCxl = s.capCxl := rfl
@[simp] theorem State.addLanding_capNet (s : State) (n u : Nat) (ws : List (Owed × UnitVal)) (h : Option (BitVec 8)) : (s.addLanding n u ws h).capNet = s.capNet := rfl
@[simp] theorem State.addLanding_teams (s : State) (n u : Nat) (ws : List (Owed × UnitVal)) (h : Option (BitVec 8)) : (s.addLanding n u ws h).teams = s.teams := rfl
@[simp] theorem State.addLanding_crews (s : State) (n u : Nat) (ws : List (Owed × UnitVal)) (h : Option (BitVec 8)) : (s.addLanding n u ws h).crews = s.crews := rfl
@[simp] theorem State.addLanding_cards (s : State) (n u : Nat) (ws : List (Owed × UnitVal)) (h : Option (BitVec 8)) : (s.addLanding n u ws h).cards = s.cards := rfl
@[simp] theorem State.addLanding_handles (s : State) (n u : Nat) (ws : List (Owed × UnitVal)) (h : Option (BitVec 8)) : (s.addLanding n u ws h).handles = s.handles := rfl
@[simp] theorem State.addLanding_dies (s : State) (n u : Nat) (ws : List (Owed × UnitVal)) (h : Option (BitVec 8)) : (s.addLanding n u ws h).dies = s.dies := rfl
@[simp] theorem State.addLanding_cores (s : State) (n u : Nat) (ws : List (Owed × UnitVal)) (h : Option (BitVec 8)) : (s.addLanding n u ws h).cores = s.cores := rfl
@[simp] theorem State.addLanding_copies (s : State) (n u : Nat) (ws : List (Owed × UnitVal)) (h : Option (BitVec 8)) : (s.addLanding n u ws h).copies = s.copies := rfl
@[simp] theorem State.addLanding_bars (s : State) (n u : Nat) (ws : List (Owed × UnitVal)) (h : Option (BitVec 8)) : (s.addLanding n u ws h).bars = s.bars := rfl
@[simp] theorem State.addLanding_mem (s : State) (n u : Nat) (ws : List (Owed × UnitVal)) (h : Option (BitVec 8)) : (s.addLanding n u ws h).mem = s.mem := rfl
@[simp] theorem State.addLanding_ops (s : State) (n u : Nat) (ws : List (Owed × UnitVal)) (h : Option (BitVec 8)) : (s.addLanding n u ws h).ops = s.ops := rfl
@[simp] theorem State.addLanding_pkts (s : State) (n u : Nat) (ws : List (Owed × UnitVal)) (h : Option (BitVec 8)) : (s.addLanding n u ws h).pkts = s.pkts := rfl
@[simp] theorem State.addLanding_replies (s : State) (n u : Nat) (ws : List (Owed × UnitVal)) (h : Option (BitVec 8)) : (s.addLanding n u ws h).replies = s.replies := rfl
@[simp] theorem State.addLanding_wins (s : State) (n u : Nat) (ws : List (Owed × UnitVal)) (h : Option (BitVec 8)) : (s.addLanding n u ws h).wins = s.wins := rfl
@[simp] theorem State.addLanding_nodes (s : State) (n u : Nat) (ws : List (Owed × UnitVal)) (h : Option (BitVec 8)) : (s.addLanding n u ws h).nodes = s.nodes := rfl
@[simp] theorem State.addLanding_holders (s : State) (n u : Nat) (ws : List (Owed × UnitVal)) (h : Option (BitVec 8)) : (s.addLanding n u ws h).holders = s.holders := rfl
@[simp] theorem State.addLanding_campaigns (s : State) (n u : Nat) (ws : List (Owed × UnitVal)) (h : Option (BitVec 8)) : (s.addLanding n u ws h).campaigns = s.campaigns := rfl
@[simp] theorem State.addLanding_chanJobs (s : State) (n u : Nat) (ws : List (Owed × UnitVal)) (h : Option (BitVec 8)) : (s.addLanding n u ws h).chanJobs = s.chanJobs := rfl
@[simp] theorem State.addLanding_routeMsgs (s : State) (n u : Nat) (ws : List (Owed × UnitVal)) (h : Option (BitVec 8)) : (s.addLanding n u ws h).routeMsgs = s.routeMsgs := rfl
@[simp] theorem State.addLanding_routeAcks (s : State) (n u : Nat) (ws : List (Owed × UnitVal)) (h : Option (BitVec 8)) : (s.addLanding n u ws h).routeAcks = s.routeAcks := rfl
@[simp] theorem State.addLanding_transfers (s : State) (n u : Nat) (ws : List (Owed × UnitVal)) (h : Option (BitVec 8)) : (s.addLanding n u ws h).transfers = s.transfers := rfl
@[simp] theorem State.addLanding_mirrors (s : State) (n u : Nat) (ws : List (Owed × UnitVal)) (h : Option (BitVec 8)) : (s.addLanding n u ws h).mirrors = s.mirrors := rfl
@[simp] theorem State.addLanding_prepares (s : State) (n u : Nat) (ws : List (Owed × UnitVal)) (h : Option (BitVec 8)) : (s.addLanding n u ws h).prepares = s.prepares := rfl
@[simp] theorem State.addLanding_prepAcks (s : State) (n u : Nat) (ws : List (Owed × UnitVal)) (h : Option (BitVec 8)) : (s.addLanding n u ws h).prepAcks = s.prepAcks := rfl
@[simp] theorem State.addLanding_commits (s : State) (n u : Nat) (ws : List (Owed × UnitVal)) (h : Option (BitVec 8)) : (s.addLanding n u ws h).commits = s.commits := rfl
@[simp] theorem State.addLanding_prepared (s : State) (n u : Nat) (ws : List (Owed × UnitVal)) (h : Option (BitVec 8)) : (s.addLanding n u ws h).prepared = s.prepared := rfl
@[simp] theorem State.addLanding_notices (s : State) (n u : Nat) (ws : List (Owed × UnitVal)) (h : Option (BitVec 8)) : (s.addLanding n u ws h).notices = s.notices := rfl
@[simp] theorem State.addLanding_links (s : State) (n u : Nat) (ws : List (Owed × UnitVal)) (h : Option (BitVec 8)) : (s.addLanding n u ws h).links = s.links := rfl
@[simp] theorem State.addLanding_piers (s : State) (n u : Nat) (ws : List (Owed × UnitVal)) (h : Option (BitVec 8)) : (s.addLanding n u ws h).piers = s.piers := rfl
@[simp] theorem State.addLanding_worlds (s : State) (n u : Nat) (ws : List (Owed × UnitVal)) (h : Option (BitVec 8)) : (s.addLanding n u ws h).worlds = s.worlds := rfl
@[simp] theorem State.addLanding_samplings (s : State) (n u : Nat) (ws : List (Owed × UnitVal)) (h : Option (BitVec 8)) : (s.addLanding n u ws h).samplings = s.samplings := rfl
@[simp] theorem State.addLanding_abutLogs (s : State) (n u : Nat) (ws : List (Owed × UnitVal)) (h : Option (BitVec 8)) : (s.addLanding n u ws h).abutLogs = s.abutLogs := rfl
@[simp] theorem State.addLanding_abutDccs (s : State) (n u : Nat) (ws : List (Owed × UnitVal)) (h : Option (BitVec 8)) : (s.addLanding n u ws h).abutDccs = s.abutDccs := rfl
@[simp] theorem State.addLanding_host (s : State) (n u : Nat) (ws : List (Owed × UnitVal)) (h : Option (BitVec 8)) : (s.addLanding n u ws h).host = s.host := rfl
@[simp] theorem State.addLanding_net (s : State) (n u : Nat) (ws : List (Owed × UnitVal)) (h : Option (BitVec 8)) : (s.addLanding n u ws h).net = s.net := rfl
@[simp] theorem State.addLanding_boot (s : State) (n u : Nat) (ws : List (Owed × UnitVal)) (h : Option (BitVec 8)) : (s.addLanding n u ws h).boot = s.boot := rfl

/-! ## Fields of a team -/

@[simp] theorem Team.put_crew (t : Team) (r : UnitRef) (x : UnitVal) (b : Bool) (g : BitVec 4) : (t.put r x b g).crew = t.crew := by unfold Team.put; split <;> (try split) <;> rfl
@[simp] theorem Team.put_num (t : Team) (r : UnitRef) (x : UnitVal) (b : Bool) (g : BitVec 4) : (t.put r x b g).num = t.num := by unfold Team.put; split <;> (try split) <;> rfl
@[simp] theorem Team.put_slot (t : Team) (r : UnitRef) (x : UnitVal) (b : Bool) (g : BitVec 4) : (t.put r x b g).slot = t.slot := by unfold Team.put; split <;> (try split) <;> rfl
@[simp] theorem Team.put_role (t : Team) (r : UnitRef) (x : UnitVal) (b : Bool) (g : BitVec 4) : (t.put r x b g).role = t.role := by unfold Team.put; split <;> (try split) <;> rfl
@[simp] theorem Team.put_width (t : Team) (r : UnitRef) (x : UnitVal) (b : Bool) (g : BitVec 4) : (t.put r x b g).width = t.width := by unfold Team.put; split <;> (try split) <;> rfl
@[simp] theorem Team.put_status (t : Team) (r : UnitRef) (x : UnitVal) (b : Bool) (g : BitVec 4) : (t.put r x b g).status = t.status := by unfold Team.put; split <;> (try split) <;> rfl
@[simp] theorem Team.put_pc (t : Team) (r : UnitRef) (x : UnitVal) (b : Bool) (g : BitVec 4) : (t.put r x b g).pc = t.pc := by unfold Team.put; split <;> (try split) <;> rfl
@[simp] theorem Team.put_clause (t : Team) (r : UnitRef) (x : UnitVal) (b : Bool) (g : BitVec 4) : (t.put r x b g).clause = t.clause := by unfold Team.put; split <;> (try split) <;> rfl
@[simp] theorem Team.put_fr (t : Team) (r : UnitRef) (x : UnitVal) (b : Bool) (g : BitVec 4) : (t.put r x b g).fr = t.fr := by unfold Team.put; split <;> (try split) <;> rfl
@[simp] theorem Team.put_regionVA (t : Team) (r : UnitRef) (x : UnitVal) (b : Bool) (g : BitVec 4) : (t.put r x b g).regionVA = t.regionVA := by unfold Team.put; split <;> (try split) <;> rfl
@[simp] theorem Team.put_region (t : Team) (r : UnitRef) (x : UnitVal) (b : Bool) (g : BitVec 4) : (t.put r x b g).region = t.region := by unfold Team.put; split <;> (try split) <;> rfl
@[simp] theorem Team.put_regionCount (t : Team) (r : UnitRef) (x : UnitVal) (b : Bool) (g : BitVec 4) : (t.put r x b g).regionCount = t.regionCount := by unfold Team.put; split <;> (try split) <;> rfl
@[simp] theorem Team.put_passes (t : Team) (r : UnitRef) (x : UnitVal) (b : Bool) (g : BitVec 4) : (t.put r x b g).passes = t.passes := by unfold Team.put; split <;> (try split) <;> rfl
@[simp] theorem Team.put_total (t : Team) (r : UnitRef) (x : UnitVal) (b : Bool) (g : BitVec 4) : (t.put r x b g).total = t.total := by unfold Team.put; split <;> (try split) <;> rfl
@[simp] theorem Team.put_joinDeadline (t : Team) (r : UnitRef) (x : UnitVal) (b : Bool) (g : BitVec 4) : (t.put r x b g).joinDeadline = t.joinDeadline := by unfold Team.put; split <;> (try split) <;> rfl
@[simp] theorem Team.put_waits (t : Team) (r : UnitRef) (x : UnitVal) (b : Bool) (g : BitVec 4) : (t.put r x b g).waits = t.waits := by unfold Team.put; split <;> (try split) <;> rfl
@[simp] theorem Team.put_jto (t : Team) (r : UnitRef) (x : UnitVal) (b : Bool) (g : BitVec 4) : (t.put r x b g).jto = t.jto := by unfold Team.put; split <;> (try split) <;> rfl
@[simp] theorem Team.put_defOn (t : Team) (r : UnitRef) (x : UnitVal) (b : Bool) (g : BitVec 4) : (t.put r x b g).defOn = t.defOn := by unfold Team.put; split <;> (try split) <;> rfl
@[simp] theorem Team.put_strict (t : Team) (r : UnitRef) (x : UnitVal) (b : Bool) (g : BitVec 4) : (t.put r x b g).strict = t.strict := by unfold Team.put; split <;> (try split) <;> rfl
@[simp] theorem Team.put_fpf (t : Team) (r : UnitRef) (x : UnitVal) (b : Bool) (g : BitVec 4) : (t.put r x b g).fpf = t.fpf := by unfold Team.put; split <;> (try split) <;> rfl
@[simp] theorem Team.put_rm (t : Team) (r : UnitRef) (x : UnitVal) (b : Bool) (g : BitVec 4) : (t.put r x b g).rm = t.rm := by unfold Team.put; split <;> (try split) <;> rfl
@[simp] theorem Team.put_vN (t : Team) (r : UnitRef) (x : UnitVal) (b : Bool) (g : BitVec 4) : (t.put r x b g).vN = t.vN := by unfold Team.put; split <;> (try split) <;> rfl
@[simp] theorem Team.put_aN (t : Team) (r : UnitRef) (x : UnitVal) (b : Bool) (g : BitVec 4) : (t.put r x b g).aN = t.aN := by unfold Team.put; split <;> (try split) <;> rfl
@[simp] theorem Team.put_rN (t : Team) (r : UnitRef) (x : UnitVal) (b : Bool) (g : BitVec 4) : (t.put r x b g).rN = t.rN := by unfold Team.put; split <;> (try split) <;> rfl
@[simp] theorem Team.put_vBase (t : Team) (r : UnitRef) (x : UnitVal) (b : Bool) (g : BitVec 4) : (t.put r x b g).vBase = t.vBase := by unfold Team.put; split <;> (try split) <;> rfl
@[simp] theorem Team.put_aBase (t : Team) (r : UnitRef) (x : UnitVal) (b : Bool) (g : BitVec 4) : (t.put r x b g).aBase = t.aBase := by unfold Team.put; split <;> (try split) <;> rfl
@[simp] theorem Team.put_rBase (t : Team) (r : UnitRef) (x : UnitVal) (b : Bool) (g : BitVec 4) : (t.put r x b g).rBase = t.rBase := by unfold Team.put; split <;> (try split) <;> rfl
@[simp] theorem Team.put_fifo (t : Team) (r : UnitRef) (x : UnitVal) (b : Bool) (g : BitVec 4) : (t.put r x b g).fifo = t.fifo := by unfold Team.put; split <;> (try split) <;> rfl
@[simp] theorem Team.put_results (t : Team) (r : UnitRef) (x : UnitVal) (b : Bool) (g : BitVec 4) : (t.put r x b g).results = t.results := by unfold Team.put; split <;> (try split) <;> rfl
@[simp] theorem Team.put_conn (t : Team) (r : UnitRef) (x : UnitVal) (b : Bool) (g : BitVec 4) : (t.put r x b g).conn = t.conn := by unfold Team.put; split <;> (try split) <;> rfl
@[simp] theorem Team.put_arrivals (t : Team) (r : UnitRef) (x : UnitVal) (b : Bool) (g : BitVec 4) : (t.put r x b g).arrivals = t.arrivals := by unfold Team.put; split <;> (try split) <;> rfl
@[simp] theorem Team.put_stop (t : Team) (r : UnitRef) (x : UnitVal) (b : Bool) (g : BitVec 4) : (t.put r x b g).stop = t.stop := by unfold Team.put; split <;> (try split) <;> rfl
@[simp] theorem Team.put_poisonHolder (t : Team) (r : UnitRef) (x : UnitVal) (b : Bool) (g : BitVec 4) : (t.put r x b g).poisonHolder = t.poisonHolder := by unfold Team.put; split <;> (try split) <;> rfl
@[simp] theorem Team.put_late (t : Team) (r : UnitRef) (x : UnitVal) (b : Bool) (g : BitVec 4) : (t.put r x b g).late = t.late := by unfold Team.put; split <;> (try split) <;> rfl
@[simp] theorem Team.put_trap (t : Team) (r : UnitRef) (x : UnitVal) (b : Bool) (g : BitVec 4) : (t.put r x b g).trap = t.trap := by unfold Team.put; split <;> (try split) <;> rfl
@[simp] theorem Team.put_handle (t : Team) (r : UnitRef) (x : UnitVal) (b : Bool) (g : BitVec 4) : (t.put r x b g).handle = t.handle := by unfold Team.put; split <;> (try split) <;> rfl
@[simp] theorem Team.put_ctlWord (t : Team) (r : UnitRef) (x : UnitVal) (b : Bool) (g : BitVec 4) : (t.put r x b g).ctlWord = t.ctlWord := by unfold Team.put; split <;> (try split) <;> rfl
@[simp] theorem Team.put_stall (t : Team) (r : UnitRef) (x : UnitVal) (b : Bool) (g : BitVec 4) : (t.put r x b g).stall = t.stall := by unfold Team.put; split <;> (try split) <;> rfl
@[simp] theorem Team.put_hold (t : Team) (r : UnitRef) (x : UnitVal) (b : Bool) (g : BitVec 4) : (t.put r x b g).hold = t.hold := by unfold Team.put; split <;> (try split) <;> rfl
@[simp] theorem Team.put_lastA (t : Team) (r : UnitRef) (x : UnitVal) (b : Bool) (g : BitVec 4) : (t.put r x b g).lastA = t.lastA := by unfold Team.put; split <;> (try split) <;> rfl
@[simp] theorem Team.put_lastB (t : Team) (r : UnitRef) (x : UnitVal) (b : Bool) (g : BitVec 4) : (t.put r x b g).lastB = t.lastB := by unfold Team.put; split <;> (try split) <;> rfl
@[simp] theorem Team.put_yielded (t : Team) (r : UnitRef) (x : UnitVal) (b : Bool) (g : BitVec 4) : (t.put r x b g).yielded = t.yielded := by unfold Team.put; split <;> (try split) <;> rfl
@[simp] theorem Team.put_fryldTurn (t : Team) (r : UnitRef) (x : UnitVal) (b : Bool) (g : BitVec 4) : (t.put r x b g).fryldTurn = t.fryldTurn := by unfold Team.put; split <;> (try split) <;> rfl

@[simp] theorem Team.write_crew (t : Team) (r : UnitRef) (x : UnitVal) : (t.write r x).crew = t.crew := by unfold Team.write; simp
@[simp] theorem Team.write_num (t : Team) (r : UnitRef) (x : UnitVal) : (t.write r x).num = t.num := by unfold Team.write; simp
@[simp] theorem Team.write_slot (t : Team) (r : UnitRef) (x : UnitVal) : (t.write r x).slot = t.slot := by unfold Team.write; simp
@[simp] theorem Team.write_role (t : Team) (r : UnitRef) (x : UnitVal) : (t.write r x).role = t.role := by unfold Team.write; simp
@[simp] theorem Team.write_width (t : Team) (r : UnitRef) (x : UnitVal) : (t.write r x).width = t.width := by unfold Team.write; simp
@[simp] theorem Team.write_status (t : Team) (r : UnitRef) (x : UnitVal) : (t.write r x).status = t.status := by unfold Team.write; simp
@[simp] theorem Team.write_pc (t : Team) (r : UnitRef) (x : UnitVal) : (t.write r x).pc = t.pc := by unfold Team.write; simp
@[simp] theorem Team.write_clause (t : Team) (r : UnitRef) (x : UnitVal) : (t.write r x).clause = t.clause := by unfold Team.write; simp
@[simp] theorem Team.write_fr (t : Team) (r : UnitRef) (x : UnitVal) : (t.write r x).fr = t.fr := by unfold Team.write; simp
@[simp] theorem Team.write_regionVA (t : Team) (r : UnitRef) (x : UnitVal) : (t.write r x).regionVA = t.regionVA := by unfold Team.write; simp
@[simp] theorem Team.write_region (t : Team) (r : UnitRef) (x : UnitVal) : (t.write r x).region = t.region := by unfold Team.write; simp
@[simp] theorem Team.write_regionCount (t : Team) (r : UnitRef) (x : UnitVal) : (t.write r x).regionCount = t.regionCount := by unfold Team.write; simp
@[simp] theorem Team.write_passes (t : Team) (r : UnitRef) (x : UnitVal) : (t.write r x).passes = t.passes := by unfold Team.write; simp
@[simp] theorem Team.write_total (t : Team) (r : UnitRef) (x : UnitVal) : (t.write r x).total = t.total := by unfold Team.write; simp
@[simp] theorem Team.write_joinDeadline (t : Team) (r : UnitRef) (x : UnitVal) : (t.write r x).joinDeadline = t.joinDeadline := by unfold Team.write; simp
@[simp] theorem Team.write_waits (t : Team) (r : UnitRef) (x : UnitVal) : (t.write r x).waits = t.waits := by unfold Team.write; simp
@[simp] theorem Team.write_jto (t : Team) (r : UnitRef) (x : UnitVal) : (t.write r x).jto = t.jto := by unfold Team.write; simp
@[simp] theorem Team.write_defOn (t : Team) (r : UnitRef) (x : UnitVal) : (t.write r x).defOn = t.defOn := by unfold Team.write; simp
@[simp] theorem Team.write_strict (t : Team) (r : UnitRef) (x : UnitVal) : (t.write r x).strict = t.strict := by unfold Team.write; simp
@[simp] theorem Team.write_fpf (t : Team) (r : UnitRef) (x : UnitVal) : (t.write r x).fpf = t.fpf := by unfold Team.write; simp
@[simp] theorem Team.write_rm (t : Team) (r : UnitRef) (x : UnitVal) : (t.write r x).rm = t.rm := by unfold Team.write; simp
@[simp] theorem Team.write_vN (t : Team) (r : UnitRef) (x : UnitVal) : (t.write r x).vN = t.vN := by unfold Team.write; simp
@[simp] theorem Team.write_aN (t : Team) (r : UnitRef) (x : UnitVal) : (t.write r x).aN = t.aN := by unfold Team.write; simp
@[simp] theorem Team.write_rN (t : Team) (r : UnitRef) (x : UnitVal) : (t.write r x).rN = t.rN := by unfold Team.write; simp
@[simp] theorem Team.write_vBase (t : Team) (r : UnitRef) (x : UnitVal) : (t.write r x).vBase = t.vBase := by unfold Team.write; simp
@[simp] theorem Team.write_aBase (t : Team) (r : UnitRef) (x : UnitVal) : (t.write r x).aBase = t.aBase := by unfold Team.write; simp
@[simp] theorem Team.write_rBase (t : Team) (r : UnitRef) (x : UnitVal) : (t.write r x).rBase = t.rBase := by unfold Team.write; simp
@[simp] theorem Team.write_fifo (t : Team) (r : UnitRef) (x : UnitVal) : (t.write r x).fifo = t.fifo := by unfold Team.write; simp
@[simp] theorem Team.write_results (t : Team) (r : UnitRef) (x : UnitVal) : (t.write r x).results = t.results := by unfold Team.write; simp
@[simp] theorem Team.write_conn (t : Team) (r : UnitRef) (x : UnitVal) : (t.write r x).conn = t.conn := by unfold Team.write; simp
@[simp] theorem Team.write_arrivals (t : Team) (r : UnitRef) (x : UnitVal) : (t.write r x).arrivals = t.arrivals := by unfold Team.write; simp
@[simp] theorem Team.write_stop (t : Team) (r : UnitRef) (x : UnitVal) : (t.write r x).stop = t.stop := by unfold Team.write; simp
@[simp] theorem Team.write_poisonHolder (t : Team) (r : UnitRef) (x : UnitVal) : (t.write r x).poisonHolder = t.poisonHolder := by unfold Team.write; simp
@[simp] theorem Team.write_late (t : Team) (r : UnitRef) (x : UnitVal) : (t.write r x).late = t.late := by unfold Team.write; simp
@[simp] theorem Team.write_trap (t : Team) (r : UnitRef) (x : UnitVal) : (t.write r x).trap = t.trap := by unfold Team.write; simp
@[simp] theorem Team.write_handle (t : Team) (r : UnitRef) (x : UnitVal) : (t.write r x).handle = t.handle := by unfold Team.write; simp
@[simp] theorem Team.write_ctlWord (t : Team) (r : UnitRef) (x : UnitVal) : (t.write r x).ctlWord = t.ctlWord := by unfold Team.write; simp
@[simp] theorem Team.write_stall (t : Team) (r : UnitRef) (x : UnitVal) : (t.write r x).stall = t.stall := by unfold Team.write; simp
@[simp] theorem Team.write_hold (t : Team) (r : UnitRef) (x : UnitVal) : (t.write r x).hold = t.hold := by unfold Team.write; simp
@[simp] theorem Team.write_lastA (t : Team) (r : UnitRef) (x : UnitVal) : (t.write r x).lastA = t.lastA := by unfold Team.write; simp
@[simp] theorem Team.write_lastB (t : Team) (r : UnitRef) (x : UnitVal) : (t.write r x).lastB = t.lastB := by unfold Team.write; simp
@[simp] theorem Team.write_yielded (t : Team) (r : UnitRef) (x : UnitVal) : (t.write r x).yielded = t.yielded := by unfold Team.write; simp
@[simp] theorem Team.write_fryldTurn (t : Team) (r : UnitRef) (x : UnitVal) : (t.write r x).fryldTurn = t.fryldTurn := by unfold Team.write; simp

@[simp] theorem Team.owe_crew (t : Team) (r : UnitRef) : (t.owe r).crew = t.crew := by unfold Team.owe; simp
@[simp] theorem Team.owe_num (t : Team) (r : UnitRef) : (t.owe r).num = t.num := by unfold Team.owe; simp
@[simp] theorem Team.owe_slot (t : Team) (r : UnitRef) : (t.owe r).slot = t.slot := by unfold Team.owe; simp
@[simp] theorem Team.owe_role (t : Team) (r : UnitRef) : (t.owe r).role = t.role := by unfold Team.owe; simp
@[simp] theorem Team.owe_width (t : Team) (r : UnitRef) : (t.owe r).width = t.width := by unfold Team.owe; simp
@[simp] theorem Team.owe_status (t : Team) (r : UnitRef) : (t.owe r).status = t.status := by unfold Team.owe; simp
@[simp] theorem Team.owe_pc (t : Team) (r : UnitRef) : (t.owe r).pc = t.pc := by unfold Team.owe; simp
@[simp] theorem Team.owe_clause (t : Team) (r : UnitRef) : (t.owe r).clause = t.clause := by unfold Team.owe; simp
@[simp] theorem Team.owe_fr (t : Team) (r : UnitRef) : (t.owe r).fr = t.fr := by unfold Team.owe; simp
@[simp] theorem Team.owe_regionVA (t : Team) (r : UnitRef) : (t.owe r).regionVA = t.regionVA := by unfold Team.owe; simp
@[simp] theorem Team.owe_region (t : Team) (r : UnitRef) : (t.owe r).region = t.region := by unfold Team.owe; simp
@[simp] theorem Team.owe_regionCount (t : Team) (r : UnitRef) : (t.owe r).regionCount = t.regionCount := by unfold Team.owe; simp
@[simp] theorem Team.owe_passes (t : Team) (r : UnitRef) : (t.owe r).passes = t.passes := by unfold Team.owe; simp
@[simp] theorem Team.owe_total (t : Team) (r : UnitRef) : (t.owe r).total = t.total := by unfold Team.owe; simp
@[simp] theorem Team.owe_joinDeadline (t : Team) (r : UnitRef) : (t.owe r).joinDeadline = t.joinDeadline := by unfold Team.owe; simp
@[simp] theorem Team.owe_waits (t : Team) (r : UnitRef) : (t.owe r).waits = t.waits := by unfold Team.owe; simp
@[simp] theorem Team.owe_jto (t : Team) (r : UnitRef) : (t.owe r).jto = t.jto := by unfold Team.owe; simp
@[simp] theorem Team.owe_defOn (t : Team) (r : UnitRef) : (t.owe r).defOn = t.defOn := by unfold Team.owe; simp
@[simp] theorem Team.owe_strict (t : Team) (r : UnitRef) : (t.owe r).strict = t.strict := by unfold Team.owe; simp
@[simp] theorem Team.owe_fpf (t : Team) (r : UnitRef) : (t.owe r).fpf = t.fpf := by unfold Team.owe; simp
@[simp] theorem Team.owe_rm (t : Team) (r : UnitRef) : (t.owe r).rm = t.rm := by unfold Team.owe; simp
@[simp] theorem Team.owe_vN (t : Team) (r : UnitRef) : (t.owe r).vN = t.vN := by unfold Team.owe; simp
@[simp] theorem Team.owe_aN (t : Team) (r : UnitRef) : (t.owe r).aN = t.aN := by unfold Team.owe; simp
@[simp] theorem Team.owe_rN (t : Team) (r : UnitRef) : (t.owe r).rN = t.rN := by unfold Team.owe; simp
@[simp] theorem Team.owe_vBase (t : Team) (r : UnitRef) : (t.owe r).vBase = t.vBase := by unfold Team.owe; simp
@[simp] theorem Team.owe_aBase (t : Team) (r : UnitRef) : (t.owe r).aBase = t.aBase := by unfold Team.owe; simp
@[simp] theorem Team.owe_rBase (t : Team) (r : UnitRef) : (t.owe r).rBase = t.rBase := by unfold Team.owe; simp
@[simp] theorem Team.owe_fifo (t : Team) (r : UnitRef) : (t.owe r).fifo = t.fifo := by unfold Team.owe; simp
@[simp] theorem Team.owe_results (t : Team) (r : UnitRef) : (t.owe r).results = t.results := by unfold Team.owe; simp
@[simp] theorem Team.owe_conn (t : Team) (r : UnitRef) : (t.owe r).conn = t.conn := by unfold Team.owe; simp
@[simp] theorem Team.owe_arrivals (t : Team) (r : UnitRef) : (t.owe r).arrivals = t.arrivals := by unfold Team.owe; simp
@[simp] theorem Team.owe_stop (t : Team) (r : UnitRef) : (t.owe r).stop = t.stop := by unfold Team.owe; simp
@[simp] theorem Team.owe_poisonHolder (t : Team) (r : UnitRef) : (t.owe r).poisonHolder = t.poisonHolder := by unfold Team.owe; simp
@[simp] theorem Team.owe_late (t : Team) (r : UnitRef) : (t.owe r).late = t.late := by unfold Team.owe; simp
@[simp] theorem Team.owe_trap (t : Team) (r : UnitRef) : (t.owe r).trap = t.trap := by unfold Team.owe; simp
@[simp] theorem Team.owe_handle (t : Team) (r : UnitRef) : (t.owe r).handle = t.handle := by unfold Team.owe; simp
@[simp] theorem Team.owe_ctlWord (t : Team) (r : UnitRef) : (t.owe r).ctlWord = t.ctlWord := by unfold Team.owe; simp
@[simp] theorem Team.owe_stall (t : Team) (r : UnitRef) : (t.owe r).stall = t.stall := by unfold Team.owe; simp
@[simp] theorem Team.owe_hold (t : Team) (r : UnitRef) : (t.owe r).hold = t.hold := by unfold Team.owe; simp
@[simp] theorem Team.owe_lastA (t : Team) (r : UnitRef) : (t.owe r).lastA = t.lastA := by unfold Team.owe; simp
@[simp] theorem Team.owe_lastB (t : Team) (r : UnitRef) : (t.owe r).lastB = t.lastB := by unfold Team.owe; simp
@[simp] theorem Team.owe_yielded (t : Team) (r : UnitRef) : (t.owe r).yielded = t.yielded := by unfold Team.owe; simp
@[simp] theorem Team.owe_fryldTurn (t : Team) (r : UnitRef) : (t.owe r).fryldTurn = t.fryldTurn := by unfold Team.owe; simp

@[simp] theorem Team.land_crew (t : Team) (o : Owed) (x : UnitVal) : (t.land o x).crew = t.crew := by unfold Team.land; split <;> simp
@[simp] theorem Team.land_num (t : Team) (o : Owed) (x : UnitVal) : (t.land o x).num = t.num := by unfold Team.land; split <;> simp
@[simp] theorem Team.land_slot (t : Team) (o : Owed) (x : UnitVal) : (t.land o x).slot = t.slot := by unfold Team.land; split <;> simp
@[simp] theorem Team.land_role (t : Team) (o : Owed) (x : UnitVal) : (t.land o x).role = t.role := by unfold Team.land; split <;> simp
@[simp] theorem Team.land_width (t : Team) (o : Owed) (x : UnitVal) : (t.land o x).width = t.width := by unfold Team.land; split <;> simp
@[simp] theorem Team.land_status (t : Team) (o : Owed) (x : UnitVal) : (t.land o x).status = t.status := by unfold Team.land; split <;> simp
@[simp] theorem Team.land_pc (t : Team) (o : Owed) (x : UnitVal) : (t.land o x).pc = t.pc := by unfold Team.land; split <;> simp
@[simp] theorem Team.land_clause (t : Team) (o : Owed) (x : UnitVal) : (t.land o x).clause = t.clause := by unfold Team.land; split <;> simp
@[simp] theorem Team.land_fr (t : Team) (o : Owed) (x : UnitVal) : (t.land o x).fr = t.fr := by unfold Team.land; split <;> simp
@[simp] theorem Team.land_regionVA (t : Team) (o : Owed) (x : UnitVal) : (t.land o x).regionVA = t.regionVA := by unfold Team.land; split <;> simp
@[simp] theorem Team.land_region (t : Team) (o : Owed) (x : UnitVal) : (t.land o x).region = t.region := by unfold Team.land; split <;> simp
@[simp] theorem Team.land_regionCount (t : Team) (o : Owed) (x : UnitVal) : (t.land o x).regionCount = t.regionCount := by unfold Team.land; split <;> simp
@[simp] theorem Team.land_passes (t : Team) (o : Owed) (x : UnitVal) : (t.land o x).passes = t.passes := by unfold Team.land; split <;> simp
@[simp] theorem Team.land_total (t : Team) (o : Owed) (x : UnitVal) : (t.land o x).total = t.total := by unfold Team.land; split <;> simp
@[simp] theorem Team.land_joinDeadline (t : Team) (o : Owed) (x : UnitVal) : (t.land o x).joinDeadline = t.joinDeadline := by unfold Team.land; split <;> simp
@[simp] theorem Team.land_waits (t : Team) (o : Owed) (x : UnitVal) : (t.land o x).waits = t.waits := by unfold Team.land; split <;> simp
@[simp] theorem Team.land_jto (t : Team) (o : Owed) (x : UnitVal) : (t.land o x).jto = t.jto := by unfold Team.land; split <;> simp
@[simp] theorem Team.land_defOn (t : Team) (o : Owed) (x : UnitVal) : (t.land o x).defOn = t.defOn := by unfold Team.land; split <;> simp
@[simp] theorem Team.land_strict (t : Team) (o : Owed) (x : UnitVal) : (t.land o x).strict = t.strict := by unfold Team.land; split <;> simp
@[simp] theorem Team.land_fpf (t : Team) (o : Owed) (x : UnitVal) : (t.land o x).fpf = t.fpf := by unfold Team.land; split <;> simp
@[simp] theorem Team.land_rm (t : Team) (o : Owed) (x : UnitVal) : (t.land o x).rm = t.rm := by unfold Team.land; split <;> simp
@[simp] theorem Team.land_vN (t : Team) (o : Owed) (x : UnitVal) : (t.land o x).vN = t.vN := by unfold Team.land; split <;> simp
@[simp] theorem Team.land_aN (t : Team) (o : Owed) (x : UnitVal) : (t.land o x).aN = t.aN := by unfold Team.land; split <;> simp
@[simp] theorem Team.land_rN (t : Team) (o : Owed) (x : UnitVal) : (t.land o x).rN = t.rN := by unfold Team.land; split <;> simp
@[simp] theorem Team.land_vBase (t : Team) (o : Owed) (x : UnitVal) : (t.land o x).vBase = t.vBase := by unfold Team.land; split <;> simp
@[simp] theorem Team.land_aBase (t : Team) (o : Owed) (x : UnitVal) : (t.land o x).aBase = t.aBase := by unfold Team.land; split <;> simp
@[simp] theorem Team.land_rBase (t : Team) (o : Owed) (x : UnitVal) : (t.land o x).rBase = t.rBase := by unfold Team.land; split <;> simp
@[simp] theorem Team.land_fifo (t : Team) (o : Owed) (x : UnitVal) : (t.land o x).fifo = t.fifo := by unfold Team.land; split <;> simp
@[simp] theorem Team.land_results (t : Team) (o : Owed) (x : UnitVal) : (t.land o x).results = t.results := by unfold Team.land; split <;> simp
@[simp] theorem Team.land_conn (t : Team) (o : Owed) (x : UnitVal) : (t.land o x).conn = t.conn := by unfold Team.land; split <;> simp
@[simp] theorem Team.land_arrivals (t : Team) (o : Owed) (x : UnitVal) : (t.land o x).arrivals = t.arrivals := by unfold Team.land; split <;> simp
@[simp] theorem Team.land_stop (t : Team) (o : Owed) (x : UnitVal) : (t.land o x).stop = t.stop := by unfold Team.land; split <;> simp
@[simp] theorem Team.land_poisonHolder (t : Team) (o : Owed) (x : UnitVal) : (t.land o x).poisonHolder = t.poisonHolder := by unfold Team.land; split <;> simp
@[simp] theorem Team.land_late (t : Team) (o : Owed) (x : UnitVal) : (t.land o x).late = t.late := by unfold Team.land; split <;> simp
@[simp] theorem Team.land_trap (t : Team) (o : Owed) (x : UnitVal) : (t.land o x).trap = t.trap := by unfold Team.land; split <;> simp
@[simp] theorem Team.land_handle (t : Team) (o : Owed) (x : UnitVal) : (t.land o x).handle = t.handle := by unfold Team.land; split <;> simp
@[simp] theorem Team.land_ctlWord (t : Team) (o : Owed) (x : UnitVal) : (t.land o x).ctlWord = t.ctlWord := by unfold Team.land; split <;> simp
@[simp] theorem Team.land_stall (t : Team) (o : Owed) (x : UnitVal) : (t.land o x).stall = t.stall := by unfold Team.land; split <;> simp
@[simp] theorem Team.land_hold (t : Team) (o : Owed) (x : UnitVal) : (t.land o x).hold = t.hold := by unfold Team.land; split <;> simp
@[simp] theorem Team.land_lastA (t : Team) (o : Owed) (x : UnitVal) : (t.land o x).lastA = t.lastA := by unfold Team.land; split <;> simp
@[simp] theorem Team.land_lastB (t : Team) (o : Owed) (x : UnitVal) : (t.land o x).lastB = t.lastB := by unfold Team.land; split <;> simp
@[simp] theorem Team.land_yielded (t : Team) (o : Owed) (x : UnitVal) : (t.land o x).yielded = t.yielded := by unfold Team.land; split <;> simp
@[simp] theorem Team.land_fryldTurn (t : Team) (o : Owed) (x : UnitVal) : (t.land o x).fryldTurn = t.fryldTurn := by unfold Team.land; split <;> simp

@[simp] theorem Team.poisonUnit_crew (t : Team) (r : UnitRef) : (t.poisonUnit r).crew = t.crew := by unfold Team.poisonUnit; split <;> simp
@[simp] theorem Team.poisonUnit_num (t : Team) (r : UnitRef) : (t.poisonUnit r).num = t.num := by unfold Team.poisonUnit; split <;> simp
@[simp] theorem Team.poisonUnit_slot (t : Team) (r : UnitRef) : (t.poisonUnit r).slot = t.slot := by unfold Team.poisonUnit; split <;> simp
@[simp] theorem Team.poisonUnit_role (t : Team) (r : UnitRef) : (t.poisonUnit r).role = t.role := by unfold Team.poisonUnit; split <;> simp
@[simp] theorem Team.poisonUnit_width (t : Team) (r : UnitRef) : (t.poisonUnit r).width = t.width := by unfold Team.poisonUnit; split <;> simp
@[simp] theorem Team.poisonUnit_status (t : Team) (r : UnitRef) : (t.poisonUnit r).status = t.status := by unfold Team.poisonUnit; split <;> simp
@[simp] theorem Team.poisonUnit_pc (t : Team) (r : UnitRef) : (t.poisonUnit r).pc = t.pc := by unfold Team.poisonUnit; split <;> simp
@[simp] theorem Team.poisonUnit_clause (t : Team) (r : UnitRef) : (t.poisonUnit r).clause = t.clause := by unfold Team.poisonUnit; split <;> simp
@[simp] theorem Team.poisonUnit_fr (t : Team) (r : UnitRef) : (t.poisonUnit r).fr = t.fr := by unfold Team.poisonUnit; split <;> simp
@[simp] theorem Team.poisonUnit_regionVA (t : Team) (r : UnitRef) : (t.poisonUnit r).regionVA = t.regionVA := by unfold Team.poisonUnit; split <;> simp
@[simp] theorem Team.poisonUnit_region (t : Team) (r : UnitRef) : (t.poisonUnit r).region = t.region := by unfold Team.poisonUnit; split <;> simp
@[simp] theorem Team.poisonUnit_regionCount (t : Team) (r : UnitRef) : (t.poisonUnit r).regionCount = t.regionCount := by unfold Team.poisonUnit; split <;> simp
@[simp] theorem Team.poisonUnit_passes (t : Team) (r : UnitRef) : (t.poisonUnit r).passes = t.passes := by unfold Team.poisonUnit; split <;> simp
@[simp] theorem Team.poisonUnit_total (t : Team) (r : UnitRef) : (t.poisonUnit r).total = t.total := by unfold Team.poisonUnit; split <;> simp
@[simp] theorem Team.poisonUnit_joinDeadline (t : Team) (r : UnitRef) : (t.poisonUnit r).joinDeadline = t.joinDeadline := by unfold Team.poisonUnit; split <;> simp
@[simp] theorem Team.poisonUnit_waits (t : Team) (r : UnitRef) : (t.poisonUnit r).waits = t.waits := by unfold Team.poisonUnit; split <;> simp
@[simp] theorem Team.poisonUnit_jto (t : Team) (r : UnitRef) : (t.poisonUnit r).jto = t.jto := by unfold Team.poisonUnit; split <;> simp
@[simp] theorem Team.poisonUnit_defOn (t : Team) (r : UnitRef) : (t.poisonUnit r).defOn = t.defOn := by unfold Team.poisonUnit; split <;> simp
@[simp] theorem Team.poisonUnit_strict (t : Team) (r : UnitRef) : (t.poisonUnit r).strict = t.strict := by unfold Team.poisonUnit; split <;> simp
@[simp] theorem Team.poisonUnit_fpf (t : Team) (r : UnitRef) : (t.poisonUnit r).fpf = t.fpf := by unfold Team.poisonUnit; split <;> simp
@[simp] theorem Team.poisonUnit_rm (t : Team) (r : UnitRef) : (t.poisonUnit r).rm = t.rm := by unfold Team.poisonUnit; split <;> simp
@[simp] theorem Team.poisonUnit_vN (t : Team) (r : UnitRef) : (t.poisonUnit r).vN = t.vN := by unfold Team.poisonUnit; split <;> simp
@[simp] theorem Team.poisonUnit_aN (t : Team) (r : UnitRef) : (t.poisonUnit r).aN = t.aN := by unfold Team.poisonUnit; split <;> simp
@[simp] theorem Team.poisonUnit_rN (t : Team) (r : UnitRef) : (t.poisonUnit r).rN = t.rN := by unfold Team.poisonUnit; split <;> simp
@[simp] theorem Team.poisonUnit_vBase (t : Team) (r : UnitRef) : (t.poisonUnit r).vBase = t.vBase := by unfold Team.poisonUnit; split <;> simp
@[simp] theorem Team.poisonUnit_aBase (t : Team) (r : UnitRef) : (t.poisonUnit r).aBase = t.aBase := by unfold Team.poisonUnit; split <;> simp
@[simp] theorem Team.poisonUnit_rBase (t : Team) (r : UnitRef) : (t.poisonUnit r).rBase = t.rBase := by unfold Team.poisonUnit; split <;> simp
@[simp] theorem Team.poisonUnit_fifo (t : Team) (r : UnitRef) : (t.poisonUnit r).fifo = t.fifo := by unfold Team.poisonUnit; split <;> simp
@[simp] theorem Team.poisonUnit_results (t : Team) (r : UnitRef) : (t.poisonUnit r).results = t.results := by unfold Team.poisonUnit; split <;> simp
@[simp] theorem Team.poisonUnit_conn (t : Team) (r : UnitRef) : (t.poisonUnit r).conn = t.conn := by unfold Team.poisonUnit; split <;> simp
@[simp] theorem Team.poisonUnit_arrivals (t : Team) (r : UnitRef) : (t.poisonUnit r).arrivals = t.arrivals := by unfold Team.poisonUnit; split <;> simp
@[simp] theorem Team.poisonUnit_stop (t : Team) (r : UnitRef) : (t.poisonUnit r).stop = t.stop := by unfold Team.poisonUnit; split <;> simp
@[simp] theorem Team.poisonUnit_poisonHolder (t : Team) (r : UnitRef) : (t.poisonUnit r).poisonHolder = t.poisonHolder := by unfold Team.poisonUnit; split <;> simp
@[simp] theorem Team.poisonUnit_late (t : Team) (r : UnitRef) : (t.poisonUnit r).late = t.late := by unfold Team.poisonUnit; split <;> simp
@[simp] theorem Team.poisonUnit_trap (t : Team) (r : UnitRef) : (t.poisonUnit r).trap = t.trap := by unfold Team.poisonUnit; split <;> simp
@[simp] theorem Team.poisonUnit_handle (t : Team) (r : UnitRef) : (t.poisonUnit r).handle = t.handle := by unfold Team.poisonUnit; split <;> simp
@[simp] theorem Team.poisonUnit_ctlWord (t : Team) (r : UnitRef) : (t.poisonUnit r).ctlWord = t.ctlWord := by unfold Team.poisonUnit; split <;> simp
@[simp] theorem Team.poisonUnit_stall (t : Team) (r : UnitRef) : (t.poisonUnit r).stall = t.stall := by unfold Team.poisonUnit; split <;> simp
@[simp] theorem Team.poisonUnit_hold (t : Team) (r : UnitRef) : (t.poisonUnit r).hold = t.hold := by unfold Team.poisonUnit; split <;> simp
@[simp] theorem Team.poisonUnit_lastA (t : Team) (r : UnitRef) : (t.poisonUnit r).lastA = t.lastA := by unfold Team.poisonUnit; split <;> simp
@[simp] theorem Team.poisonUnit_lastB (t : Team) (r : UnitRef) : (t.poisonUnit r).lastB = t.lastB := by unfold Team.poisonUnit; split <;> simp
@[simp] theorem Team.poisonUnit_yielded (t : Team) (r : UnitRef) : (t.poisonUnit r).yielded = t.yielded := by unfold Team.poisonUnit; split <;> simp
@[simp] theorem Team.poisonUnit_fryldTurn (t : Team) (r : UnitRef) : (t.poisonUnit r).fryldTurn = t.fryldTurn := by unfold Team.poisonUnit; split <;> simp

@[simp] theorem Team.writeAll_crew (t : Team) (ws : List (UnitRef × UnitVal)) : (t.writeAll ws).crew = t.crew := by
  unfold Team.writeAll; induction ws generalizing t with
  | nil => rfl
  | cons w ws ih => rw [List.foldl_cons, ih]; simp
@[simp] theorem Team.writeAll_num (t : Team) (ws : List (UnitRef × UnitVal)) : (t.writeAll ws).num = t.num := by
  unfold Team.writeAll; induction ws generalizing t with
  | nil => rfl
  | cons w ws ih => rw [List.foldl_cons, ih]; simp
@[simp] theorem Team.writeAll_slot (t : Team) (ws : List (UnitRef × UnitVal)) : (t.writeAll ws).slot = t.slot := by
  unfold Team.writeAll; induction ws generalizing t with
  | nil => rfl
  | cons w ws ih => rw [List.foldl_cons, ih]; simp
@[simp] theorem Team.writeAll_role (t : Team) (ws : List (UnitRef × UnitVal)) : (t.writeAll ws).role = t.role := by
  unfold Team.writeAll; induction ws generalizing t with
  | nil => rfl
  | cons w ws ih => rw [List.foldl_cons, ih]; simp
@[simp] theorem Team.writeAll_width (t : Team) (ws : List (UnitRef × UnitVal)) : (t.writeAll ws).width = t.width := by
  unfold Team.writeAll; induction ws generalizing t with
  | nil => rfl
  | cons w ws ih => rw [List.foldl_cons, ih]; simp
@[simp] theorem Team.writeAll_status (t : Team) (ws : List (UnitRef × UnitVal)) : (t.writeAll ws).status = t.status := by
  unfold Team.writeAll; induction ws generalizing t with
  | nil => rfl
  | cons w ws ih => rw [List.foldl_cons, ih]; simp
@[simp] theorem Team.writeAll_pc (t : Team) (ws : List (UnitRef × UnitVal)) : (t.writeAll ws).pc = t.pc := by
  unfold Team.writeAll; induction ws generalizing t with
  | nil => rfl
  | cons w ws ih => rw [List.foldl_cons, ih]; simp
@[simp] theorem Team.writeAll_clause (t : Team) (ws : List (UnitRef × UnitVal)) : (t.writeAll ws).clause = t.clause := by
  unfold Team.writeAll; induction ws generalizing t with
  | nil => rfl
  | cons w ws ih => rw [List.foldl_cons, ih]; simp
@[simp] theorem Team.writeAll_fr (t : Team) (ws : List (UnitRef × UnitVal)) : (t.writeAll ws).fr = t.fr := by
  unfold Team.writeAll; induction ws generalizing t with
  | nil => rfl
  | cons w ws ih => rw [List.foldl_cons, ih]; simp
@[simp] theorem Team.writeAll_regionVA (t : Team) (ws : List (UnitRef × UnitVal)) : (t.writeAll ws).regionVA = t.regionVA := by
  unfold Team.writeAll; induction ws generalizing t with
  | nil => rfl
  | cons w ws ih => rw [List.foldl_cons, ih]; simp
@[simp] theorem Team.writeAll_region (t : Team) (ws : List (UnitRef × UnitVal)) : (t.writeAll ws).region = t.region := by
  unfold Team.writeAll; induction ws generalizing t with
  | nil => rfl
  | cons w ws ih => rw [List.foldl_cons, ih]; simp
@[simp] theorem Team.writeAll_regionCount (t : Team) (ws : List (UnitRef × UnitVal)) : (t.writeAll ws).regionCount = t.regionCount := by
  unfold Team.writeAll; induction ws generalizing t with
  | nil => rfl
  | cons w ws ih => rw [List.foldl_cons, ih]; simp
@[simp] theorem Team.writeAll_passes (t : Team) (ws : List (UnitRef × UnitVal)) : (t.writeAll ws).passes = t.passes := by
  unfold Team.writeAll; induction ws generalizing t with
  | nil => rfl
  | cons w ws ih => rw [List.foldl_cons, ih]; simp
@[simp] theorem Team.writeAll_total (t : Team) (ws : List (UnitRef × UnitVal)) : (t.writeAll ws).total = t.total := by
  unfold Team.writeAll; induction ws generalizing t with
  | nil => rfl
  | cons w ws ih => rw [List.foldl_cons, ih]; simp
@[simp] theorem Team.writeAll_joinDeadline (t : Team) (ws : List (UnitRef × UnitVal)) : (t.writeAll ws).joinDeadline = t.joinDeadline := by
  unfold Team.writeAll; induction ws generalizing t with
  | nil => rfl
  | cons w ws ih => rw [List.foldl_cons, ih]; simp
@[simp] theorem Team.writeAll_waits (t : Team) (ws : List (UnitRef × UnitVal)) : (t.writeAll ws).waits = t.waits := by
  unfold Team.writeAll; induction ws generalizing t with
  | nil => rfl
  | cons w ws ih => rw [List.foldl_cons, ih]; simp
@[simp] theorem Team.writeAll_jto (t : Team) (ws : List (UnitRef × UnitVal)) : (t.writeAll ws).jto = t.jto := by
  unfold Team.writeAll; induction ws generalizing t with
  | nil => rfl
  | cons w ws ih => rw [List.foldl_cons, ih]; simp
@[simp] theorem Team.writeAll_defOn (t : Team) (ws : List (UnitRef × UnitVal)) : (t.writeAll ws).defOn = t.defOn := by
  unfold Team.writeAll; induction ws generalizing t with
  | nil => rfl
  | cons w ws ih => rw [List.foldl_cons, ih]; simp
@[simp] theorem Team.writeAll_strict (t : Team) (ws : List (UnitRef × UnitVal)) : (t.writeAll ws).strict = t.strict := by
  unfold Team.writeAll; induction ws generalizing t with
  | nil => rfl
  | cons w ws ih => rw [List.foldl_cons, ih]; simp
@[simp] theorem Team.writeAll_fpf (t : Team) (ws : List (UnitRef × UnitVal)) : (t.writeAll ws).fpf = t.fpf := by
  unfold Team.writeAll; induction ws generalizing t with
  | nil => rfl
  | cons w ws ih => rw [List.foldl_cons, ih]; simp
@[simp] theorem Team.writeAll_rm (t : Team) (ws : List (UnitRef × UnitVal)) : (t.writeAll ws).rm = t.rm := by
  unfold Team.writeAll; induction ws generalizing t with
  | nil => rfl
  | cons w ws ih => rw [List.foldl_cons, ih]; simp
@[simp] theorem Team.writeAll_vN (t : Team) (ws : List (UnitRef × UnitVal)) : (t.writeAll ws).vN = t.vN := by
  unfold Team.writeAll; induction ws generalizing t with
  | nil => rfl
  | cons w ws ih => rw [List.foldl_cons, ih]; simp
@[simp] theorem Team.writeAll_aN (t : Team) (ws : List (UnitRef × UnitVal)) : (t.writeAll ws).aN = t.aN := by
  unfold Team.writeAll; induction ws generalizing t with
  | nil => rfl
  | cons w ws ih => rw [List.foldl_cons, ih]; simp
@[simp] theorem Team.writeAll_rN (t : Team) (ws : List (UnitRef × UnitVal)) : (t.writeAll ws).rN = t.rN := by
  unfold Team.writeAll; induction ws generalizing t with
  | nil => rfl
  | cons w ws ih => rw [List.foldl_cons, ih]; simp
@[simp] theorem Team.writeAll_vBase (t : Team) (ws : List (UnitRef × UnitVal)) : (t.writeAll ws).vBase = t.vBase := by
  unfold Team.writeAll; induction ws generalizing t with
  | nil => rfl
  | cons w ws ih => rw [List.foldl_cons, ih]; simp
@[simp] theorem Team.writeAll_aBase (t : Team) (ws : List (UnitRef × UnitVal)) : (t.writeAll ws).aBase = t.aBase := by
  unfold Team.writeAll; induction ws generalizing t with
  | nil => rfl
  | cons w ws ih => rw [List.foldl_cons, ih]; simp
@[simp] theorem Team.writeAll_rBase (t : Team) (ws : List (UnitRef × UnitVal)) : (t.writeAll ws).rBase = t.rBase := by
  unfold Team.writeAll; induction ws generalizing t with
  | nil => rfl
  | cons w ws ih => rw [List.foldl_cons, ih]; simp
@[simp] theorem Team.writeAll_fifo (t : Team) (ws : List (UnitRef × UnitVal)) : (t.writeAll ws).fifo = t.fifo := by
  unfold Team.writeAll; induction ws generalizing t with
  | nil => rfl
  | cons w ws ih => rw [List.foldl_cons, ih]; simp
@[simp] theorem Team.writeAll_results (t : Team) (ws : List (UnitRef × UnitVal)) : (t.writeAll ws).results = t.results := by
  unfold Team.writeAll; induction ws generalizing t with
  | nil => rfl
  | cons w ws ih => rw [List.foldl_cons, ih]; simp
@[simp] theorem Team.writeAll_conn (t : Team) (ws : List (UnitRef × UnitVal)) : (t.writeAll ws).conn = t.conn := by
  unfold Team.writeAll; induction ws generalizing t with
  | nil => rfl
  | cons w ws ih => rw [List.foldl_cons, ih]; simp
@[simp] theorem Team.writeAll_arrivals (t : Team) (ws : List (UnitRef × UnitVal)) : (t.writeAll ws).arrivals = t.arrivals := by
  unfold Team.writeAll; induction ws generalizing t with
  | nil => rfl
  | cons w ws ih => rw [List.foldl_cons, ih]; simp
@[simp] theorem Team.writeAll_stop (t : Team) (ws : List (UnitRef × UnitVal)) : (t.writeAll ws).stop = t.stop := by
  unfold Team.writeAll; induction ws generalizing t with
  | nil => rfl
  | cons w ws ih => rw [List.foldl_cons, ih]; simp
@[simp] theorem Team.writeAll_poisonHolder (t : Team) (ws : List (UnitRef × UnitVal)) : (t.writeAll ws).poisonHolder = t.poisonHolder := by
  unfold Team.writeAll; induction ws generalizing t with
  | nil => rfl
  | cons w ws ih => rw [List.foldl_cons, ih]; simp
@[simp] theorem Team.writeAll_late (t : Team) (ws : List (UnitRef × UnitVal)) : (t.writeAll ws).late = t.late := by
  unfold Team.writeAll; induction ws generalizing t with
  | nil => rfl
  | cons w ws ih => rw [List.foldl_cons, ih]; simp
@[simp] theorem Team.writeAll_trap (t : Team) (ws : List (UnitRef × UnitVal)) : (t.writeAll ws).trap = t.trap := by
  unfold Team.writeAll; induction ws generalizing t with
  | nil => rfl
  | cons w ws ih => rw [List.foldl_cons, ih]; simp
@[simp] theorem Team.writeAll_handle (t : Team) (ws : List (UnitRef × UnitVal)) : (t.writeAll ws).handle = t.handle := by
  unfold Team.writeAll; induction ws generalizing t with
  | nil => rfl
  | cons w ws ih => rw [List.foldl_cons, ih]; simp
@[simp] theorem Team.writeAll_ctlWord (t : Team) (ws : List (UnitRef × UnitVal)) : (t.writeAll ws).ctlWord = t.ctlWord := by
  unfold Team.writeAll; induction ws generalizing t with
  | nil => rfl
  | cons w ws ih => rw [List.foldl_cons, ih]; simp
@[simp] theorem Team.writeAll_stall (t : Team) (ws : List (UnitRef × UnitVal)) : (t.writeAll ws).stall = t.stall := by
  unfold Team.writeAll; induction ws generalizing t with
  | nil => rfl
  | cons w ws ih => rw [List.foldl_cons, ih]; simp
@[simp] theorem Team.writeAll_hold (t : Team) (ws : List (UnitRef × UnitVal)) : (t.writeAll ws).hold = t.hold := by
  unfold Team.writeAll; induction ws generalizing t with
  | nil => rfl
  | cons w ws ih => rw [List.foldl_cons, ih]; simp
@[simp] theorem Team.writeAll_lastA (t : Team) (ws : List (UnitRef × UnitVal)) : (t.writeAll ws).lastA = t.lastA := by
  unfold Team.writeAll; induction ws generalizing t with
  | nil => rfl
  | cons w ws ih => rw [List.foldl_cons, ih]; simp
@[simp] theorem Team.writeAll_lastB (t : Team) (ws : List (UnitRef × UnitVal)) : (t.writeAll ws).lastB = t.lastB := by
  unfold Team.writeAll; induction ws generalizing t with
  | nil => rfl
  | cons w ws ih => rw [List.foldl_cons, ih]; simp
@[simp] theorem Team.writeAll_yielded (t : Team) (ws : List (UnitRef × UnitVal)) : (t.writeAll ws).yielded = t.yielded := by
  unfold Team.writeAll; induction ws generalizing t with
  | nil => rfl
  | cons w ws ih => rw [List.foldl_cons, ih]; simp
@[simp] theorem Team.writeAll_fryldTurn (t : Team) (ws : List (UnitRef × UnitVal)) : (t.writeAll ws).fryldTurn = t.fryldTurn := by
  unfold Team.writeAll; induction ws generalizing t with
  | nil => rfl
  | cons w ws ih => rw [List.foldl_cons, ih]; simp

@[simp] theorem Team.oweAll_crew (t : Team) (rs : List UnitRef) : (t.oweAll rs).crew = t.crew := by
  unfold Team.oweAll; induction rs generalizing t with
  | nil => rfl
  | cons r rs ih => rw [List.foldl_cons, ih]; simp
@[simp] theorem Team.oweAll_num (t : Team) (rs : List UnitRef) : (t.oweAll rs).num = t.num := by
  unfold Team.oweAll; induction rs generalizing t with
  | nil => rfl
  | cons r rs ih => rw [List.foldl_cons, ih]; simp
@[simp] theorem Team.oweAll_slot (t : Team) (rs : List UnitRef) : (t.oweAll rs).slot = t.slot := by
  unfold Team.oweAll; induction rs generalizing t with
  | nil => rfl
  | cons r rs ih => rw [List.foldl_cons, ih]; simp
@[simp] theorem Team.oweAll_role (t : Team) (rs : List UnitRef) : (t.oweAll rs).role = t.role := by
  unfold Team.oweAll; induction rs generalizing t with
  | nil => rfl
  | cons r rs ih => rw [List.foldl_cons, ih]; simp
@[simp] theorem Team.oweAll_width (t : Team) (rs : List UnitRef) : (t.oweAll rs).width = t.width := by
  unfold Team.oweAll; induction rs generalizing t with
  | nil => rfl
  | cons r rs ih => rw [List.foldl_cons, ih]; simp
@[simp] theorem Team.oweAll_status (t : Team) (rs : List UnitRef) : (t.oweAll rs).status = t.status := by
  unfold Team.oweAll; induction rs generalizing t with
  | nil => rfl
  | cons r rs ih => rw [List.foldl_cons, ih]; simp
@[simp] theorem Team.oweAll_pc (t : Team) (rs : List UnitRef) : (t.oweAll rs).pc = t.pc := by
  unfold Team.oweAll; induction rs generalizing t with
  | nil => rfl
  | cons r rs ih => rw [List.foldl_cons, ih]; simp
@[simp] theorem Team.oweAll_clause (t : Team) (rs : List UnitRef) : (t.oweAll rs).clause = t.clause := by
  unfold Team.oweAll; induction rs generalizing t with
  | nil => rfl
  | cons r rs ih => rw [List.foldl_cons, ih]; simp
@[simp] theorem Team.oweAll_fr (t : Team) (rs : List UnitRef) : (t.oweAll rs).fr = t.fr := by
  unfold Team.oweAll; induction rs generalizing t with
  | nil => rfl
  | cons r rs ih => rw [List.foldl_cons, ih]; simp
@[simp] theorem Team.oweAll_regionVA (t : Team) (rs : List UnitRef) : (t.oweAll rs).regionVA = t.regionVA := by
  unfold Team.oweAll; induction rs generalizing t with
  | nil => rfl
  | cons r rs ih => rw [List.foldl_cons, ih]; simp
@[simp] theorem Team.oweAll_region (t : Team) (rs : List UnitRef) : (t.oweAll rs).region = t.region := by
  unfold Team.oweAll; induction rs generalizing t with
  | nil => rfl
  | cons r rs ih => rw [List.foldl_cons, ih]; simp
@[simp] theorem Team.oweAll_regionCount (t : Team) (rs : List UnitRef) : (t.oweAll rs).regionCount = t.regionCount := by
  unfold Team.oweAll; induction rs generalizing t with
  | nil => rfl
  | cons r rs ih => rw [List.foldl_cons, ih]; simp
@[simp] theorem Team.oweAll_passes (t : Team) (rs : List UnitRef) : (t.oweAll rs).passes = t.passes := by
  unfold Team.oweAll; induction rs generalizing t with
  | nil => rfl
  | cons r rs ih => rw [List.foldl_cons, ih]; simp
@[simp] theorem Team.oweAll_total (t : Team) (rs : List UnitRef) : (t.oweAll rs).total = t.total := by
  unfold Team.oweAll; induction rs generalizing t with
  | nil => rfl
  | cons r rs ih => rw [List.foldl_cons, ih]; simp
@[simp] theorem Team.oweAll_joinDeadline (t : Team) (rs : List UnitRef) : (t.oweAll rs).joinDeadline = t.joinDeadline := by
  unfold Team.oweAll; induction rs generalizing t with
  | nil => rfl
  | cons r rs ih => rw [List.foldl_cons, ih]; simp
@[simp] theorem Team.oweAll_waits (t : Team) (rs : List UnitRef) : (t.oweAll rs).waits = t.waits := by
  unfold Team.oweAll; induction rs generalizing t with
  | nil => rfl
  | cons r rs ih => rw [List.foldl_cons, ih]; simp
@[simp] theorem Team.oweAll_jto (t : Team) (rs : List UnitRef) : (t.oweAll rs).jto = t.jto := by
  unfold Team.oweAll; induction rs generalizing t with
  | nil => rfl
  | cons r rs ih => rw [List.foldl_cons, ih]; simp
@[simp] theorem Team.oweAll_defOn (t : Team) (rs : List UnitRef) : (t.oweAll rs).defOn = t.defOn := by
  unfold Team.oweAll; induction rs generalizing t with
  | nil => rfl
  | cons r rs ih => rw [List.foldl_cons, ih]; simp
@[simp] theorem Team.oweAll_strict (t : Team) (rs : List UnitRef) : (t.oweAll rs).strict = t.strict := by
  unfold Team.oweAll; induction rs generalizing t with
  | nil => rfl
  | cons r rs ih => rw [List.foldl_cons, ih]; simp
@[simp] theorem Team.oweAll_fpf (t : Team) (rs : List UnitRef) : (t.oweAll rs).fpf = t.fpf := by
  unfold Team.oweAll; induction rs generalizing t with
  | nil => rfl
  | cons r rs ih => rw [List.foldl_cons, ih]; simp
@[simp] theorem Team.oweAll_rm (t : Team) (rs : List UnitRef) : (t.oweAll rs).rm = t.rm := by
  unfold Team.oweAll; induction rs generalizing t with
  | nil => rfl
  | cons r rs ih => rw [List.foldl_cons, ih]; simp
@[simp] theorem Team.oweAll_vN (t : Team) (rs : List UnitRef) : (t.oweAll rs).vN = t.vN := by
  unfold Team.oweAll; induction rs generalizing t with
  | nil => rfl
  | cons r rs ih => rw [List.foldl_cons, ih]; simp
@[simp] theorem Team.oweAll_aN (t : Team) (rs : List UnitRef) : (t.oweAll rs).aN = t.aN := by
  unfold Team.oweAll; induction rs generalizing t with
  | nil => rfl
  | cons r rs ih => rw [List.foldl_cons, ih]; simp
@[simp] theorem Team.oweAll_rN (t : Team) (rs : List UnitRef) : (t.oweAll rs).rN = t.rN := by
  unfold Team.oweAll; induction rs generalizing t with
  | nil => rfl
  | cons r rs ih => rw [List.foldl_cons, ih]; simp
@[simp] theorem Team.oweAll_vBase (t : Team) (rs : List UnitRef) : (t.oweAll rs).vBase = t.vBase := by
  unfold Team.oweAll; induction rs generalizing t with
  | nil => rfl
  | cons r rs ih => rw [List.foldl_cons, ih]; simp
@[simp] theorem Team.oweAll_aBase (t : Team) (rs : List UnitRef) : (t.oweAll rs).aBase = t.aBase := by
  unfold Team.oweAll; induction rs generalizing t with
  | nil => rfl
  | cons r rs ih => rw [List.foldl_cons, ih]; simp
@[simp] theorem Team.oweAll_rBase (t : Team) (rs : List UnitRef) : (t.oweAll rs).rBase = t.rBase := by
  unfold Team.oweAll; induction rs generalizing t with
  | nil => rfl
  | cons r rs ih => rw [List.foldl_cons, ih]; simp
@[simp] theorem Team.oweAll_fifo (t : Team) (rs : List UnitRef) : (t.oweAll rs).fifo = t.fifo := by
  unfold Team.oweAll; induction rs generalizing t with
  | nil => rfl
  | cons r rs ih => rw [List.foldl_cons, ih]; simp
@[simp] theorem Team.oweAll_results (t : Team) (rs : List UnitRef) : (t.oweAll rs).results = t.results := by
  unfold Team.oweAll; induction rs generalizing t with
  | nil => rfl
  | cons r rs ih => rw [List.foldl_cons, ih]; simp
@[simp] theorem Team.oweAll_conn (t : Team) (rs : List UnitRef) : (t.oweAll rs).conn = t.conn := by
  unfold Team.oweAll; induction rs generalizing t with
  | nil => rfl
  | cons r rs ih => rw [List.foldl_cons, ih]; simp
@[simp] theorem Team.oweAll_arrivals (t : Team) (rs : List UnitRef) : (t.oweAll rs).arrivals = t.arrivals := by
  unfold Team.oweAll; induction rs generalizing t with
  | nil => rfl
  | cons r rs ih => rw [List.foldl_cons, ih]; simp
@[simp] theorem Team.oweAll_stop (t : Team) (rs : List UnitRef) : (t.oweAll rs).stop = t.stop := by
  unfold Team.oweAll; induction rs generalizing t with
  | nil => rfl
  | cons r rs ih => rw [List.foldl_cons, ih]; simp
@[simp] theorem Team.oweAll_poisonHolder (t : Team) (rs : List UnitRef) : (t.oweAll rs).poisonHolder = t.poisonHolder := by
  unfold Team.oweAll; induction rs generalizing t with
  | nil => rfl
  | cons r rs ih => rw [List.foldl_cons, ih]; simp
@[simp] theorem Team.oweAll_late (t : Team) (rs : List UnitRef) : (t.oweAll rs).late = t.late := by
  unfold Team.oweAll; induction rs generalizing t with
  | nil => rfl
  | cons r rs ih => rw [List.foldl_cons, ih]; simp
@[simp] theorem Team.oweAll_trap (t : Team) (rs : List UnitRef) : (t.oweAll rs).trap = t.trap := by
  unfold Team.oweAll; induction rs generalizing t with
  | nil => rfl
  | cons r rs ih => rw [List.foldl_cons, ih]; simp
@[simp] theorem Team.oweAll_handle (t : Team) (rs : List UnitRef) : (t.oweAll rs).handle = t.handle := by
  unfold Team.oweAll; induction rs generalizing t with
  | nil => rfl
  | cons r rs ih => rw [List.foldl_cons, ih]; simp
@[simp] theorem Team.oweAll_ctlWord (t : Team) (rs : List UnitRef) : (t.oweAll rs).ctlWord = t.ctlWord := by
  unfold Team.oweAll; induction rs generalizing t with
  | nil => rfl
  | cons r rs ih => rw [List.foldl_cons, ih]; simp
@[simp] theorem Team.oweAll_stall (t : Team) (rs : List UnitRef) : (t.oweAll rs).stall = t.stall := by
  unfold Team.oweAll; induction rs generalizing t with
  | nil => rfl
  | cons r rs ih => rw [List.foldl_cons, ih]; simp
@[simp] theorem Team.oweAll_hold (t : Team) (rs : List UnitRef) : (t.oweAll rs).hold = t.hold := by
  unfold Team.oweAll; induction rs generalizing t with
  | nil => rfl
  | cons r rs ih => rw [List.foldl_cons, ih]; simp
@[simp] theorem Team.oweAll_lastA (t : Team) (rs : List UnitRef) : (t.oweAll rs).lastA = t.lastA := by
  unfold Team.oweAll; induction rs generalizing t with
  | nil => rfl
  | cons r rs ih => rw [List.foldl_cons, ih]; simp
@[simp] theorem Team.oweAll_lastB (t : Team) (rs : List UnitRef) : (t.oweAll rs).lastB = t.lastB := by
  unfold Team.oweAll; induction rs generalizing t with
  | nil => rfl
  | cons r rs ih => rw [List.foldl_cons, ih]; simp
@[simp] theorem Team.oweAll_yielded (t : Team) (rs : List UnitRef) : (t.oweAll rs).yielded = t.yielded := by
  unfold Team.oweAll; induction rs generalizing t with
  | nil => rfl
  | cons r rs ih => rw [List.foldl_cons, ih]; simp
@[simp] theorem Team.oweAll_fryldTurn (t : Team) (rs : List UnitRef) : (t.oweAll rs).fryldTurn = t.fryldTurn := by
  unfold Team.oweAll; induction rs generalizing t with
  | nil => rfl
  | cons r rs ih => rw [List.foldl_cons, ih]; simp

@[simp] theorem Team.incW_crew (t : Team) (w : BitVec 3) : (t.incW w).crew = t.crew := by unfold Team.incW; split <;> rfl
@[simp] theorem Team.incW_num (t : Team) (w : BitVec 3) : (t.incW w).num = t.num := by unfold Team.incW; split <;> rfl
@[simp] theorem Team.incW_slot (t : Team) (w : BitVec 3) : (t.incW w).slot = t.slot := by unfold Team.incW; split <;> rfl
@[simp] theorem Team.incW_role (t : Team) (w : BitVec 3) : (t.incW w).role = t.role := by unfold Team.incW; split <;> rfl
@[simp] theorem Team.incW_width (t : Team) (w : BitVec 3) : (t.incW w).width = t.width := by unfold Team.incW; split <;> rfl
@[simp] theorem Team.incW_status (t : Team) (w : BitVec 3) : (t.incW w).status = t.status := by unfold Team.incW; split <;> rfl
@[simp] theorem Team.incW_pc (t : Team) (w : BitVec 3) : (t.incW w).pc = t.pc := by unfold Team.incW; split <;> rfl
@[simp] theorem Team.incW_clause (t : Team) (w : BitVec 3) : (t.incW w).clause = t.clause := by unfold Team.incW; split <;> rfl
@[simp] theorem Team.incW_fr (t : Team) (w : BitVec 3) : (t.incW w).fr = t.fr := by unfold Team.incW; split <;> rfl
@[simp] theorem Team.incW_regionVA (t : Team) (w : BitVec 3) : (t.incW w).regionVA = t.regionVA := by unfold Team.incW; split <;> rfl
@[simp] theorem Team.incW_region (t : Team) (w : BitVec 3) : (t.incW w).region = t.region := by unfold Team.incW; split <;> rfl
@[simp] theorem Team.incW_regionCount (t : Team) (w : BitVec 3) : (t.incW w).regionCount = t.regionCount := by unfold Team.incW; split <;> rfl
@[simp] theorem Team.incW_passes (t : Team) (w : BitVec 3) : (t.incW w).passes = t.passes := by unfold Team.incW; split <;> rfl
@[simp] theorem Team.incW_total (t : Team) (w : BitVec 3) : (t.incW w).total = t.total := by unfold Team.incW; split <;> rfl
@[simp] theorem Team.incW_joinDeadline (t : Team) (w : BitVec 3) : (t.incW w).joinDeadline = t.joinDeadline := by unfold Team.incW; split <;> rfl
@[simp] theorem Team.incW_jto (t : Team) (w : BitVec 3) : (t.incW w).jto = t.jto := by unfold Team.incW; split <;> rfl
@[simp] theorem Team.incW_defOn (t : Team) (w : BitVec 3) : (t.incW w).defOn = t.defOn := by unfold Team.incW; split <;> rfl
@[simp] theorem Team.incW_strict (t : Team) (w : BitVec 3) : (t.incW w).strict = t.strict := by unfold Team.incW; split <;> rfl
@[simp] theorem Team.incW_fpf (t : Team) (w : BitVec 3) : (t.incW w).fpf = t.fpf := by unfold Team.incW; split <;> rfl
@[simp] theorem Team.incW_rm (t : Team) (w : BitVec 3) : (t.incW w).rm = t.rm := by unfold Team.incW; split <;> rfl
@[simp] theorem Team.incW_v (t : Team) (w : BitVec 3) : (t.incW w).v = t.v := by unfold Team.incW; split <;> rfl
@[simp] theorem Team.incW_u (t : Team) (w : BitVec 3) : (t.incW w).u = t.u := by unfold Team.incW; split <;> rfl
@[simp] theorem Team.incW_p (t : Team) (w : BitVec 3) : (t.incW w).p = t.p := by unfold Team.incW; split <;> rfl
@[simp] theorem Team.incW_t (t : Team) (w : BitVec 3) : (t.incW w).t = t.t := by unfold Team.incW; split <;> rfl
@[simp] theorem Team.incW_a (t : Team) (w : BitVec 3) : (t.incW w).a = t.a := by unfold Team.incW; split <;> rfl
@[simp] theorem Team.incW_vN (t : Team) (w : BitVec 3) : (t.incW w).vN = t.vN := by unfold Team.incW; split <;> rfl
@[simp] theorem Team.incW_aN (t : Team) (w : BitVec 3) : (t.incW w).aN = t.aN := by unfold Team.incW; split <;> rfl
@[simp] theorem Team.incW_rN (t : Team) (w : BitVec 3) : (t.incW w).rN = t.rN := by unfold Team.incW; split <;> rfl
@[simp] theorem Team.incW_vBase (t : Team) (w : BitVec 3) : (t.incW w).vBase = t.vBase := by unfold Team.incW; split <;> rfl
@[simp] theorem Team.incW_aBase (t : Team) (w : BitVec 3) : (t.incW w).aBase = t.aBase := by unfold Team.incW; split <;> rfl
@[simp] theorem Team.incW_rBase (t : Team) (w : BitVec 3) : (t.incW w).rBase = t.rBase := by unfold Team.incW; split <;> rfl
@[simp] theorem Team.incW_fifo (t : Team) (w : BitVec 3) : (t.incW w).fifo = t.fifo := by unfold Team.incW; split <;> rfl
@[simp] theorem Team.incW_results (t : Team) (w : BitVec 3) : (t.incW w).results = t.results := by unfold Team.incW; split <;> rfl
@[simp] theorem Team.incW_conn (t : Team) (w : BitVec 3) : (t.incW w).conn = t.conn := by unfold Team.incW; split <;> rfl
@[simp] theorem Team.incW_arrivals (t : Team) (w : BitVec 3) : (t.incW w).arrivals = t.arrivals := by unfold Team.incW; split <;> rfl
@[simp] theorem Team.incW_stop (t : Team) (w : BitVec 3) : (t.incW w).stop = t.stop := by unfold Team.incW; split <;> rfl
@[simp] theorem Team.incW_poisonHolder (t : Team) (w : BitVec 3) : (t.incW w).poisonHolder = t.poisonHolder := by unfold Team.incW; split <;> rfl
@[simp] theorem Team.incW_late (t : Team) (w : BitVec 3) : (t.incW w).late = t.late := by unfold Team.incW; split <;> rfl
@[simp] theorem Team.incW_trap (t : Team) (w : BitVec 3) : (t.incW w).trap = t.trap := by unfold Team.incW; split <;> rfl
@[simp] theorem Team.incW_handle (t : Team) (w : BitVec 3) : (t.incW w).handle = t.handle := by unfold Team.incW; split <;> rfl
@[simp] theorem Team.incW_ctlWord (t : Team) (w : BitVec 3) : (t.incW w).ctlWord = t.ctlWord := by unfold Team.incW; split <;> rfl
@[simp] theorem Team.incW_stall (t : Team) (w : BitVec 3) : (t.incW w).stall = t.stall := by unfold Team.incW; split <;> rfl
@[simp] theorem Team.incW_hold (t : Team) (w : BitVec 3) : (t.incW w).hold = t.hold := by unfold Team.incW; split <;> rfl
@[simp] theorem Team.incW_lastA (t : Team) (w : BitVec 3) : (t.incW w).lastA = t.lastA := by unfold Team.incW; split <;> rfl
@[simp] theorem Team.incW_lastB (t : Team) (w : BitVec 3) : (t.incW w).lastB = t.lastB := by unfold Team.incW; split <;> rfl
@[simp] theorem Team.incW_yielded (t : Team) (w : BitVec 3) : (t.incW w).yielded = t.yielded := by unfold Team.incW; split <;> rfl
@[simp] theorem Team.incW_fryldTurn (t : Team) (w : BitVec 3) : (t.incW w).fryldTurn = t.fryldTurn := by unfold Team.incW; split <;> rfl

@[simp] theorem Team.decW_crew (t : Team) (w : BitVec 3) : (t.decW w).crew = t.crew := by unfold Team.decW; split <;> rfl
@[simp] theorem Team.decW_num (t : Team) (w : BitVec 3) : (t.decW w).num = t.num := by unfold Team.decW; split <;> rfl
@[simp] theorem Team.decW_slot (t : Team) (w : BitVec 3) : (t.decW w).slot = t.slot := by unfold Team.decW; split <;> rfl
@[simp] theorem Team.decW_role (t : Team) (w : BitVec 3) : (t.decW w).role = t.role := by unfold Team.decW; split <;> rfl
@[simp] theorem Team.decW_width (t : Team) (w : BitVec 3) : (t.decW w).width = t.width := by unfold Team.decW; split <;> rfl
@[simp] theorem Team.decW_status (t : Team) (w : BitVec 3) : (t.decW w).status = t.status := by unfold Team.decW; split <;> rfl
@[simp] theorem Team.decW_pc (t : Team) (w : BitVec 3) : (t.decW w).pc = t.pc := by unfold Team.decW; split <;> rfl
@[simp] theorem Team.decW_clause (t : Team) (w : BitVec 3) : (t.decW w).clause = t.clause := by unfold Team.decW; split <;> rfl
@[simp] theorem Team.decW_fr (t : Team) (w : BitVec 3) : (t.decW w).fr = t.fr := by unfold Team.decW; split <;> rfl
@[simp] theorem Team.decW_regionVA (t : Team) (w : BitVec 3) : (t.decW w).regionVA = t.regionVA := by unfold Team.decW; split <;> rfl
@[simp] theorem Team.decW_region (t : Team) (w : BitVec 3) : (t.decW w).region = t.region := by unfold Team.decW; split <;> rfl
@[simp] theorem Team.decW_regionCount (t : Team) (w : BitVec 3) : (t.decW w).regionCount = t.regionCount := by unfold Team.decW; split <;> rfl
@[simp] theorem Team.decW_passes (t : Team) (w : BitVec 3) : (t.decW w).passes = t.passes := by unfold Team.decW; split <;> rfl
@[simp] theorem Team.decW_total (t : Team) (w : BitVec 3) : (t.decW w).total = t.total := by unfold Team.decW; split <;> rfl
@[simp] theorem Team.decW_joinDeadline (t : Team) (w : BitVec 3) : (t.decW w).joinDeadline = t.joinDeadline := by unfold Team.decW; split <;> rfl
@[simp] theorem Team.decW_jto (t : Team) (w : BitVec 3) : (t.decW w).jto = t.jto := by unfold Team.decW; split <;> rfl
@[simp] theorem Team.decW_defOn (t : Team) (w : BitVec 3) : (t.decW w).defOn = t.defOn := by unfold Team.decW; split <;> rfl
@[simp] theorem Team.decW_strict (t : Team) (w : BitVec 3) : (t.decW w).strict = t.strict := by unfold Team.decW; split <;> rfl
@[simp] theorem Team.decW_fpf (t : Team) (w : BitVec 3) : (t.decW w).fpf = t.fpf := by unfold Team.decW; split <;> rfl
@[simp] theorem Team.decW_rm (t : Team) (w : BitVec 3) : (t.decW w).rm = t.rm := by unfold Team.decW; split <;> rfl
@[simp] theorem Team.decW_v (t : Team) (w : BitVec 3) : (t.decW w).v = t.v := by unfold Team.decW; split <;> rfl
@[simp] theorem Team.decW_u (t : Team) (w : BitVec 3) : (t.decW w).u = t.u := by unfold Team.decW; split <;> rfl
@[simp] theorem Team.decW_p (t : Team) (w : BitVec 3) : (t.decW w).p = t.p := by unfold Team.decW; split <;> rfl
@[simp] theorem Team.decW_t (t : Team) (w : BitVec 3) : (t.decW w).t = t.t := by unfold Team.decW; split <;> rfl
@[simp] theorem Team.decW_a (t : Team) (w : BitVec 3) : (t.decW w).a = t.a := by unfold Team.decW; split <;> rfl
@[simp] theorem Team.decW_vN (t : Team) (w : BitVec 3) : (t.decW w).vN = t.vN := by unfold Team.decW; split <;> rfl
@[simp] theorem Team.decW_aN (t : Team) (w : BitVec 3) : (t.decW w).aN = t.aN := by unfold Team.decW; split <;> rfl
@[simp] theorem Team.decW_rN (t : Team) (w : BitVec 3) : (t.decW w).rN = t.rN := by unfold Team.decW; split <;> rfl
@[simp] theorem Team.decW_vBase (t : Team) (w : BitVec 3) : (t.decW w).vBase = t.vBase := by unfold Team.decW; split <;> rfl
@[simp] theorem Team.decW_aBase (t : Team) (w : BitVec 3) : (t.decW w).aBase = t.aBase := by unfold Team.decW; split <;> rfl
@[simp] theorem Team.decW_rBase (t : Team) (w : BitVec 3) : (t.decW w).rBase = t.rBase := by unfold Team.decW; split <;> rfl
@[simp] theorem Team.decW_fifo (t : Team) (w : BitVec 3) : (t.decW w).fifo = t.fifo := by unfold Team.decW; split <;> rfl
@[simp] theorem Team.decW_results (t : Team) (w : BitVec 3) : (t.decW w).results = t.results := by unfold Team.decW; split <;> rfl
@[simp] theorem Team.decW_conn (t : Team) (w : BitVec 3) : (t.decW w).conn = t.conn := by unfold Team.decW; split <;> rfl
@[simp] theorem Team.decW_arrivals (t : Team) (w : BitVec 3) : (t.decW w).arrivals = t.arrivals := by unfold Team.decW; split <;> rfl
@[simp] theorem Team.decW_stop (t : Team) (w : BitVec 3) : (t.decW w).stop = t.stop := by unfold Team.decW; split <;> rfl
@[simp] theorem Team.decW_poisonHolder (t : Team) (w : BitVec 3) : (t.decW w).poisonHolder = t.poisonHolder := by unfold Team.decW; split <;> rfl
@[simp] theorem Team.decW_late (t : Team) (w : BitVec 3) : (t.decW w).late = t.late := by unfold Team.decW; split <;> rfl
@[simp] theorem Team.decW_trap (t : Team) (w : BitVec 3) : (t.decW w).trap = t.trap := by unfold Team.decW; split <;> rfl
@[simp] theorem Team.decW_handle (t : Team) (w : BitVec 3) : (t.decW w).handle = t.handle := by unfold Team.decW; split <;> rfl
@[simp] theorem Team.decW_ctlWord (t : Team) (w : BitVec 3) : (t.decW w).ctlWord = t.ctlWord := by unfold Team.decW; split <;> rfl
@[simp] theorem Team.decW_stall (t : Team) (w : BitVec 3) : (t.decW w).stall = t.stall := by unfold Team.decW; split <;> rfl
@[simp] theorem Team.decW_hold (t : Team) (w : BitVec 3) : (t.decW w).hold = t.hold := by unfold Team.decW; split <;> rfl
@[simp] theorem Team.decW_lastA (t : Team) (w : BitVec 3) : (t.decW w).lastA = t.lastA := by unfold Team.decW; split <;> rfl
@[simp] theorem Team.decW_lastB (t : Team) (w : BitVec 3) : (t.decW w).lastB = t.lastB := by unfold Team.decW; split <;> rfl
@[simp] theorem Team.decW_yielded (t : Team) (w : BitVec 3) : (t.decW w).yielded = t.yielded := by unfold Team.decW; split <;> rfl
@[simp] theorem Team.decW_fryldTurn (t : Team) (w : BitVec 3) : (t.decW w).fryldTurn = t.fryldTurn := by unfold Team.decW; split <;> rfl

@[simp] theorem Team.countPasses_crew (t : Team) (n : Nat) : (t.countPasses n).crew = t.crew := rfl
@[simp] theorem Team.countPasses_num (t : Team) (n : Nat) : (t.countPasses n).num = t.num := rfl
@[simp] theorem Team.countPasses_slot (t : Team) (n : Nat) : (t.countPasses n).slot = t.slot := rfl
@[simp] theorem Team.countPasses_role (t : Team) (n : Nat) : (t.countPasses n).role = t.role := rfl
@[simp] theorem Team.countPasses_width (t : Team) (n : Nat) : (t.countPasses n).width = t.width := rfl
@[simp] theorem Team.countPasses_status (t : Team) (n : Nat) : (t.countPasses n).status = t.status := rfl
@[simp] theorem Team.countPasses_pc (t : Team) (n : Nat) : (t.countPasses n).pc = t.pc := rfl
@[simp] theorem Team.countPasses_clause (t : Team) (n : Nat) : (t.countPasses n).clause = t.clause := rfl
@[simp] theorem Team.countPasses_fr (t : Team) (n : Nat) : (t.countPasses n).fr = t.fr := rfl
@[simp] theorem Team.countPasses_regionVA (t : Team) (n : Nat) : (t.countPasses n).regionVA = t.regionVA := rfl
@[simp] theorem Team.countPasses_region (t : Team) (n : Nat) : (t.countPasses n).region = t.region := rfl
@[simp] theorem Team.countPasses_regionCount (t : Team) (n : Nat) : (t.countPasses n).regionCount = t.regionCount := rfl
@[simp] theorem Team.countPasses_joinDeadline (t : Team) (n : Nat) : (t.countPasses n).joinDeadline = t.joinDeadline := rfl
@[simp] theorem Team.countPasses_waits (t : Team) (n : Nat) : (t.countPasses n).waits = t.waits := rfl
@[simp] theorem Team.countPasses_jto (t : Team) (n : Nat) : (t.countPasses n).jto = t.jto := rfl
@[simp] theorem Team.countPasses_defOn (t : Team) (n : Nat) : (t.countPasses n).defOn = t.defOn := rfl
@[simp] theorem Team.countPasses_strict (t : Team) (n : Nat) : (t.countPasses n).strict = t.strict := rfl
@[simp] theorem Team.countPasses_fpf (t : Team) (n : Nat) : (t.countPasses n).fpf = t.fpf := rfl
@[simp] theorem Team.countPasses_rm (t : Team) (n : Nat) : (t.countPasses n).rm = t.rm := rfl
@[simp] theorem Team.countPasses_v (t : Team) (n : Nat) : (t.countPasses n).v = t.v := rfl
@[simp] theorem Team.countPasses_u (t : Team) (n : Nat) : (t.countPasses n).u = t.u := rfl
@[simp] theorem Team.countPasses_p (t : Team) (n : Nat) : (t.countPasses n).p = t.p := rfl
@[simp] theorem Team.countPasses_t (t : Team) (n : Nat) : (t.countPasses n).t = t.t := rfl
@[simp] theorem Team.countPasses_a (t : Team) (n : Nat) : (t.countPasses n).a = t.a := rfl
@[simp] theorem Team.countPasses_vN (t : Team) (n : Nat) : (t.countPasses n).vN = t.vN := rfl
@[simp] theorem Team.countPasses_aN (t : Team) (n : Nat) : (t.countPasses n).aN = t.aN := rfl
@[simp] theorem Team.countPasses_rN (t : Team) (n : Nat) : (t.countPasses n).rN = t.rN := rfl
@[simp] theorem Team.countPasses_vBase (t : Team) (n : Nat) : (t.countPasses n).vBase = t.vBase := rfl
@[simp] theorem Team.countPasses_aBase (t : Team) (n : Nat) : (t.countPasses n).aBase = t.aBase := rfl
@[simp] theorem Team.countPasses_rBase (t : Team) (n : Nat) : (t.countPasses n).rBase = t.rBase := rfl
@[simp] theorem Team.countPasses_fifo (t : Team) (n : Nat) : (t.countPasses n).fifo = t.fifo := rfl
@[simp] theorem Team.countPasses_results (t : Team) (n : Nat) : (t.countPasses n).results = t.results := rfl
@[simp] theorem Team.countPasses_conn (t : Team) (n : Nat) : (t.countPasses n).conn = t.conn := rfl
@[simp] theorem Team.countPasses_arrivals (t : Team) (n : Nat) : (t.countPasses n).arrivals = t.arrivals := rfl
@[simp] theorem Team.countPasses_stop (t : Team) (n : Nat) : (t.countPasses n).stop = t.stop := rfl
@[simp] theorem Team.countPasses_poisonHolder (t : Team) (n : Nat) : (t.countPasses n).poisonHolder = t.poisonHolder := rfl
@[simp] theorem Team.countPasses_late (t : Team) (n : Nat) : (t.countPasses n).late = t.late := rfl
@[simp] theorem Team.countPasses_trap (t : Team) (n : Nat) : (t.countPasses n).trap = t.trap := rfl
@[simp] theorem Team.countPasses_handle (t : Team) (n : Nat) : (t.countPasses n).handle = t.handle := rfl
@[simp] theorem Team.countPasses_ctlWord (t : Team) (n : Nat) : (t.countPasses n).ctlWord = t.ctlWord := rfl
@[simp] theorem Team.countPasses_stall (t : Team) (n : Nat) : (t.countPasses n).stall = t.stall := rfl
@[simp] theorem Team.countPasses_hold (t : Team) (n : Nat) : (t.countPasses n).hold = t.hold := rfl
@[simp] theorem Team.countPasses_lastA (t : Team) (n : Nat) : (t.countPasses n).lastA = t.lastA := rfl
@[simp] theorem Team.countPasses_lastB (t : Team) (n : Nat) : (t.countPasses n).lastB = t.lastB := rfl
@[simp] theorem Team.countPasses_yielded (t : Team) (n : Nat) : (t.countPasses n).yielded = t.yielded := rfl
@[simp] theorem Team.countPasses_fryldTurn (t : Team) (n : Nat) : (t.countPasses n).fryldTurn = t.fryldTurn := rfl

@[simp] theorem Team.deliver_crew (t : Team) (o : Owed) (x : UnitVal) : (t.deliver o x).crew = t.crew := rfl
@[simp] theorem Team.deliver_num (t : Team) (o : Owed) (x : UnitVal) : (t.deliver o x).num = t.num := rfl
@[simp] theorem Team.deliver_slot (t : Team) (o : Owed) (x : UnitVal) : (t.deliver o x).slot = t.slot := rfl
@[simp] theorem Team.deliver_role (t : Team) (o : Owed) (x : UnitVal) : (t.deliver o x).role = t.role := rfl
@[simp] theorem Team.deliver_width (t : Team) (o : Owed) (x : UnitVal) : (t.deliver o x).width = t.width := rfl
@[simp] theorem Team.deliver_status (t : Team) (o : Owed) (x : UnitVal) : (t.deliver o x).status = t.status := rfl
@[simp] theorem Team.deliver_pc (t : Team) (o : Owed) (x : UnitVal) : (t.deliver o x).pc = t.pc := rfl
@[simp] theorem Team.deliver_clause (t : Team) (o : Owed) (x : UnitVal) : (t.deliver o x).clause = t.clause := rfl
@[simp] theorem Team.deliver_fr (t : Team) (o : Owed) (x : UnitVal) : (t.deliver o x).fr = t.fr := rfl
@[simp] theorem Team.deliver_regionVA (t : Team) (o : Owed) (x : UnitVal) : (t.deliver o x).regionVA = t.regionVA := rfl
@[simp] theorem Team.deliver_region (t : Team) (o : Owed) (x : UnitVal) : (t.deliver o x).region = t.region := rfl
@[simp] theorem Team.deliver_regionCount (t : Team) (o : Owed) (x : UnitVal) : (t.deliver o x).regionCount = t.regionCount := rfl
@[simp] theorem Team.deliver_passes (t : Team) (o : Owed) (x : UnitVal) : (t.deliver o x).passes = t.passes := rfl
@[simp] theorem Team.deliver_total (t : Team) (o : Owed) (x : UnitVal) : (t.deliver o x).total = t.total := rfl
@[simp] theorem Team.deliver_joinDeadline (t : Team) (o : Owed) (x : UnitVal) : (t.deliver o x).joinDeadline = t.joinDeadline := rfl
@[simp] theorem Team.deliver_waits (t : Team) (o : Owed) (x : UnitVal) : (t.deliver o x).waits = t.waits := rfl
@[simp] theorem Team.deliver_jto (t : Team) (o : Owed) (x : UnitVal) : (t.deliver o x).jto = t.jto := rfl
@[simp] theorem Team.deliver_defOn (t : Team) (o : Owed) (x : UnitVal) : (t.deliver o x).defOn = t.defOn := rfl
@[simp] theorem Team.deliver_strict (t : Team) (o : Owed) (x : UnitVal) : (t.deliver o x).strict = t.strict := rfl
@[simp] theorem Team.deliver_fpf (t : Team) (o : Owed) (x : UnitVal) : (t.deliver o x).fpf = t.fpf := rfl
@[simp] theorem Team.deliver_rm (t : Team) (o : Owed) (x : UnitVal) : (t.deliver o x).rm = t.rm := rfl
@[simp] theorem Team.deliver_v (t : Team) (o : Owed) (x : UnitVal) : (t.deliver o x).v = t.v := rfl
@[simp] theorem Team.deliver_u (t : Team) (o : Owed) (x : UnitVal) : (t.deliver o x).u = t.u := rfl
@[simp] theorem Team.deliver_p (t : Team) (o : Owed) (x : UnitVal) : (t.deliver o x).p = t.p := rfl
@[simp] theorem Team.deliver_t (t : Team) (o : Owed) (x : UnitVal) : (t.deliver o x).t = t.t := rfl
@[simp] theorem Team.deliver_a (t : Team) (o : Owed) (x : UnitVal) : (t.deliver o x).a = t.a := rfl
@[simp] theorem Team.deliver_vN (t : Team) (o : Owed) (x : UnitVal) : (t.deliver o x).vN = t.vN := rfl
@[simp] theorem Team.deliver_aN (t : Team) (o : Owed) (x : UnitVal) : (t.deliver o x).aN = t.aN := rfl
@[simp] theorem Team.deliver_rN (t : Team) (o : Owed) (x : UnitVal) : (t.deliver o x).rN = t.rN := rfl
@[simp] theorem Team.deliver_vBase (t : Team) (o : Owed) (x : UnitVal) : (t.deliver o x).vBase = t.vBase := rfl
@[simp] theorem Team.deliver_aBase (t : Team) (o : Owed) (x : UnitVal) : (t.deliver o x).aBase = t.aBase := rfl
@[simp] theorem Team.deliver_rBase (t : Team) (o : Owed) (x : UnitVal) : (t.deliver o x).rBase = t.rBase := rfl
@[simp] theorem Team.deliver_results (t : Team) (o : Owed) (x : UnitVal) : (t.deliver o x).results = t.results := rfl
@[simp] theorem Team.deliver_conn (t : Team) (o : Owed) (x : UnitVal) : (t.deliver o x).conn = t.conn := rfl
@[simp] theorem Team.deliver_arrivals (t : Team) (o : Owed) (x : UnitVal) : (t.deliver o x).arrivals = t.arrivals := rfl
@[simp] theorem Team.deliver_stop (t : Team) (o : Owed) (x : UnitVal) : (t.deliver o x).stop = t.stop := rfl
@[simp] theorem Team.deliver_poisonHolder (t : Team) (o : Owed) (x : UnitVal) : (t.deliver o x).poisonHolder = t.poisonHolder := rfl
@[simp] theorem Team.deliver_late (t : Team) (o : Owed) (x : UnitVal) : (t.deliver o x).late = t.late := rfl
@[simp] theorem Team.deliver_trap (t : Team) (o : Owed) (x : UnitVal) : (t.deliver o x).trap = t.trap := rfl
@[simp] theorem Team.deliver_handle (t : Team) (o : Owed) (x : UnitVal) : (t.deliver o x).handle = t.handle := rfl
@[simp] theorem Team.deliver_ctlWord (t : Team) (o : Owed) (x : UnitVal) : (t.deliver o x).ctlWord = t.ctlWord := rfl
@[simp] theorem Team.deliver_stall (t : Team) (o : Owed) (x : UnitVal) : (t.deliver o x).stall = t.stall := rfl
@[simp] theorem Team.deliver_hold (t : Team) (o : Owed) (x : UnitVal) : (t.deliver o x).hold = t.hold := rfl
@[simp] theorem Team.deliver_lastA (t : Team) (o : Owed) (x : UnitVal) : (t.deliver o x).lastA = t.lastA := rfl
@[simp] theorem Team.deliver_lastB (t : Team) (o : Owed) (x : UnitVal) : (t.deliver o x).lastB = t.lastB := rfl
@[simp] theorem Team.deliver_yielded (t : Team) (o : Owed) (x : UnitVal) : (t.deliver o x).yielded = t.yielded := rfl
@[simp] theorem Team.deliver_fryldTurn (t : Team) (o : Owed) (x : UnitVal) : (t.deliver o x).fryldTurn = t.fryldTurn := rfl

@[simp] theorem Team.goTo_crew (t : Team) (x : VA) : (t.goTo x).crew = t.crew := rfl
@[simp] theorem Team.goTo_num (t : Team) (x : VA) : (t.goTo x).num = t.num := rfl
@[simp] theorem Team.goTo_slot (t : Team) (x : VA) : (t.goTo x).slot = t.slot := rfl
@[simp] theorem Team.goTo_role (t : Team) (x : VA) : (t.goTo x).role = t.role := rfl
@[simp] theorem Team.goTo_width (t : Team) (x : VA) : (t.goTo x).width = t.width := rfl
@[simp] theorem Team.goTo_status (t : Team) (x : VA) : (t.goTo x).status = t.status := rfl
@[simp] theorem Team.goTo_fr (t : Team) (x : VA) : (t.goTo x).fr = t.fr := rfl
@[simp] theorem Team.goTo_regionVA (t : Team) (x : VA) : (t.goTo x).regionVA = t.regionVA := rfl
@[simp] theorem Team.goTo_region (t : Team) (x : VA) : (t.goTo x).region = t.region := rfl
@[simp] theorem Team.goTo_regionCount (t : Team) (x : VA) : (t.goTo x).regionCount = t.regionCount := rfl
@[simp] theorem Team.goTo_passes (t : Team) (x : VA) : (t.goTo x).passes = t.passes := rfl
@[simp] theorem Team.goTo_total (t : Team) (x : VA) : (t.goTo x).total = t.total := rfl
@[simp] theorem Team.goTo_joinDeadline (t : Team) (x : VA) : (t.goTo x).joinDeadline = t.joinDeadline := rfl
@[simp] theorem Team.goTo_waits (t : Team) (x : VA) : (t.goTo x).waits = t.waits := rfl
@[simp] theorem Team.goTo_jto (t : Team) (x : VA) : (t.goTo x).jto = t.jto := rfl
@[simp] theorem Team.goTo_defOn (t : Team) (x : VA) : (t.goTo x).defOn = t.defOn := rfl
@[simp] theorem Team.goTo_strict (t : Team) (x : VA) : (t.goTo x).strict = t.strict := rfl
@[simp] theorem Team.goTo_fpf (t : Team) (x : VA) : (t.goTo x).fpf = t.fpf := rfl
@[simp] theorem Team.goTo_rm (t : Team) (x : VA) : (t.goTo x).rm = t.rm := rfl
@[simp] theorem Team.goTo_v (t : Team) (x : VA) : (t.goTo x).v = t.v := rfl
@[simp] theorem Team.goTo_u (t : Team) (x : VA) : (t.goTo x).u = t.u := rfl
@[simp] theorem Team.goTo_p (t : Team) (x : VA) : (t.goTo x).p = t.p := rfl
@[simp] theorem Team.goTo_t (t : Team) (x : VA) : (t.goTo x).t = t.t := rfl
@[simp] theorem Team.goTo_a (t : Team) (x : VA) : (t.goTo x).a = t.a := rfl
@[simp] theorem Team.goTo_vN (t : Team) (x : VA) : (t.goTo x).vN = t.vN := rfl
@[simp] theorem Team.goTo_aN (t : Team) (x : VA) : (t.goTo x).aN = t.aN := rfl
@[simp] theorem Team.goTo_rN (t : Team) (x : VA) : (t.goTo x).rN = t.rN := rfl
@[simp] theorem Team.goTo_vBase (t : Team) (x : VA) : (t.goTo x).vBase = t.vBase := rfl
@[simp] theorem Team.goTo_aBase (t : Team) (x : VA) : (t.goTo x).aBase = t.aBase := rfl
@[simp] theorem Team.goTo_rBase (t : Team) (x : VA) : (t.goTo x).rBase = t.rBase := rfl
@[simp] theorem Team.goTo_fifo (t : Team) (x : VA) : (t.goTo x).fifo = t.fifo := rfl
@[simp] theorem Team.goTo_results (t : Team) (x : VA) : (t.goTo x).results = t.results := rfl
@[simp] theorem Team.goTo_conn (t : Team) (x : VA) : (t.goTo x).conn = t.conn := rfl
@[simp] theorem Team.goTo_arrivals (t : Team) (x : VA) : (t.goTo x).arrivals = t.arrivals := rfl
@[simp] theorem Team.goTo_stop (t : Team) (x : VA) : (t.goTo x).stop = t.stop := rfl
@[simp] theorem Team.goTo_poisonHolder (t : Team) (x : VA) : (t.goTo x).poisonHolder = t.poisonHolder := rfl
@[simp] theorem Team.goTo_late (t : Team) (x : VA) : (t.goTo x).late = t.late := rfl
@[simp] theorem Team.goTo_trap (t : Team) (x : VA) : (t.goTo x).trap = t.trap := rfl
@[simp] theorem Team.goTo_handle (t : Team) (x : VA) : (t.goTo x).handle = t.handle := rfl
@[simp] theorem Team.goTo_ctlWord (t : Team) (x : VA) : (t.goTo x).ctlWord = t.ctlWord := rfl
@[simp] theorem Team.goTo_stall (t : Team) (x : VA) : (t.goTo x).stall = t.stall := rfl
@[simp] theorem Team.goTo_hold (t : Team) (x : VA) : (t.goTo x).hold = t.hold := rfl
@[simp] theorem Team.goTo_lastA (t : Team) (x : VA) : (t.goTo x).lastA = t.lastA := rfl
@[simp] theorem Team.goTo_lastB (t : Team) (x : VA) : (t.goTo x).lastB = t.lastB := rfl
@[simp] theorem Team.goTo_fryldTurn (t : Team) (x : VA) : (t.goTo x).fryldTurn = t.fryldTurn := rfl

@[simp] theorem Team.close_crew (t : Team)  : (t.close ).crew = t.crew := rfl
@[simp] theorem Team.close_num (t : Team)  : (t.close ).num = t.num := rfl
@[simp] theorem Team.close_slot (t : Team)  : (t.close ).slot = t.slot := rfl
@[simp] theorem Team.close_role (t : Team)  : (t.close ).role = t.role := rfl
@[simp] theorem Team.close_width (t : Team)  : (t.close ).width = t.width := rfl
@[simp] theorem Team.close_status (t : Team)  : (t.close ).status = t.status := rfl
@[simp] theorem Team.close_pc (t : Team)  : (t.close ).pc = t.pc := rfl
@[simp] theorem Team.close_fr (t : Team)  : (t.close ).fr = t.fr := rfl
@[simp] theorem Team.close_regionVA (t : Team)  : (t.close ).regionVA = t.regionVA := rfl
@[simp] theorem Team.close_region (t : Team)  : (t.close ).region = t.region := rfl
@[simp] theorem Team.close_regionCount (t : Team)  : (t.close ).regionCount = t.regionCount := rfl
@[simp] theorem Team.close_passes (t : Team)  : (t.close ).passes = t.passes := rfl
@[simp] theorem Team.close_total (t : Team)  : (t.close ).total = t.total := rfl
@[simp] theorem Team.close_joinDeadline (t : Team)  : (t.close ).joinDeadline = t.joinDeadline := rfl
@[simp] theorem Team.close_waits (t : Team)  : (t.close ).waits = t.waits := rfl
@[simp] theorem Team.close_jto (t : Team)  : (t.close ).jto = t.jto := rfl
@[simp] theorem Team.close_defOn (t : Team)  : (t.close ).defOn = t.defOn := rfl
@[simp] theorem Team.close_strict (t : Team)  : (t.close ).strict = t.strict := rfl
@[simp] theorem Team.close_fpf (t : Team)  : (t.close ).fpf = t.fpf := rfl
@[simp] theorem Team.close_rm (t : Team)  : (t.close ).rm = t.rm := rfl
@[simp] theorem Team.close_v (t : Team)  : (t.close ).v = t.v := rfl
@[simp] theorem Team.close_u (t : Team)  : (t.close ).u = t.u := rfl
@[simp] theorem Team.close_p (t : Team)  : (t.close ).p = t.p := rfl
@[simp] theorem Team.close_t (t : Team)  : (t.close ).t = t.t := rfl
@[simp] theorem Team.close_a (t : Team)  : (t.close ).a = t.a := rfl
@[simp] theorem Team.close_vN (t : Team)  : (t.close ).vN = t.vN := rfl
@[simp] theorem Team.close_aN (t : Team)  : (t.close ).aN = t.aN := rfl
@[simp] theorem Team.close_rN (t : Team)  : (t.close ).rN = t.rN := rfl
@[simp] theorem Team.close_vBase (t : Team)  : (t.close ).vBase = t.vBase := rfl
@[simp] theorem Team.close_aBase (t : Team)  : (t.close ).aBase = t.aBase := rfl
@[simp] theorem Team.close_rBase (t : Team)  : (t.close ).rBase = t.rBase := rfl
@[simp] theorem Team.close_fifo (t : Team)  : (t.close ).fifo = t.fifo := rfl
@[simp] theorem Team.close_results (t : Team)  : (t.close ).results = t.results := rfl
@[simp] theorem Team.close_conn (t : Team)  : (t.close ).conn = t.conn := rfl
@[simp] theorem Team.close_arrivals (t : Team)  : (t.close ).arrivals = t.arrivals := rfl
@[simp] theorem Team.close_stop (t : Team)  : (t.close ).stop = t.stop := rfl
@[simp] theorem Team.close_poisonHolder (t : Team)  : (t.close ).poisonHolder = t.poisonHolder := rfl
@[simp] theorem Team.close_late (t : Team)  : (t.close ).late = t.late := rfl
@[simp] theorem Team.close_trap (t : Team)  : (t.close ).trap = t.trap := rfl
@[simp] theorem Team.close_handle (t : Team)  : (t.close ).handle = t.handle := rfl
@[simp] theorem Team.close_ctlWord (t : Team)  : (t.close ).ctlWord = t.ctlWord := rfl
@[simp] theorem Team.close_stall (t : Team)  : (t.close ).stall = t.stall := rfl
@[simp] theorem Team.close_hold (t : Team)  : (t.close ).hold = t.hold := rfl
@[simp] theorem Team.close_lastA (t : Team)  : (t.close ).lastA = t.lastA := rfl
@[simp] theorem Team.close_lastB (t : Team)  : (t.close ).lastB = t.lastB := rfl
@[simp] theorem Team.close_fryldTurn (t : Team)  : (t.close ).fryldTurn = t.fryldTurn := rfl

@[simp] theorem Team.advance_crew (t : Team) (n : Nat) : (t.advance n).crew = t.crew := by
  unfold Team.advance Team.onward Team.endTest; split <;> (try split) <;> (try split) <;> rfl
@[simp] theorem Team.advance_num (t : Team) (n : Nat) : (t.advance n).num = t.num := by
  unfold Team.advance Team.onward Team.endTest; split <;> (try split) <;> (try split) <;> rfl
@[simp] theorem Team.advance_slot (t : Team) (n : Nat) : (t.advance n).slot = t.slot := by
  unfold Team.advance Team.onward Team.endTest; split <;> (try split) <;> (try split) <;> rfl
@[simp] theorem Team.advance_role (t : Team) (n : Nat) : (t.advance n).role = t.role := by
  unfold Team.advance Team.onward Team.endTest; split <;> (try split) <;> (try split) <;> rfl
@[simp] theorem Team.advance_width (t : Team) (n : Nat) : (t.advance n).width = t.width := by
  unfold Team.advance Team.onward Team.endTest; split <;> (try split) <;> (try split) <;> rfl
@[simp] theorem Team.advance_status (t : Team) (n : Nat) : (t.advance n).status = t.status := by
  unfold Team.advance Team.onward Team.endTest; split <;> (try split) <;> (try split) <;> rfl
@[simp] theorem Team.advance_regionVA (t : Team) (n : Nat) : (t.advance n).regionVA = t.regionVA := by
  unfold Team.advance Team.onward Team.endTest; split <;> (try split) <;> (try split) <;> rfl
@[simp] theorem Team.advance_region (t : Team) (n : Nat) : (t.advance n).region = t.region := by
  unfold Team.advance Team.onward Team.endTest; split <;> (try split) <;> (try split) <;> rfl
@[simp] theorem Team.advance_regionCount (t : Team) (n : Nat) : (t.advance n).regionCount = t.regionCount := by
  unfold Team.advance Team.onward Team.endTest; split <;> (try split) <;> (try split) <;> rfl
@[simp] theorem Team.advance_passes (t : Team) (n : Nat) : (t.advance n).passes = t.passes := by
  unfold Team.advance Team.onward Team.endTest; split <;> (try split) <;> (try split) <;> rfl
@[simp] theorem Team.advance_total (t : Team) (n : Nat) : (t.advance n).total = t.total := by
  unfold Team.advance Team.onward Team.endTest; split <;> (try split) <;> (try split) <;> rfl
@[simp] theorem Team.advance_joinDeadline (t : Team) (n : Nat) : (t.advance n).joinDeadline = t.joinDeadline := by
  unfold Team.advance Team.onward Team.endTest; split <;> (try split) <;> (try split) <;> rfl
@[simp] theorem Team.advance_waits (t : Team) (n : Nat) : (t.advance n).waits = t.waits := by
  unfold Team.advance Team.onward Team.endTest; split <;> (try split) <;> (try split) <;> rfl
@[simp] theorem Team.advance_jto (t : Team) (n : Nat) : (t.advance n).jto = t.jto := by
  unfold Team.advance Team.onward Team.endTest; split <;> (try split) <;> (try split) <;> rfl
@[simp] theorem Team.advance_defOn (t : Team) (n : Nat) : (t.advance n).defOn = t.defOn := by
  unfold Team.advance Team.onward Team.endTest; split <;> (try split) <;> (try split) <;> rfl
@[simp] theorem Team.advance_strict (t : Team) (n : Nat) : (t.advance n).strict = t.strict := by
  unfold Team.advance Team.onward Team.endTest; split <;> (try split) <;> (try split) <;> rfl
@[simp] theorem Team.advance_fpf (t : Team) (n : Nat) : (t.advance n).fpf = t.fpf := by
  unfold Team.advance Team.onward Team.endTest; split <;> (try split) <;> (try split) <;> rfl
@[simp] theorem Team.advance_rm (t : Team) (n : Nat) : (t.advance n).rm = t.rm := by
  unfold Team.advance Team.onward Team.endTest; split <;> (try split) <;> (try split) <;> rfl
@[simp] theorem Team.advance_v (t : Team) (n : Nat) : (t.advance n).v = t.v := by
  unfold Team.advance Team.onward Team.endTest; split <;> (try split) <;> (try split) <;> rfl
@[simp] theorem Team.advance_u (t : Team) (n : Nat) : (t.advance n).u = t.u := by
  unfold Team.advance Team.onward Team.endTest; split <;> (try split) <;> (try split) <;> rfl
@[simp] theorem Team.advance_p (t : Team) (n : Nat) : (t.advance n).p = t.p := by
  unfold Team.advance Team.onward Team.endTest; split <;> (try split) <;> (try split) <;> rfl
@[simp] theorem Team.advance_t (t : Team) (n : Nat) : (t.advance n).t = t.t := by
  unfold Team.advance Team.onward Team.endTest; split <;> (try split) <;> (try split) <;> rfl
@[simp] theorem Team.advance_a (t : Team) (n : Nat) : (t.advance n).a = t.a := by
  unfold Team.advance Team.onward Team.endTest; split <;> (try split) <;> (try split) <;> rfl
@[simp] theorem Team.advance_vN (t : Team) (n : Nat) : (t.advance n).vN = t.vN := by
  unfold Team.advance Team.onward Team.endTest; split <;> (try split) <;> (try split) <;> rfl
@[simp] theorem Team.advance_aN (t : Team) (n : Nat) : (t.advance n).aN = t.aN := by
  unfold Team.advance Team.onward Team.endTest; split <;> (try split) <;> (try split) <;> rfl
@[simp] theorem Team.advance_rN (t : Team) (n : Nat) : (t.advance n).rN = t.rN := by
  unfold Team.advance Team.onward Team.endTest; split <;> (try split) <;> (try split) <;> rfl
@[simp] theorem Team.advance_vBase (t : Team) (n : Nat) : (t.advance n).vBase = t.vBase := by
  unfold Team.advance Team.onward Team.endTest; split <;> (try split) <;> (try split) <;> rfl
@[simp] theorem Team.advance_aBase (t : Team) (n : Nat) : (t.advance n).aBase = t.aBase := by
  unfold Team.advance Team.onward Team.endTest; split <;> (try split) <;> (try split) <;> rfl
@[simp] theorem Team.advance_rBase (t : Team) (n : Nat) : (t.advance n).rBase = t.rBase := by
  unfold Team.advance Team.onward Team.endTest; split <;> (try split) <;> (try split) <;> rfl
@[simp] theorem Team.advance_fifo (t : Team) (n : Nat) : (t.advance n).fifo = t.fifo := by
  unfold Team.advance Team.onward Team.endTest; split <;> (try split) <;> (try split) <;> rfl
@[simp] theorem Team.advance_results (t : Team) (n : Nat) : (t.advance n).results = t.results := by
  unfold Team.advance Team.onward Team.endTest; split <;> (try split) <;> (try split) <;> rfl
@[simp] theorem Team.advance_conn (t : Team) (n : Nat) : (t.advance n).conn = t.conn := by
  unfold Team.advance Team.onward Team.endTest; split <;> (try split) <;> (try split) <;> rfl
@[simp] theorem Team.advance_arrivals (t : Team) (n : Nat) : (t.advance n).arrivals = t.arrivals := by
  unfold Team.advance Team.onward Team.endTest; split <;> (try split) <;> (try split) <;> rfl
@[simp] theorem Team.advance_stop (t : Team) (n : Nat) : (t.advance n).stop = t.stop := by
  unfold Team.advance Team.onward Team.endTest; split <;> (try split) <;> (try split) <;> rfl
@[simp] theorem Team.advance_poisonHolder (t : Team) (n : Nat) : (t.advance n).poisonHolder = t.poisonHolder := by
  unfold Team.advance Team.onward Team.endTest; split <;> (try split) <;> (try split) <;> rfl
@[simp] theorem Team.advance_late (t : Team) (n : Nat) : (t.advance n).late = t.late := by
  unfold Team.advance Team.onward Team.endTest; split <;> (try split) <;> (try split) <;> rfl
@[simp] theorem Team.advance_trap (t : Team) (n : Nat) : (t.advance n).trap = t.trap := by
  unfold Team.advance Team.onward Team.endTest; split <;> (try split) <;> (try split) <;> rfl
@[simp] theorem Team.advance_handle (t : Team) (n : Nat) : (t.advance n).handle = t.handle := by
  unfold Team.advance Team.onward Team.endTest; split <;> (try split) <;> (try split) <;> rfl
@[simp] theorem Team.advance_ctlWord (t : Team) (n : Nat) : (t.advance n).ctlWord = t.ctlWord := by
  unfold Team.advance Team.onward Team.endTest; split <;> (try split) <;> (try split) <;> rfl
@[simp] theorem Team.advance_stall (t : Team) (n : Nat) : (t.advance n).stall = t.stall := by
  unfold Team.advance Team.onward Team.endTest; split <;> (try split) <;> (try split) <;> rfl
@[simp] theorem Team.advance_hold (t : Team) (n : Nat) : (t.advance n).hold = t.hold := by
  unfold Team.advance Team.onward Team.endTest; split <;> (try split) <;> (try split) <;> rfl
@[simp] theorem Team.advance_lastA (t : Team) (n : Nat) : (t.advance n).lastA = t.lastA := by
  unfold Team.advance Team.onward Team.endTest; split <;> (try split) <;> (try split) <;> rfl
@[simp] theorem Team.advance_lastB (t : Team) (n : Nat) : (t.advance n).lastB = t.lastB := by
  unfold Team.advance Team.onward Team.endTest; split <;> (try split) <;> (try split) <;> rfl
@[simp] theorem Team.advance_fryldTurn (t : Team) (n : Nat) : (t.advance n).fryldTurn = t.fryldTurn := by
  unfold Team.advance Team.onward Team.endTest; split <;> (try split) <;> (try split) <;> rfl

@[simp] theorem Team.passed_crew (t : Team) (p : Plan) (m : Mask) (c : Bool) (fl : BitVec 5) (b : Bool) (n : Nat) : (t.passed p m c fl b n).crew = t.crew := by
  unfold Team.passed; split <;> (try split) <;> (try dsimp only) <;> (try split) <;> simp
@[simp] theorem Team.passed_num (t : Team) (p : Plan) (m : Mask) (c : Bool) (fl : BitVec 5) (b : Bool) (n : Nat) : (t.passed p m c fl b n).num = t.num := by
  unfold Team.passed; split <;> (try split) <;> (try dsimp only) <;> (try split) <;> simp
@[simp] theorem Team.passed_slot (t : Team) (p : Plan) (m : Mask) (c : Bool) (fl : BitVec 5) (b : Bool) (n : Nat) : (t.passed p m c fl b n).slot = t.slot := by
  unfold Team.passed; split <;> (try split) <;> (try dsimp only) <;> (try split) <;> simp
@[simp] theorem Team.passed_role (t : Team) (p : Plan) (m : Mask) (c : Bool) (fl : BitVec 5) (b : Bool) (n : Nat) : (t.passed p m c fl b n).role = t.role := by
  unfold Team.passed; split <;> (try split) <;> (try dsimp only) <;> (try split) <;> simp
@[simp] theorem Team.passed_width (t : Team) (p : Plan) (m : Mask) (c : Bool) (fl : BitVec 5) (b : Bool) (n : Nat) : (t.passed p m c fl b n).width = t.width := by
  unfold Team.passed; split <;> (try split) <;> (try dsimp only) <;> (try split) <;> simp
@[simp] theorem Team.passed_status (t : Team) (p : Plan) (m : Mask) (c : Bool) (fl : BitVec 5) (b : Bool) (n : Nat) : (t.passed p m c fl b n).status = t.status := by
  unfold Team.passed; split <;> (try split) <;> (try dsimp only) <;> (try split) <;> simp
@[simp] theorem Team.passed_regionVA (t : Team) (p : Plan) (m : Mask) (c : Bool) (fl : BitVec 5) (b : Bool) (n : Nat) : (t.passed p m c fl b n).regionVA = t.regionVA := by
  unfold Team.passed; split <;> (try split) <;> (try dsimp only) <;> (try split) <;> simp
@[simp] theorem Team.passed_region (t : Team) (p : Plan) (m : Mask) (c : Bool) (fl : BitVec 5) (b : Bool) (n : Nat) : (t.passed p m c fl b n).region = t.region := by
  unfold Team.passed; split <;> (try split) <;> (try dsimp only) <;> (try split) <;> simp
@[simp] theorem Team.passed_regionCount (t : Team) (p : Plan) (m : Mask) (c : Bool) (fl : BitVec 5) (b : Bool) (n : Nat) : (t.passed p m c fl b n).regionCount = t.regionCount := by
  unfold Team.passed; split <;> (try split) <;> (try dsimp only) <;> (try split) <;> simp
@[simp] theorem Team.passed_passes (t : Team) (p : Plan) (m : Mask) (c : Bool) (fl : BitVec 5) (b : Bool) (n : Nat) : (t.passed p m c fl b n).passes = t.passes := by
  unfold Team.passed; split <;> (try split) <;> (try dsimp only) <;> (try split) <;> simp
@[simp] theorem Team.passed_total (t : Team) (p : Plan) (m : Mask) (c : Bool) (fl : BitVec 5) (b : Bool) (n : Nat) : (t.passed p m c fl b n).total = t.total := by
  unfold Team.passed; split <;> (try split) <;> (try dsimp only) <;> (try split) <;> simp
@[simp] theorem Team.passed_joinDeadline (t : Team) (p : Plan) (m : Mask) (c : Bool) (fl : BitVec 5) (b : Bool) (n : Nat) : (t.passed p m c fl b n).joinDeadline = t.joinDeadline := by
  unfold Team.passed; split <;> (try split) <;> (try dsimp only) <;> (try split) <;> simp
@[simp] theorem Team.passed_waits (t : Team) (p : Plan) (m : Mask) (c : Bool) (fl : BitVec 5) (b : Bool) (n : Nat) : (t.passed p m c fl b n).waits = t.waits := by
  unfold Team.passed; split <;> (try split) <;> (try dsimp only) <;> (try split) <;> simp
@[simp] theorem Team.passed_jto (t : Team) (p : Plan) (m : Mask) (c : Bool) (fl : BitVec 5) (b : Bool) (n : Nat) : (t.passed p m c fl b n).jto = t.jto := by
  unfold Team.passed; split <;> (try split) <;> (try dsimp only) <;> (try split) <;> simp
@[simp] theorem Team.passed_defOn (t : Team) (p : Plan) (m : Mask) (c : Bool) (fl : BitVec 5) (b : Bool) (n : Nat) : (t.passed p m c fl b n).defOn = t.defOn := by
  unfold Team.passed; split <;> (try split) <;> (try dsimp only) <;> (try split) <;> simp
@[simp] theorem Team.passed_strict (t : Team) (p : Plan) (m : Mask) (c : Bool) (fl : BitVec 5) (b : Bool) (n : Nat) : (t.passed p m c fl b n).strict = t.strict := by
  unfold Team.passed; split <;> (try split) <;> (try dsimp only) <;> (try split) <;> simp
@[simp] theorem Team.passed_rm (t : Team) (p : Plan) (m : Mask) (c : Bool) (fl : BitVec 5) (b : Bool) (n : Nat) : (t.passed p m c fl b n).rm = t.rm := by
  unfold Team.passed; split <;> (try split) <;> (try dsimp only) <;> (try split) <;> simp
@[simp] theorem Team.passed_v (t : Team) (p : Plan) (m : Mask) (c : Bool) (fl : BitVec 5) (b : Bool) (n : Nat) : (t.passed p m c fl b n).v = t.v := by
  unfold Team.passed; split <;> (try split) <;> (try dsimp only) <;> (try split) <;> simp
@[simp] theorem Team.passed_u (t : Team) (p : Plan) (m : Mask) (c : Bool) (fl : BitVec 5) (b : Bool) (n : Nat) : (t.passed p m c fl b n).u = t.u := by
  unfold Team.passed; split <;> (try split) <;> (try dsimp only) <;> (try split) <;> simp
@[simp] theorem Team.passed_p (t : Team) (p : Plan) (m : Mask) (c : Bool) (fl : BitVec 5) (b : Bool) (n : Nat) : (t.passed p m c fl b n).p = t.p := by
  unfold Team.passed; split <;> (try split) <;> (try dsimp only) <;> (try split) <;> simp
@[simp] theorem Team.passed_t (t : Team) (p : Plan) (m : Mask) (c : Bool) (fl : BitVec 5) (b : Bool) (n : Nat) : (t.passed p m c fl b n).t = t.t := by
  unfold Team.passed; split <;> (try split) <;> (try dsimp only) <;> (try split) <;> simp
@[simp] theorem Team.passed_a (t : Team) (p : Plan) (m : Mask) (c : Bool) (fl : BitVec 5) (b : Bool) (n : Nat) : (t.passed p m c fl b n).a = t.a := by
  unfold Team.passed; split <;> (try split) <;> (try dsimp only) <;> (try split) <;> simp
@[simp] theorem Team.passed_vN (t : Team) (p : Plan) (m : Mask) (c : Bool) (fl : BitVec 5) (b : Bool) (n : Nat) : (t.passed p m c fl b n).vN = t.vN := by
  unfold Team.passed; split <;> (try split) <;> (try dsimp only) <;> (try split) <;> simp
@[simp] theorem Team.passed_aN (t : Team) (p : Plan) (m : Mask) (c : Bool) (fl : BitVec 5) (b : Bool) (n : Nat) : (t.passed p m c fl b n).aN = t.aN := by
  unfold Team.passed; split <;> (try split) <;> (try dsimp only) <;> (try split) <;> simp
@[simp] theorem Team.passed_rN (t : Team) (p : Plan) (m : Mask) (c : Bool) (fl : BitVec 5) (b : Bool) (n : Nat) : (t.passed p m c fl b n).rN = t.rN := by
  unfold Team.passed; split <;> (try split) <;> (try dsimp only) <;> (try split) <;> simp
@[simp] theorem Team.passed_vBase (t : Team) (p : Plan) (m : Mask) (c : Bool) (fl : BitVec 5) (b : Bool) (n : Nat) : (t.passed p m c fl b n).vBase = t.vBase := by
  unfold Team.passed; split <;> (try split) <;> (try dsimp only) <;> (try split) <;> simp
@[simp] theorem Team.passed_aBase (t : Team) (p : Plan) (m : Mask) (c : Bool) (fl : BitVec 5) (b : Bool) (n : Nat) : (t.passed p m c fl b n).aBase = t.aBase := by
  unfold Team.passed; split <;> (try split) <;> (try dsimp only) <;> (try split) <;> simp
@[simp] theorem Team.passed_rBase (t : Team) (p : Plan) (m : Mask) (c : Bool) (fl : BitVec 5) (b : Bool) (n : Nat) : (t.passed p m c fl b n).rBase = t.rBase := by
  unfold Team.passed; split <;> (try split) <;> (try dsimp only) <;> (try split) <;> simp
@[simp] theorem Team.passed_fifo (t : Team) (p : Plan) (m : Mask) (c : Bool) (fl : BitVec 5) (b : Bool) (n : Nat) : (t.passed p m c fl b n).fifo = t.fifo := by
  unfold Team.passed; split <;> (try split) <;> (try dsimp only) <;> (try split) <;> simp
@[simp] theorem Team.passed_results (t : Team) (p : Plan) (m : Mask) (c : Bool) (fl : BitVec 5) (b : Bool) (n : Nat) : (t.passed p m c fl b n).results = t.results := by
  unfold Team.passed; split <;> (try split) <;> (try dsimp only) <;> (try split) <;> simp
@[simp] theorem Team.passed_conn (t : Team) (p : Plan) (m : Mask) (c : Bool) (fl : BitVec 5) (b : Bool) (n : Nat) : (t.passed p m c fl b n).conn = t.conn := by
  unfold Team.passed; split <;> (try split) <;> (try dsimp only) <;> (try split) <;> simp
@[simp] theorem Team.passed_arrivals (t : Team) (p : Plan) (m : Mask) (c : Bool) (fl : BitVec 5) (b : Bool) (n : Nat) : (t.passed p m c fl b n).arrivals = t.arrivals := by
  unfold Team.passed; split <;> (try split) <;> (try dsimp only) <;> (try split) <;> simp
@[simp] theorem Team.passed_stop (t : Team) (p : Plan) (m : Mask) (c : Bool) (fl : BitVec 5) (b : Bool) (n : Nat) : (t.passed p m c fl b n).stop = t.stop := by
  unfold Team.passed; split <;> (try split) <;> (try dsimp only) <;> (try split) <;> simp
@[simp] theorem Team.passed_poisonHolder (t : Team) (p : Plan) (m : Mask) (c : Bool) (fl : BitVec 5) (b : Bool) (n : Nat) : (t.passed p m c fl b n).poisonHolder = t.poisonHolder := by
  unfold Team.passed; split <;> (try split) <;> (try dsimp only) <;> (try split) <;> simp
@[simp] theorem Team.passed_late (t : Team) (p : Plan) (m : Mask) (c : Bool) (fl : BitVec 5) (b : Bool) (n : Nat) : (t.passed p m c fl b n).late = t.late := by
  unfold Team.passed; split <;> (try split) <;> (try dsimp only) <;> (try split) <;> simp
@[simp] theorem Team.passed_trap (t : Team) (p : Plan) (m : Mask) (c : Bool) (fl : BitVec 5) (b : Bool) (n : Nat) : (t.passed p m c fl b n).trap = t.trap := by
  unfold Team.passed; split <;> (try split) <;> (try dsimp only) <;> (try split) <;> simp
@[simp] theorem Team.passed_handle (t : Team) (p : Plan) (m : Mask) (c : Bool) (fl : BitVec 5) (b : Bool) (n : Nat) : (t.passed p m c fl b n).handle = t.handle := by
  unfold Team.passed; split <;> (try split) <;> (try dsimp only) <;> (try split) <;> simp
@[simp] theorem Team.passed_ctlWord (t : Team) (p : Plan) (m : Mask) (c : Bool) (fl : BitVec 5) (b : Bool) (n : Nat) : (t.passed p m c fl b n).ctlWord = t.ctlWord := by
  unfold Team.passed; split <;> (try split) <;> (try dsimp only) <;> (try split) <;> simp
@[simp] theorem Team.passed_stall (t : Team) (p : Plan) (m : Mask) (c : Bool) (fl : BitVec 5) (b : Bool) (n : Nat) : (t.passed p m c fl b n).stall = t.stall := by
  unfold Team.passed; split <;> (try split) <;> (try dsimp only) <;> (try split) <;> simp
@[simp] theorem Team.passed_hold (t : Team) (p : Plan) (m : Mask) (c : Bool) (fl : BitVec 5) (b : Bool) (n : Nat) : (t.passed p m c fl b n).hold = t.hold := by
  unfold Team.passed; split <;> (try split) <;> (try dsimp only) <;> (try split) <;> simp
@[simp] theorem Team.passed_lastA (t : Team) (p : Plan) (m : Mask) (c : Bool) (fl : BitVec 5) (b : Bool) (n : Nat) : (t.passed p m c fl b n).lastA = t.lastA := by
  unfold Team.passed; split <;> (try split) <;> (try dsimp only) <;> (try split) <;> simp
@[simp] theorem Team.passed_lastB (t : Team) (p : Plan) (m : Mask) (c : Bool) (fl : BitVec 5) (b : Bool) (n : Nat) : (t.passed p m c fl b n).lastB = t.lastB := by
  unfold Team.passed; split <;> (try split) <;> (try dsimp only) <;> (try split) <;> simp
@[simp] theorem Team.passed_fryldTurn (t : Team) (p : Plan) (m : Mask) (c : Bool) (fl : BitVec 5) (b : Bool) (n : Nat) : (t.passed p m c fl b n).fryldTurn = t.fryldTurn := by
  unfold Team.passed; split <;> (try split) <;> (try dsimp only) <;> (try split) <;> simp

end Sys2Proof.Machine
end

