-- ==== Sys2Proof/Laws/Units.lean ====
section
/-! SUPPORT. Registers unit by unit: what a write, a promise of a write and a landing do to the unit named and to every other. -/

namespace Sys2Proof.Machine

theorem pairKey_eq (a b : Nat) : pairKey a b = Nat.pair a b := by unfold pairKey Nat.pair; rfl

theorem pairKey_inj {a b c d : Nat} : pairKey a b = pairKey c d ↔ a = c ∧ b = d := by
  rw [pairKey_eq, pairKey_eq]; exact Nat.pair_eq_pair

/-- The class of a value is the unit's. -/
def UnitRef.fits : UnitRef → UnitVal → Bool
  | .vec _ _, .w _ => true
  | .uni _, .w _ => true
  | .pred _ _, .p _ _ => true
  | .acc _, .a _ _ => true
  | .tile _, .t _ _ => true
  | _, _ => false

theorem Team.pend_wired (t : Team) (r : UnitRef) (h : r.wired = true) : t.pend r = false := by
  cases r <;> simp_all [UnitRef.wired, Team.pend]

theorem Team.put_wired (t : Team) (r : UnitRef) (x : UnitVal) (b : Bool) (g : BitVec 4) (h : r.wired = true) : t.put r x b g = t := by
  simp [Team.put, h]

/-- The unit written. -/
theorem Team.put_same (t : Team) (r : UnitRef) (x : UnitVal) (b : Bool) (g : BitVec 4) (h : r.wired = false) (hf : r.fits x = true) :
    (t.put r x b g).unit r = x ∧ (t.put r x b g).pend r = b ∧ (t.put r x b g).gen r = g := by
  cases r <;> cases x <;> simp_all [UnitRef.fits, UnitRef.wired, Team.put, Team.unit, Team.pend, Team.gen]

/-- Units of one class have keys of their own. -/
theorem UnitRef.key_ne {r q : UnitRef} (h : r ≠ q) : match r, q with
    | .vec a l, .vec b l' => vkey b l' ≠ vkey a l
    | .pred a l, .pred b l' => pkey b l' ≠ pkey a l
    | .uni a, .uni b => b ≠ a
    | .acc a, .acc b => b ≠ a
    | .tile a, .tile b => b ≠ a
    | _, _ => True := by
  cases r <;> cases q <;> first
    | trivial
    | (intro e; apply h; simp_all [vkey, pkey, pairKey_inj])

/-- Any other unit. -/
theorem Team.put_ne (t : Team) (r q : UnitRef) (x : UnitVal) (b : Bool) (g : BitVec 4) (h : r ≠ q) :
    (t.put r x b g).unit q = t.unit q ∧ (t.put r x b g).pend q = t.pend q ∧ (t.put r x b g).gen q = t.gen q := by
  by_cases hw : r.wired = true
  · simp [Team.put_wired t r x b g hw]
  · have key := UnitRef.key_ne h
    unfold Team.put
    rw [if_neg hw]
    cases r <;> cases q <;> cases x <;> simp_all [Team.unit, Team.pend, Team.gen, tget_tset_ne]

theorem Team.write_same (t : Team) (r : UnitRef) (x : UnitVal) (h : r.wired = false) (hf : r.fits x = true) :
    (t.write r x).unit r = x ∧ (t.write r x).pend r = false ∧ (t.write r x).gen r = t.gen r + 1 :=
  Team.put_same t r x false _ h hf

theorem Team.write_ne (t : Team) (r q : UnitRef) (x : UnitVal) (h : r ≠ q) :
    (t.write r x).unit q = t.unit q ∧ (t.write r x).pend q = t.pend q ∧ (t.write r x).gen q = t.gen q :=
  Team.put_ne t r q x false _ h

theorem UnitRef.fits_unit (t : Team) (r : UnitRef) : r.fits (t.unit r) = true := by
  cases r <;> simp only [Team.unit] <;> (try split) <;> rfl

theorem Team.owe_same (t : Team) (r : UnitRef) (h : r.wired = false) :
    (t.owe r).unit r = t.unit r ∧ (t.owe r).pend r = true ∧ (t.owe r).gen r = t.gen r + 1 :=
  Team.put_same t r _ true _ h (UnitRef.fits_unit t r)

theorem Team.owe_ne (t : Team) (r q : UnitRef) (h : r ≠ q) :
    (t.owe r).unit q = t.unit q ∧ (t.owe r).pend q = t.pend q ∧ (t.owe r).gen q = t.gen q :=
  Team.put_ne t r q _ true _ h

/-- Units that a list of writes does not name. -/
theorem Team.writeAll_other (t : Team) (ws : List (UnitRef × UnitVal)) (q : UnitRef) (h : ∀ w ∈ ws, w.1 ≠ q) :
    (t.writeAll ws).unit q = t.unit q ∧ (t.writeAll ws).pend q = t.pend q ∧ (t.writeAll ws).gen q = t.gen q := by
  induction ws generalizing t with
  | nil => exact ⟨rfl, rfl, rfl⟩
  | cons w ws ih =>
    have h1 := ih (t.write w.1 w.2) (fun x hx => h x (List.mem_cons_of_mem _ hx))
    have h2 := t.write_ne w.1 q w.2 (h w List.mem_cons_self)
    exact ⟨h1.1.trans h2.1, h1.2.1.trans h2.2.1, h1.2.2.trans h2.2.2⟩

/-- Units that a list of writes names, each once. -/
theorem Team.writeAll_named (t : Team) (ws : List (UnitRef × UnitVal)) (hn : (ws.map Prod.fst).Nodup) (hf : ∀ w ∈ ws, w.1.fits w.2 = true)
    (w : UnitRef × UnitVal) (hw : w ∈ ws) :
    (t.writeAll ws).unit w.1 = (if w.1.wired then t.unit w.1 else w.2)
    ∧ (w.1.wired = false → (t.writeAll ws).pend w.1 = false ∧ (t.writeAll ws).gen w.1 = t.gen w.1 + 1) := by
  induction ws generalizing t with
  | nil => cases hw
  | cons x xs ih =>
    simp only [List.map_cons, List.nodup_cons] at hn
    have hstep : t.writeAll (x :: xs) = (t.write x.1 x.2).writeAll xs := rfl
    rcases List.mem_cons.mp hw with rfl | hmem
    · have ho := (t.write w.1 w.2).writeAll_other xs w.1 (fun y hy e => hn.1 (e ▸ List.mem_map_of_mem hy))
      rw [hstep, ho.1, ho.2.1, ho.2.2]
      by_cases hwd : w.1.wired = true
      · have e : t.write w.1 w.2 = t := t.put_wired _ _ _ _ hwd
        rw [e]; simp [hwd]
      · have hs := t.write_same w.1 w.2 (by simpa using hwd) (hf w List.mem_cons_self)
        rw [hs.1, hs.2.1, hs.2.2]; simp [hwd]
    · have hne : x.1 ≠ w.1 := fun e => hn.1 (e ▸ List.mem_map_of_mem hmem)
      have h1 := ih (t.write x.1 x.2) hn.2 (fun y hy => hf y (List.mem_cons_of_mem _ hy)) hmem
      have h2 := t.write_ne x.1 w.1 x.2 hne
      rw [hstep, h1.1, h2.1]
      refine ⟨rfl, fun h => ?_⟩
      have h3 := h1.2 h
      rw [h2.2.2] at h3
      exact h3

/-- Units that a list of promises does not name. -/
theorem Team.oweAll_other (t : Team) (rs : List UnitRef) (q : UnitRef) (h : ∀ r ∈ rs, r ≠ q) :
    (t.oweAll rs).unit q = t.unit q ∧ (t.oweAll rs).pend q = t.pend q ∧ (t.oweAll rs).gen q = t.gen q := by
  induction rs generalizing t with
  | nil => exact ⟨rfl, rfl, rfl⟩
  | cons r rs ih =>
    have h1 := ih (t.owe r) (fun x hx => h x (List.mem_cons_of_mem _ hx))
    have h2 := t.owe_ne r q (h r List.mem_cons_self)
    exact ⟨h1.1.trans h2.1, h1.2.1.trans h2.2.1, h1.2.2.trans h2.2.2⟩

/-- A promise keeps every value. -/
theorem Team.oweAll_unit (t : Team) (rs : List UnitRef) (q : UnitRef) : (t.oweAll rs).unit q = t.unit q := by
  induction rs generalizing t with
  | nil => rfl
  | cons r rs ih =>
    have hstep : t.oweAll (r :: rs) = (t.owe r).oweAll rs := rfl
    rw [hstep, ih]
    by_cases hq : r = q
    · subst hq
      by_cases hw : r.wired = true
      · have e : t.owe r = t := t.put_wired _ _ _ _ hw
        rw [e]
      · exact (t.owe_same r (by simpa using hw)).1
    · exact (t.owe_ne r q hq).1

/-- Units that a list of promises names, each once. -/
theorem Team.oweAll_named (t : Team) (rs : List UnitRef) (hn : rs.Nodup) (r : UnitRef) (hr : r ∈ rs) (hw : r.wired = false) :
    (t.oweAll rs).pend r = true ∧ (t.oweAll rs).gen r = t.gen r + 1 := by
  induction rs generalizing t with
  | nil => cases hr
  | cons x xs ih =>
    simp only [List.nodup_cons] at hn
    have hstep : t.oweAll (x :: xs) = (t.owe x).oweAll xs := rfl
    rcases List.mem_cons.mp hr with rfl | hmem
    · have ho := (t.owe r).oweAll_other xs r (fun y hy e => hn.1 (e ▸ hy))
      have hs := t.owe_same r hw
      rw [hstep, ho.2.1, ho.2.2, hs.2.1, hs.2.2]; exact ⟨rfl, rfl⟩
    · have hne : x ≠ r := fun e => hn.1 (e ▸ hmem)
      have h1 := ih (t.owe x) hn.2 hmem
      have h2 := t.owe_ne x r hne
      rw [hstep, h1.1, h1.2, h2.2.2]; exact ⟨rfl, rfl⟩

/-! ## Reading units after the updates that are no writes -/

@[simp] theorem Team.unit_advance (t : Team) (n : Nat) (r : UnitRef) : (t.advance n).unit r = t.unit r := by cases r <;> simp [Team.unit]
@[simp] theorem Team.pend_advance (t : Team) (n : Nat) (r : UnitRef) : (t.advance n).pend r = t.pend r := by cases r <;> simp [Team.pend]
@[simp] theorem Team.gen_advance (t : Team) (n : Nat) (r : UnitRef) : (t.advance n).gen r = t.gen r := by cases r <;> simp [Team.gen]
@[simp] theorem Team.unit_incW (t : Team) (w : BitVec 3) (r : UnitRef) : (t.incW w).unit r = t.unit r := by cases r <;> simp [Team.unit]
@[simp] theorem Team.pend_incW (t : Team) (w : BitVec 3) (r : UnitRef) : (t.incW w).pend r = t.pend r := by cases r <;> simp [Team.pend]
@[simp] theorem Team.gen_incW (t : Team) (w : BitVec 3) (r : UnitRef) : (t.incW w).gen r = t.gen r := by cases r <;> simp [Team.gen]
@[simp] theorem Team.unit_countPasses (t : Team) (n : Nat) (r : UnitRef) : (t.countPasses n).unit r = t.unit r := by
  cases r <;> simp [Team.unit]
@[simp] theorem Team.pend_countPasses (t : Team) (n : Nat) (r : UnitRef) : (t.countPasses n).pend r = t.pend r := by
  cases r <;> simp [Team.pend]
@[simp] theorem Team.gen_countPasses (t : Team) (n : Nat) (r : UnitRef) : (t.countPasses n).gen r = t.gen r := by
  cases r <;> simp [Team.gen]

theorem Team.incW_none (t : Team) : t.incW 7 = t := by simp [Team.incW]

/-! ## Tables of the state -/

@[simp] theorem State.team?_setTeam (s : State) (u : Nat) (t : Team) : (s.setTeam u t).team? u = some t := by
  simp [State.team?, State.setTeam]

theorem State.team?_setTeam_ne (s : State) (u v : Nat) (t : Team) (h : v ≠ u) : (s.setTeam u t).team? v = s.team? v := by
  simp [State.team?, State.setTeam, tget_tset_ne _ _ _ _ _ h]

theorem State.modTeam_some (s : State) (u : Nat) (t : Team) (f : Team → Team) (h : s.team? u = some t) : s.modTeam u f = s.setTeam u (f t) := by
  simp [State.modTeam, h]

theorem State.modTeam_none (s : State) (u : Nat) (f : Team → Team) (h : s.team? u = none) : s.modTeam u f = s := by
  simp [State.modTeam, h]

theorem State.team?_modTeam (s : State) (u v : Nat) (f : Team → Team) :
    (s.modTeam u f).team? v = if v = u then (s.team? u).map f else s.team? v := by
  cases h : s.team? u with
  | none => simp only [s.modTeam_none u f h]; by_cases hv : v = u <;> simp [hv, h]
  | some t =>
    rw [s.modTeam_some u t f h]
    by_cases hv : v = u
    · simp [hv]
    · simp [hv, s.team?_setTeam_ne u v _ hv]

@[simp] theorem State.crew?_setCrew (s : State) (u : Nat) (k : Crew) : (s.setCrew u k).crew? u = some k := by
  simp [State.crew?, State.setCrew]

theorem State.crew?_setCrew_ne (s : State) (u v : Nat) (k : Crew) (h : v ≠ u) : (s.setCrew u k).crew? v = s.crew? v := by
  simp [State.crew?, State.setCrew, tget_tset_ne _ _ _ _ _ h]

theorem State.modCrew_some (s : State) (u : Nat) (k : Crew) (f : Crew → Crew) (h : s.crew? u = some k) : s.modCrew u f = s.setCrew u (f k) := by
  simp [State.modCrew, h]

theorem State.crew?_modCrew (s : State) (u v : Nat) (f : Crew → Crew) :
    (s.modCrew u f).crew? v = if v = u then (s.crew? u).map f else s.crew? v := by
  unfold State.modCrew
  cases h : s.crew? u with
  | none => by_cases hv : v = u <;> simp [hv, h]
  | some k =>
    by_cases hv : v = u
    · simp [hv]
    · simp [hv, s.crew?_setCrew_ne u v _ hv]

@[simp] theorem State.crew?_setTeam (s : State) (u v : Nat) (t : Team) : (s.setTeam u t).crew? v = s.crew? v := rfl
@[simp] theorem State.team?_setCrew (s : State) (u v : Nat) (k : Crew) : (s.setCrew u k).team? v = s.team? v := rfl
@[simp] theorem State.crew?_modTeam (s : State) (u v : Nat) (f : Team → Team) : (s.modTeam u f).crew? v = s.crew? v := by
  simp [State.crew?]
@[simp] theorem State.team?_modCrew (s : State) (u v : Nat) (f : Crew → Crew) : (s.modCrew u f).team? v = s.team? v := by
  simp [State.team?]
@[simp] theorem State.team?_modCore (s : State) (u v : Nat) (f : CoreSt → CoreSt) : (s.modCore u f).team? v = s.team? v := rfl

theorem State.core_modCore (s : State) (u v : Nat) (f : CoreSt → CoreSt) :
    (s.modCore u f).core v = if v = u then f (s.core u) else s.core v := tget_tmod _ _ _ _ _
theorem State.die_modDie (s : State) (u v : Nat) (f : Die → Die) :
    (s.modDie u f).die v = if v = u then f (s.die u) else s.die v := tget_tmod _ _ _ _ _
theorem State.pier_modPier (s : State) (u v : Nat) (f : Pier → Pier) :
    (s.modPier u f).pier v = if v = u then f (s.pier u) else s.pier v := tget_tmod _ _ _ _ _
theorem State.world_modWorld (s : State) (u v : Nat) (f : World → World) :
    (s.modWorld u f).world v = if v = u then f (s.world u) else s.world v := tget_tmod _ _ _ _ _
theorem State.node_modNode (s : State) (u v : Nat) (f : Node → Node) :
    (s.modNode u f).node v = if v = u then f (s.node u) else s.node v := tget_tmod _ _ _ _ _
theorem State.holder_modHolder (s : State) (u v : Nat) (f : Holder → Holder) :
    (s.modHolder u f).holder v = if v = u then f (s.holder u) else s.holder v := tget_tmod _ _ _ _ _

end Sys2Proof.Machine
end

