-- ==== Sys2Proof/Laws/Fetch.lean ====
section
/-! SUPPORT. Fetching and translating look at no team and change only a core's translations, the piers' watches, the free numbers and the noted
tag failures. -/

namespace Sys2Proof.Machine

/-- The state with other teams. -/
abbrev State.withTeams (s : State) (x : Table (Option Team)) : State := { s with teams := x }

theorem State.setTeam_eq (s : State) (u : Nat) (t : Team) : s.setTeam u t = s.withTeams (tset none s.teams u (some t)) := rfl

theorem State.bytesAt_teams (s : State) (x : Table (Option Team)) (h : Nat) : ∀ n off, (s.withTeams x).bytesAt h off n = s.bytesAt h off n := by
  intro n
  induction n with
  | zero => intro _; rfl
  | succ n ih => intro off; simp only [State.bytesAt, ih]; rfl

theorem State.homeOf_teams (s : State) (x : Table (Option Team)) (src w pa : Nat) : (s.withTeams x).homeOf src w pa = s.homeOf src w pa := rfl

theorem State.readOwn_teams (s : State) (x : Table (Option Team)) (src w pa n : Nat) : (s.withTeams x).readOwn src w pa n = s.readOwn src w pa n := by
  simp only [State.readOwn, State.homeOf_teams, State.bytesAt_teams]; rfl

theorem State.walkLevel_teams (s : State) (x : Table (Option Team)) (die w va table : Nat) (l : Nat × Nat × Nat × Nat) (last : Bool) :
    (s.withTeams x).walkLevel die w va table l last = s.walkLevel die w va table l last := by
  simp only [State.walkLevel, State.readOwn_teams]

theorem State.walk_teams (s : State) (x : Table (Option Team)) (die w va : Nat) :
    ∀ ls table, (s.withTeams x).walk die w va ls table = s.walk die w va ls table := by
  intro ls
  induction ls with
  | nil => intro _; rfl
  | cons l ls ih => intro table; simp only [State.walk, State.walkLevel_teams, ih]

theorem State.walkPAs_teams (s : State) (x : Table (Option Team)) (die w va : Nat) :
    ∀ ls table, (s.withTeams x).walkPAs die w va ls table = s.walkPAs die w va ls table := by
  intro ls
  induction ls with
  | nil => intro _; rfl
  | cons l ls ih => intro table; simp only [State.walkPAs, State.walkLevel_teams, ih]

theorem State.walkVA_teams (s : State) (x : Table (Option Team)) (die w : Nat) (asn : BitVec 16) (va : Nat) :
    (s.withTeams x).walkVA die w asn va = s.walkVA die w asn va := by
  simp only [State.walkVA, State.walk_teams]; rfl

theorem State.watched_teams (s : State) (x : Table (Option Team)) (h w pa kind src n : Nat) :
    (s.withTeams x).watched h w pa kind src n = (s.watched h w pa kind src n).withTeams x := by
  unfold State.watched; split <;> rfl

theorem State.noteTag_teams (s : State) (x : Table (Option Team)) (h off : Nat) : (s.withTeams x).noteTag h off = (s.noteTag h off).withTeams x := by
  have e : ((s.withTeams x).lineOk h off || (s.withTeams x).holderSilent h) = (s.lineOk h off || s.holderSilent h) := rfl
  unfold State.noteTag
  rw [e]
  split <;> rfl

theorem State.readNoted_teams (s : State) (x : Table (Option Team)) (src w pa n : Nat) :
    (s.withTeams x).readNoted src w pa n = (s.readNoted src w pa n).withTeams x := by
  unfold State.readNoted
  rw [State.homeOf_teams]
  split
  · rfl
  · rw [State.watched_teams, State.noteTag_teams]

theorem State.walkNoted_teams (s : State) (x : Table (Option Team)) (die w : Nat) (asn : BitVec 16) (va : Nat) :
    (s.withTeams x).walkNoted die w asn va = (s.walkNoted die w asn va).withTeams x := by
  have reads : ∀ (pas : List Nat) (s : State), pas.foldl (fun s pa => s.readNoted die w pa 8) (s.withTeams x)
      = (pas.foldl (fun s pa => s.readNoted die w pa 8) s).withTeams x := by
    intro pas
    induction pas with
    | nil => intro _; rfl
    | cons pa pas ih => intro s; rw [List.foldl_cons, List.foldl_cons, State.readNoted_teams, ih]
  unfold State.walkNoted
  rw [show (s.withTeams x).rootOf w asn = s.rootOf w asn from rfl]
  split
  · rfl
  · rw [State.walkPAs_teams, reads]

theorem State.leafFor_teams (s : State) (x : Table (Option Team)) (core die w : Nat) (asn : BitVec 16) (va : Nat) :
    (s.withTeams x).leafFor core die w asn va = ((s.leafFor core die w asn va).1.withTeams x, (s.leafFor core die w asn va).2) := by
  simp only [State.leafFor, State.walkVA_teams, State.walkNoted_teams, show ∀ n, (s.withTeams x).core n = s.core n from fun _ => rfl]
  split <;> split <;> rfl

theorem State.translate_teams (s : State) (x : Table (Option Team)) (core die w : Nat) (asn : BitVec 16) (r : Rights) (va : Nat) :
    (s.withTeams x).translate core die w asn r va = ((s.translate core die w asn r va).1.withTeams x, (s.translate core die w asn r va).2) := by
  simp only [State.translate, State.leafFor_teams]
  cases h : s.leafFor core die w asn va with
  | mk s1 r1 => cases r1 <;> rfl

theorem State.fetchWord_teams (s : State) (x : Table (Option Team)) (k : Crew) (va : VA) :
    (s.withTeams x).fetchWord k va = ((s.fetchWord k va).1.withTeams x, (s.fetchWord k va).2) := by
  simp only [State.fetchWord, State.translate_teams]
  cases h : s.translate k.coreKey k.die k.world k.asn { ex := true } va.toNat with
  | mk s1 r1 =>
    cases r1 with
    | error c => rfl
    | ok pa =>
      have chosen : ∀ a b c d e, (s1.withTeams x).choose a b c d e = s1.choose a b c d e := fun _ _ _ _ _ => rfl
      have mapped : ∀ a, (if (s1.withTeams x).reaches k.die a then (s1.withTeams x).mapAt a k.world pa else none)
          = (if s1.reaches k.die a then s1.mapAt a k.world pa else none) := fun _ => rfl
      have served : ∀ a b, (s1.withTeams x).servedAt a b = s1.servedAt a b := fun _ _ => rfl
      have owned : ∀ a b, (s1.withTeams x).ownerOf a b = s1.ownerOf a b := fun _ _ => rfl
      have silent : ∀ a, (s1.withTeams x).holderSilent a = s1.holderSilent a := fun _ => rfl
      simp only [chosen, mapped, served, owned, silent, State.bytesAt_teams, State.watched_teams, State.noteTag_teams]
      repeat' (first | rfl | split)

theorem State.fetchWords_teams (x : Table (Option Team)) (k : Crew) : ∀ n (s : State) (va : VA),
    (s.withTeams x).fetchWords k va n = ((s.fetchWords k va n).1.withTeams x, (s.fetchWords k va n).2) := by
  intro n
  induction n with
  | zero => intro s va; rfl
  | succ n ih =>
    intro s va
    simp only [State.fetchWords, State.fetchWord_teams]
    cases h : s.fetchWord k va with
    | mk s1 r1 =>
      cases r1 with
      | error t => rfl
      | ok w =>
        dsimp only
        rw [ih]
        cases h2 : s1.fetchWords k (va + 4) n with
        | mk s2 r2 => cases r2 <;> rfl

theorem State.fetchClause_teams (s : State) (x : Table (Option Team)) (k : Crew) (va : VA) :
    (s.withTeams x).fetchClause k va = ((s.fetchClause k va).1.withTeams x, (s.fetchClause k va).2) := by
  simp only [State.fetchClause, State.fetchWord_teams]
  cases h : s.fetchWord k va with
  | mk s1 r1 =>
    cases r1 with
    | error t => rfl
    | ok w =>
      dsimp only
      split
      · rfl
      · rw [State.fetchWords_teams]
        cases h2 : s1.fetchWords k (va + 4) (countOf w) with
        | mk s2 r2 => cases r2 <;> rfl

/-- The checks of a transfer's target look at no team. -/
theorem State.checkTarget_teams (s : State) (x : Table (Option Team)) (k : Crew) (va : VA) :
    (s.withTeams x).checkTarget k va = ((s.checkTarget k va).1.withTeams x, (s.checkTarget k va).2) := by
  simp only [State.checkTarget, State.fetchClause_teams]
  cases h : s.fetchClause k va with
  | mk s1 r1 => cases r1 <;> rfl

/-! ## What a fetch changes -/

theorem State.Looked.refl (s : State) : s.Looked s := ⟨rfl, fun _ => rfl, fun _ => rfl⟩

theorem State.Looked.trans {a b c : State} (h1 : a.Looked b) (h2 : b.Looked c) : a.Looked c := by
  refine ⟨?_, fun n => ?_, fun n => ?_⟩
  · have e1 := h1.same; have e2 := h2.same
    rw [e1] at e2
    rw [e2]
  · rw [h2.cores n, h1.cores n]
  · rw [h2.piers n, h1.piers n]

/-- A fold of steps that each only look. -/
theorem State.Looked.foldl {β : Type} (f : State → β → State) (hf : ∀ (s : State) b, s.Looked (f s b)) : ∀ (xs : List β) (s : State), s.Looked (xs.foldl f s) := by
  intro xs
  induction xs with
  | nil => exact State.Looked.refl
  | cons x xs ih => intro s; exact (hf s x).trans (ih _)

theorem State.noteTag_looked (s : State) (h off : Nat) : s.Looked (s.noteTag h off) := by
  unfold State.noteTag
  split
  · exact .refl _
  · exact ⟨rfl, fun _ => rfl, fun _ => rfl⟩

/-- A watch counts, and nothing else of its pier changes. -/
theorem Pier.watchOne_only (x : Pier) (n w pa kind src size : Nat) :
    x.watchOne n w pa kind src size = { x with
      watches := (x.watchOne n w pa kind src size).watches, watchSeq := (x.watchOne n w pa kind src size).watchSeq
      watchLog := (x.watchOne n w pa kind src size).watchLog, watchDropped := (x.watchOne n w pa kind src size).watchDropped } := by
  unfold Pier.watchOne
  dsimp only
  repeat' (first | rfl | split)

theorem State.watched_looked (s : State) (h w pa kind src n : Nat) : s.Looked (s.watched h w pa kind src n) := by
  have fold : ∀ (ns : List Nat) (x : Pier), ns.foldl (fun x n' => x.watchOne n' w pa kind src n) x = { x with
      watches := (ns.foldl (fun x n' => x.watchOne n' w pa kind src n) x).watches
      watchSeq := (ns.foldl (fun x n' => x.watchOne n' w pa kind src n) x).watchSeq
      watchLog := (ns.foldl (fun x n' => x.watchOne n' w pa kind src n) x).watchLog
      watchDropped := (ns.foldl (fun x n' => x.watchOne n' w pa kind src n) x).watchDropped } := by
    intro ns
    induction ns with
    | nil => intro _; rfl
    | cons m ns ih => intro x; rw [List.foldl_cons, ih, x.watchOne_only]
  unfold State.watched
  split
  · refine ⟨rfl, fun _ => rfl, fun p => ?_⟩
    rw [State.pier_modPier]
    split
    · rename_i e; rw [e, fold]
    · rfl
  · exact .refl _

theorem State.readNoted_looked (s : State) (src w pa n : Nat) : s.Looked (s.readNoted src w pa n) := by
  unfold State.readNoted
  split
  · exact .refl _
  · exact (s.watched_looked _ _ _ _ _ _).trans (State.noteTag_looked _ _ _)

theorem State.walkNoted_looked (s : State) (die w : Nat) (asn : BitVec 16) (va : Nat) : s.Looked (s.walkNoted die w asn va) := by
  unfold State.walkNoted
  split
  · exact .refl _
  · exact State.Looked.foldl _ (fun s pa => s.readNoted_looked _ _ _ _) _ _

theorem State.leafFor_looked (s : State) (core die w : Nat) (asn : BitVec 16) (va : Nat) : s.Looked (s.leafFor core die w asn va).1 := by
  simp only [State.leafFor]
  split
  · split
    · exact .refl _
    · exact ⟨rfl, fun _ => rfl, fun _ => rfl⟩
  · split
    · exact s.walkNoted_looked _ _ _ _
    · refine (s.walkNoted_looked die w asn va).trans ⟨rfl, fun n => ?_, fun _ => rfl⟩
      rw [State.core_modCore]
      split
      · rename_i e; subst e; rfl
      · rfl

theorem State.translate_looked (s : State) (core die w : Nat) (asn : BitVec 16) (r : Rights) (va : Nat) : s.Looked (s.translate core die w asn r va).1 := by
  have h := s.leafFor_looked core die w asn va
  simp only [State.translate]
  split <;> simp_all

theorem State.fetchWord_looked (s : State) (k : Crew) (va : VA) : s.Looked (s.fetchWord k va).1 := by
  have h := s.translate_looked k.coreKey k.die k.world k.asn { ex := true } va.toNat
  simp only [State.fetchWord]
  split
  · rename_i s1 c e; rw [e] at h; exact h
  · rename_i s1 pa e
    rw [e] at h
    have seen : ∀ a b, s.Looked ((s1.watched a k.world pa 0 k.die 4).noteTag a b) :=
      fun a b => h.trans ((s1.watched_looked _ _ _ _ _ _).trans (State.noteTag_looked _ _ _))
    repeat' (first | exact h | exact seen _ _ | split)

theorem State.fetchWords_looked (k : Crew) : ∀ n (s : State) (va : VA), s.Looked (s.fetchWords k va n).1 := by
  intro n
  induction n with
  | zero => intro s va; exact .refl _
  | succ n ih =>
    intro s va
    have h := s.fetchWord_looked k va
    simp only [State.fetchWords]
    split
    · rename_i e; rw [e] at h; exact h
    · rename_i s1 w e
      rw [e] at h
      have h2 := ih s1 (va + 4)
      split
      · rename_i e2; rw [e2] at h2; exact h.trans h2
      · rename_i e2; rw [e2] at h2; exact h.trans h2

theorem State.fetchClause_looked (s : State) (k : Crew) (va : VA) : s.Looked (s.fetchClause k va).1 := by
  have h := s.fetchWord_looked k va
  simp only [State.fetchClause]
  split
  · rename_i e; rw [e] at h; exact h
  · rename_i s1 w e
    rw [e] at h
    split
    · exact h
    · have h2 := State.fetchWords_looked k (countOf w) s1 (va + 4)
      split
      · rename_i e2; rw [e2] at h2; exact h.trans h2
      · rename_i e2; rw [e2] at h2; exact h.trans h2

theorem State.checkTarget_looked (s : State) (k : Crew) (va : VA) : s.Looked (s.checkTarget k va).1 := by
  have h := s.fetchClause_looked k va
  simp only [State.checkTarget]
  split <;> (rename_i e; rw [e] at h; exact h)

end Sys2Proof.Machine
end

