-- ==== Sys2Proof/Laws/Issue.lean ====
section
/-! SUPPORT. The course of a word: from a word that may go on to its effect, and what an effect leaves, for a word as a whole and for one of
its passes. -/

namespace Sys2Proof.Machine

/-! ## From the word to its effect -/

/-- A plan that meets nothing before its effect, over the mask words `rest` still to issue: every check passes and what this pass reads and
writes has landed. -/
structure Plan.Meets (p : Plan) (s : State) (t : Team) (k : Crew) (c : Clause) (m rest : Mask) : Prop where
  present : p.absent s = false
  formed : p.ill = none
  placed : p.place t = none
  regs : p.regs t rest = none
  priv : p.priv k = none
  room : c.opId = 0 → t.fullW p.w = false
  held : ∀ r ∈ p.hold t, t.pend r = false
  srcs : ∀ x ∈ p.srcs t m, ∀ r ∈ x.units, t.pend r = false
  part : ∀ x ∈ p.part t m, ∀ r ∈ x.units, t.pend r = false
  dsts : ∀ r ∈ p.dstWait s t m, t.pend r = false
  behind : p.behind t m = false

/-- A plan of a word that issues as a whole and meets nothing. -/
structure Plan.Goes (p : Plan) (s : State) (t : Team) (k : Crew) (c : Clause) (m : Mask) : Prop extends p.Meets s t k c m m where
  atOnce : p.byPass = false
  acts : m = if p.noGuard then t.active else t.acting c
  someLane : Mask.none m = false

theorem Team.anyPend_false (t : Team) (xs : List Src) (h : ∀ x ∈ xs, ∀ r ∈ x.units, t.pend r = false) : t.anyPend xs = false := by
  simp only [Team.anyPend, List.any_eq_false, Bool.not_eq_true]; exact h

theorem List.any_pend_false {t : Team} {rs : List UnitRef} (h : ∀ r ∈ rs, t.pend r = false) : rs.any t.pend = false := by
  simp only [List.any_eq_false, Bool.not_eq_true]; exact h

/-- No reason keeps the word back. -/
theorem Plan.Meets.reasons {p : Plan} {s : State} {t : Team} {k : Crew} {c : Clause} {m rest : Mask} (g : p.Meets s t k c m rest) (d : Bool)
    (hd : d = false ∨ t.fifo = []) : lowestReason (p.reasons s t c m d) = none := by
  have hroom : (c.opId = 0 && t.fullW p.w) = false := by by_cases h : c.opId = 0 <;> simp [h, g.room]
  have hfifo : (p.how == .drain && d && !t.fifo.isEmpty) = false := by rcases hd with h | h <;> simp [h]
  simp [Plan.reasons, lowestReason, hroom, hfifo, List.any_pend_false g.held, t.anyPend_false _ g.srcs, List.any_pend_false g.dsts]

/-- Nothing calls for a capture. -/
theorem Plan.Meets.captures {p : Plan} {s : State} {t : Team} {k : Crew} {c : Clause} {m rest : Mask} (g : p.Meets s t k c m rest)
    (hd : t.fifo = []) (i : Instr) : p.captures i t c m = false := by
  simp [Plan.captures, Team.chained, hd, t.anyPend_false _ g.srcs, t.anyPend_false _ g.part, g.behind]

/-- A word that may go on and meets nothing has the effect of its turn: `m` is what issues now, `rest` what is still to issue. -/
theorem issueWord_meets {s : State} {t : Team} {k : Crew} {c : Clause} {m rest : Mask} {cut : Bool} (i : Option Instr) {p : Plan}
    (h : s.AtWord t k c) (g : p.Meets s t k c m rest)
    (hsome : Mask.none (if p.noGuard then t.active else t.acting c) = false)
    (hrest : rest = if p.whole then (if p.noGuard then t.active else t.acting c)
      else Mask.from (if p.noGuard then t.active else t.acting c) c.issuedTo)
    (hcut : cut = (!p.whole && decide (p.turns none rest < (Mask.words rest).length)))
    (hm : m = if cut then Mask.first rest (p.turns none rest) else rest) :
    s.issueWord i p = s.direct p t k c m rest cut := by
  have hroom : t.stopRoom = none := by simp [Team.stopRoom, h.unarmed]
  have h1 : ¬ (t.status ≠ .running ∨ t.hold ≠ .none ∨ c.issued = false) := by simp [h.running, h.unheld, h.issued]
  have hr := g.reasons (c.deferring && !t.stop.mode) (by rcases h.uncaptured with e | e <;> simp [e])
  simp only [Team.acting] at hsome hrest
  simp only [State.issueWord, h.turn, h.opened, h1, if_false, h.onTime, hroom, reduceCtorEq, h.unstopped, Bool.false_and, g.present, g.formed,
    Option.isSome_none, g.placed, hsome, Bool.false_eq_true, ← hrest, ← hcut, ← hm, g.regs, g.priv]
  rw [h.unstopped] at hr
  rw [hr]
  rcases h.uncaptured with hu | hu
  · simp [hu]
  · cases i with
    | none => simp
    | some i => simp only [g.captures hu, Bool.false_eq_true, if_false]; split <;> rfl

/-- Every mask word from the first on. -/
@[simp] theorem Mask.from_zero (m : Mask) : Mask.from m 0 = m := by
  unfold Mask.from
  refine List.ext_getElem (by simp) (fun i h _ => ?_)
  have : i < m.length := by simpa using h
  simp [this]

/-- A ready word that meets nothing has its effect. -/
theorem issueWord_goes {s : State} {t : Team} {k : Crew} {c : Clause} {m : Mask} (i : Option Instr) {p : Plan}
    (h : s.Ready t k c) (g : p.Goes s t k c m) : s.issueWord i p = s.direct p t k c m m false := by
  refine issueWord_meets i h.toAtWord g.toMeets (g.acts ▸ g.someLane) ?_ ?_ rfl
  · rw [h.whole.1, Mask.from_zero, ← g.acts]; simp
  · cases hw : p.whole <;> simp [Plan.turns, hw, g.atOnce]

theorem Team.fullW_none (t : Team) : t.fullW 7 = false := by simp [Team.fullW]

/-- The team whose turn it is. -/
theorem current_team {s : State} {t : Team} {k : Crew} (h : s.current = some (t, k)) : s.team? s.cur = some t := by
  simp only [State.current] at h
  split at h
  · split at h
    · simp_all
    · cases h
  · cases h

/-! ## What a word's end does to its team -/

/-- Units written, units promised and passes counted: what a pass does to the registers of its team. -/
def Team.took (t : Team) (passes : Nat) (ws : List (UnitRef × UnitVal)) (rs : List UnitRef) : Team :=
  ((t.writeAll ws).oweAll rs).countPasses passes

/-- A team whose word the port has issued (R50, R330). -/
def Team.ported (t : Team) (a b : Nat) : Team := { t with stall := if t.hold = .none then 0 else t.stall, lastA := a, lastB := b }

@[simp] theorem Team.unit_ported (t : Team) (a b : Nat) (r : UnitRef) : (t.ported a b).unit r = t.unit r := by cases r <;> rfl
@[simp] theorem Team.pend_ported (t : Team) (a b : Nat) (r : UnitRef) : (t.ported a b).pend r = t.pend r := by cases r <;> rfl
@[simp] theorem Team.gen_ported (t : Team) (a b : Nat) (r : UnitRef) : (t.ported a b).gen r = t.gen r := by cases r <;> rfl
@[simp] theorem Team.unit_passed (t : Team) (p : Plan) (m : Mask) (c : Bool) (fl : BitVec 5) (b : Bool) (n : Nat) (r : UnitRef) :
    (t.passed p m c fl b n).unit r = t.unit r := by cases r <;> simp [Team.unit]
@[simp] theorem Team.pend_passed (t : Team) (p : Plan) (m : Mask) (c : Bool) (fl : BitVec 5) (b : Bool) (n : Nat) (r : UnitRef) :
    (t.passed p m c fl b n).pend r = t.pend r := by cases r <;> simp [Team.pend]
@[simp] theorem Team.gen_passed (t : Team) (p : Plan) (m : Mask) (c : Bool) (fl : BitVec 5) (b : Bool) (n : Nat) (r : UnitRef) :
    (t.passed p m c fl b n).gen r = t.gen r := by cases r <;> simp [Team.gen]

/-- Going on past a word looks at the clause, the frontier and Y alone, and changes nothing else. -/
theorem Team.advance_congr (x y : Team) (n : Nat) (h : (x.clause, x.fr, x.pc, x.yielded) = (y.clause, y.fr, y.pc, y.yielded)) :
    ((x.advance n).clause, (x.advance n).fr, (x.advance n).pc, (x.advance n).yielded)
      = ((y.advance n).clause, (y.advance n).fr, (y.advance n).pc, (y.advance n).yielded) := by
  simp only [Prod.mk.injEq] at h
  obtain ⟨h1, h2, h3, h4⟩ := h
  cases hc : y.clause with
  | none => simp [Team.advance, Team.endTest, Team.onward, h1, h2, h3, h4, hc]
  | some c =>
    simp only [Team.advance, Team.endTest, h1, h2, hc]
    generalize y.fr.loopTest _ = r
    rcases r with ⟨f, _ | v⟩
    · by_cases hw : c.idx + n < c.words.length <;> simp [Team.onward, h3, h4, hw, Team.goTo, Team.yield]
    · simp [Team.onward, Team.goTo, Team.yield]

/-- What follows a word that is through: `f` is the team that has moved on, or the team itself where the word has moved it. -/
theorem Team.passed_through (x t : Team) (p : Plan) (m : Mask) (fl : BitVec 5) (moved : Bool) (op n : Nat)
    (h : (x.clause, x.fr, x.pc, x.yielded) = (t.clause, t.fr, t.pc, t.yielded)) (h0 : ∀ c, t.clause = some c → c.flags = 0)
    (hn : (if p.two then 2 else 1) = n) :
    ((x.passed p m false fl moved op).clause, (x.passed p m false fl moved op).fr, (x.passed p m false fl moved op).pc,
        (x.passed p m false fl moved op).yielded)
      = (let f := if moved then t else t.advance n; (f.clause, f.fr, f.pc, f.yielded))
    ∧ (x.passed p m false fl moved op).fpf = x.fpf ||| fl := by
  have hx : x.clause = t.clause := congrArg Prod.fst h
  cases hc : t.clause with
  | none =>
    rw [hc] at hx
    have hxa := Team.advance_congr x t n h
    simp only [hx] at h
    cases moved
    · simp only [Team.passed, hx, Bool.false_eq_true, if_false, and_true]
      rw [← hxa]
      simp [Team.advance, Team.endTest, Team.onward, hx]
    · simp only [Team.passed, hx, if_true, and_true]; exact h
  | some c =>
    rw [hc] at hx
    have hf := h0 c hc
    simp only [hx] at h
    cases moved
    · simp only [Team.passed, hx, hf, hn, Bool.false_eq_true, if_false, Team.advance_fpf]
      exact ⟨Team.advance_congr _ t n h, by simp⟩
    · simp only [Team.passed, hx, hf, Bool.false_eq_true, if_false, if_true]
      exact ⟨h, by simp⟩

/-- A word cut off after a pass keeps its place, and its clause how far it has come. -/
theorem Team.passed_cut (x : Team) (p : Plan) (m : Mask) (op : Nat) (moved : Bool) (c : Clause) (h : x.clause = some c) :
    x.passed p m true 0 moved op = { x with clause := some (c.cutAt m op) } := by
  have z : c.flags ||| 0 = (c.cutAt m op).flags := by simp [Clause.cutAt]
  simp only [Team.passed, h, if_true, z]

/-- The end of a pass, as the claims say it: `f` is where the pass leaves the team. -/
theorem Team.took_ran (t f x : Team) (ps : Nat) (ws : List (UnitRef × UnitVal)) (rs : List UnitRef) (fl : BitVec 5) (a b : Nat)
    (hn : (ws.map Prod.fst ++ rs).Nodup) (hf : ∀ w ∈ ws, w.1.fits w.2 = true)
    (hx : ∀ r, x.unit r = (t.took ps ws rs).unit r ∧ x.pend r = (t.took ps ws rs).pend r ∧ x.gen r = (t.took ps ws rs).gen r)
    (hw : x.waits = t.waits)
    (hrest : x.ported a b = { f with
      v := x.v, u := x.u, p := x.p, t := x.t, a := x.a, waits := x.waits, fpf := t.fpf ||| fl
      passes := t.passes + BitVec.ofNat 64 ps, total := t.total + BitVec.ofNat 64 ps, stall := if f.hold = .none then 0 else f.stall
      lastA := a, lastB := b }) :
    t.Ran f (x.ported a b) t.counter ps ws rs fl := by
  obtain ⟨nw, nr, apart⟩ := List.nodup_append.mp hn
  have out : ∀ w ∈ ws, ∀ r ∈ rs, r ≠ w.1 := fun w hw r hr e => apart w.1 (List.mem_map_of_mem hw) r hr e.symm
  have units : ∀ r, (x.ported a b).unit r = ((t.writeAll ws).oweAll rs).unit r ∧ (x.ported a b).pend r = ((t.writeAll ws).oweAll rs).pend r
      ∧ (x.ported a b).gen r = ((t.writeAll ws).oweAll rs).gen r := by
    intro r; simpa [Team.took] using hx r
  refine ⟨fun w hw => ?_, fun w hw wd => ?_, fun r hr => ⟨?_, fun wd => ?_⟩, fun r h1 h2 => ?_, fun i => by simp [Team.counter, Team.ported, hw], hrest⟩
  · rw [(units w.1).1, ((t.writeAll ws).oweAll_other rs w.1 (out w hw)).1, (t.writeAll_named ws nw hf w hw).1]
  · obtain ⟨-, ho2, ho3⟩ := (t.writeAll ws).oweAll_other rs w.1 (out w hw)
    rw [(units w.1).2.1, (units w.1).2.2, ho2, ho3]
    exact (t.writeAll_named ws nw hf w hw).2 wd
  · rw [(units r).1, Team.oweAll_unit, (t.writeAll_other ws r (fun w hw e => out w hw r hr e.symm)).1]
  · obtain ⟨h1, h2⟩ := (t.writeAll ws).oweAll_named rs nr r hr wd
    rw [(units r).2.1, (units r).2.2, h1, h2, (t.writeAll_other ws r (fun w hw e => out w hw r hr e.symm)).2.2]
    simp
  · obtain ⟨o1, o2, o3⟩ := (t.writeAll ws).oweAll_other rs r (fun x hx e => h2 (e ▸ hx))
    rw [(units r).1, (units r).2.1, (units r).2.2, o1, o2, o3]
    exact t.writeAll_other ws r h1

/-! ## The effect carried out -/

/-- The port's count after a word, and the word's team. -/
theorem issued_eq {s : State} {u c : Nat} {t : Team} {b : Bool} {n : Nat} (h : s.team? u = some t) :
    ∃ x y, s.issued u c b n = (s.modCore c (fun k => k.counted b n)).setTeam u (t.ported x y) := by
  refine ⟨((s.modCore c (fun k => k.counted b n)).core c).portA, ((s.modCore c (fun k => k.counted b n)).core c).portB, ?_⟩
  simp only [State.issued]
  rw [State.modTeam_some _ _ t _ (by simpa using h)]
  rfl

/-- The state in which a plan acts: its first pass has raised the counter (R26). -/
def State.entered (s : State) (p : Plan) (t : Team) (c : Clause) : State := if c.opId = 0 then s.setTeam s.cur (t.incW p.w) else s

/-- A word whose effect the core carries out, with what it leaves: `e.s` is the state after the effect, `t1` what it left of the team, and
`f` where the word leaves that team. -/
theorem direct_leaves {s : State} {t : Team} {k : Crew} {c : Clause} {m rest : Mask} {p : Plan} {e : Effect} {t1 f : Team} {ps : Nat} {cut : Bool}
    (hcur : s.current = some (t, k)) (hopen : t.clause = some c)
    (hact : p.act (Env.ofTeam s.cur t c m rest p.w) (s.entered p t c) = .ok e)
    (hc : ∀ r ∈ e.writes.map Prod.fst ++ e.owes, r.wired = false → t.gen r + 1 ∉ s.carried s.cur t r)
    (ht : e.s.team? s.cur = some t1) (hn : (e.writes.map Prod.fst ++ e.owes).Nodup) (hf : ∀ w ∈ e.writes, w.1.fits w.2 = true)
    (hp : (if p.whole then 1 else (Mask.words m).length) = ps)
    (hrest : ∀ a b, ((t1.took ps e.writes e.owes).passed p m cut e.flags e.moved e.opId).ported a b
      = { f with
          v := ((t1.took ps e.writes e.owes)).v, u := (t1.took ps e.writes e.owes).u, p := (t1.took ps e.writes e.owes).p
          t := (t1.took ps e.writes e.owes).t, a := (t1.took ps e.writes e.owes).a, waits := t1.waits, fpf := t1.fpf ||| e.flags
          passes := t1.passes + BitVec.ofNat 64 ps, total := t1.total + BitVec.ofNat 64 ps, stall := if f.hold = .none then 0 else f.stall
          lastA := a, lastB := b }) :
    ∃ t', s.Did e.s (s.direct p t k c m rest cut) t1 f t' k t1.counter ps e.writes e.owes e.flags := by
  have hany : (e.writes.map Prod.fst ++ e.owes).any (fun r => !r.wired && (s.carried s.cur t r).contains (t.gen r + 1)) = false := by
    simp only [List.any_eq_false, Bool.and_eq_true, Bool.not_eq_true', List.contains_iff_mem, not_and]
    exact hc
  have hd : s.direct p t k c m rest cut
      = (e.s.modTeam s.cur (fun t => (t.took ps e.writes e.owes).passed p m cut e.flags e.moved e.opId)).issued s.cur k.coreKey c.onB ps := by
    simp only [State.direct]
    rw [← hp]
    simp only [State.entered] at hact
    rw [hact]
    simp only [hany, Bool.false_eq_true, if_false]
    rfl
  rw [hd, State.modTeam_some _ _ t1 _ ht]
  obtain ⟨a, b, hj⟩ := issued_eq (c := k.coreKey) (b := c.onB) (n := ps)
    (State.team?_setTeam e.s s.cur ((t1.took ps e.writes e.owes).passed p m cut e.flags e.moved e.opId))
  have port : s.onB = c.onB := by simp [State.onB, current_team hcur, Team.onB, hopen]
  have core : ∀ (x : State) (u : Nat) (y : Team) (v : Nat), (x.setTeam u y).core v = x.core v := fun _ _ _ _ => rfl
  rw [hj]
  refine ⟨_, State.team?_setTeam _ _ _, t1.took_ran f _ ps e.writes e.owes e.flags a b hn hf (fun r => by simp) (by simp [Team.took]) ?_, ?_, ?_, rfl⟩
  · rw [hrest a b]; simp [Team.took]
  · intro u hu
    rw [State.team?_setTeam_ne _ _ _ _ hu, State.team?_modCore, State.team?_setTeam_ne _ _ _ _ hu]
  · intro v
    rw [core, State.core_modCore, core, core, port]
    by_cases hv : v = k.coreKey <;> simp [hv]

/-- A word that is through: the team moves past it, or stays where the word has sent it. -/
theorem direct_did {s : State} {t : Team} {k : Crew} {c : Clause} {m rest : Mask} {p : Plan} {e : Effect} {t1 : Team} {n ps : Nat}
    (hcur : s.current = some (t, k)) (hopen : t.clause = some c) (h0 : ∀ c, t1.clause = some c → c.flags = 0)
    (hact : p.act (Env.ofTeam s.cur t c m rest p.w) (s.entered p t c) = .ok e)
    (hc : ∀ r ∈ e.writes.map Prod.fst ++ e.owes, r.wired = false → t.gen r + 1 ∉ s.carried s.cur t r)
    (ht : e.s.team? s.cur = some t1) (hn : (e.writes.map Prod.fst ++ e.owes).Nodup) (hf : ∀ w ∈ e.writes, w.1.fits w.2 = true)
    (h2 : (if p.two then 2 else 1) = n) (hp : (if p.whole then 1 else (Mask.words m).length) = ps) :
    ∃ t', s.Did e.s (s.direct p t k c m rest false) t1 (if e.moved then t1 else t1.advance n) t' k t1.counter ps e.writes e.owes e.flags := by
  refine direct_leaves hcur hopen hact hc ht hn hf hp (fun a b => ?_)
  obtain ⟨place, flags⟩ := Team.passed_through (t1.took ps e.writes e.owes) t1 p m e.flags e.moved e.opId n (by simp [Team.took]) h0 h2
  simp only [Prod.mk.injEq] at place
  obtain ⟨p1, p2, p3, p4⟩ := place
  unfold Team.ported
  simp only [Team.mk.injEq, p1, p2, p3, p4, flags]
  cases e.moved <;> simp [Team.took] <;> simp [Team.countPasses]

/-- A pass with others of its word still to issue: the team keeps its place. -/
theorem direct_pass {s : State} {t : Team} {k : Crew} {c : Clause} {m rest : Mask} {p : Plan} {e : Effect} {t1 : Team} {c1 : Clause} {ps : Nat}
    (hcur : s.current = some (t, k)) (hopen : t.clause = some c) (h1 : t1.clause = some c1) (hfl : e.flags = 0)
    (hact : p.act (Env.ofTeam s.cur t c m rest p.w) (s.entered p t c) = .ok e)
    (hc : ∀ r ∈ e.writes.map Prod.fst ++ e.owes, r.wired = false → t.gen r + 1 ∉ s.carried s.cur t r)
    (ht : e.s.team? s.cur = some t1) (hn : (e.writes.map Prod.fst ++ e.owes).Nodup) (hf : ∀ w ∈ e.writes, w.1.fits w.2 = true)
    (hp : (if p.whole then 1 else (Mask.words m).length) = ps) :
    ∃ t', s.Did e.s (s.direct p t k c m rest true) t1 { t1 with clause := some (c1.cutAt m e.opId) } t' k t1.counter ps e.writes e.owes 0 := by
  have h := direct_leaves (f := { t1 with clause := some (c1.cutAt m e.opId) }) (cut := true) hcur hopen hact hc ht hn hf hp (fun a b => by
    rw [hfl, Team.passed_cut _ _ _ _ _ c1 (by simpa [Team.took] using h1)]
    unfold Team.ported
    simp only [Team.mk.injEq]
    simp [Team.took]
    simp [Team.countPasses])
  rwa [hfl] at h

/-- A word's effect that only writes registers. -/
theorem direct_wrote {s : State} {t : Team} {k : Crew} {c : Clause} {m rest : Mask} {p : Plan} {ws : List (UnitRef × UnitVal)} {fl : BitVec 5}
    {n ps : Nat} (h : s.Ready t k c) (hw : p.w = 7)
    (hact : p.act (Env.ofTeam s.cur t c m rest 7) (s.setTeam s.cur t) = .ok { s := s.setTeam s.cur t, writes := ws, flags := fl })
    (hn : (ws.map Prod.fst).Nodup) (hf : ∀ w ∈ ws, w.1.fits w.2 = true)
    (hc : ∀ w ∈ ws, w.1.wired = false → t.gen w.1 + 1 ∉ s.carried s.cur t w.1)
    (h2 : (if p.two then 2 else 1) = n) (hp : (if p.whole then 1 else (Mask.words m).length) = ps) :
    ∃ t', s.Did s (s.direct p t k c m rest false) t (t.advance n) t' k t.counter ps ws [] fl := by
  have hact' : p.act (Env.ofTeam s.cur t c m rest p.w) (s.entered p t c) = .ok { s := s.setTeam s.cur t, writes := ws, flags := fl } := by
    rw [State.entered, if_pos h.whole.2.1, hw, Team.incW_none]; exact hact
  obtain ⟨t', d⟩ := direct_did (t1 := t) h.turn h.opened (by rw [h.opened]; rintro _ ⟨⟩; exact h.whole.2.2) hact'
    (by simp only [List.append_nil, List.forall_mem_map]; exact hc) (State.team?_setTeam _ _ _) (by simpa using hn) hf h2 hp
  exact ⟨t', d.after, d.ran, fun u hu => (d.others u hu).trans (State.team?_setTeam_ne _ _ _ _ hu), d.cores, d.package⟩

end Sys2Proof.Machine
end

