-- ==== Sys2Proof/Laws/Masks.lean ====
section
/-! SUPPORT. Mask words, their lanes, and flags raised together. -/

namespace Sys2Proof.Machine

/-- A sum of distinct powers of two stays below the next one. -/
theorem sumBits_lt (f : Nat → Bool) (n : Nat) : (List.range n).foldl (fun acc j => if f j then acc + 2 ^ j else acc) 0 < 2 ^ n := by
  induction n with
  | zero => simp
  | succ n ih =>
    rw [List.range_succ, List.foldl_append, Nat.pow_succ]
    exact Nat.lt_of_le_of_lt (m := (List.range n).foldl (fun acc j => if f j then acc + 2 ^ j else acc) 0 + 2 ^ n)
      (by dsimp only [List.foldl_cons, List.foldl_nil]; split <;> omega) (by omega)

/-- Its bits are the tests. -/
theorem sumBits_testBit (f : Nat → Bool) (n j : Nat) :
    ((List.range n).foldl (fun acc j => if f j then acc + 2 ^ j else acc) 0).testBit j = (decide (j < n) && f j) := by
  induction n with
  | zero => simp
  | succ n ih =>
    have top := Nat.testBit_two_pow_mul_add (f n).toNat (sumBits_lt f n) j
    rw [List.range_succ, List.foldl_append, List.foldl_cons, List.foldl_nil]
    have same : ∀ x : Nat, (if f n then x + 2 ^ n else x) = 2 ^ n * (f n).toNat + x := by intro x; cases f n <;> simp [Nat.add_comm]
    rw [same, top, ih]
    rcases Nat.lt_trichotomy j n with h | h | h
    · simp [h, Nat.lt_succ_of_lt h]
    · subst h; cases f j <;> simp
    · rw [if_neg (by omega), show j - n = j - n - 1 + 1 by omega, Nat.testBit_succ]
      cases f n <;> simp [show ¬ j ≤ n by omega]

/-- Bit j of the mask word of a test. -/
@[simp] theorem maskWord_getLsbD (f : Nat → Bool) (j : Nat) : (maskWord f).getLsbD j = (decide (j < 32) && f j) := by
  unfold maskWord
  rw [BitVec.getLsbD_ofNat, sumBits_testBit f 32 j]
  by_cases h : j < 32 <;> simp [h]

/-- Two tests that agree on the lanes of a word make one mask word. -/
theorem maskWord_congr {f g : Nat → Bool} (h : ∀ j < 32, f j = g j) : maskWord f = maskWord g := by
  apply BitVec.eq_of_getLsbD_eq
  intro j hj
  rw [maskWord_getLsbD, maskWord_getLsbD, h j hj]

theorem Mask.mem_lanes (m : Mask) (l : Nat) : l ∈ Mask.lanes m ↔ (m.getD (l / 32) 0).getLsbD (l % 32) = true := by
  unfold Mask.lanes Mask.has
  simp only [List.mem_filter, List.mem_range, and_iff_right_iff_imp]
  intro h
  by_contra hl
  rw [List.getD_eq_default _ _ (by omega)] at h
  simp at h

theorem Mask.mem_words (m : Mask) (k : Nat) : k ∈ Mask.words m ↔ m.getD k 0 ≠ 0 := by
  unfold Mask.words
  simp only [List.mem_filter, List.mem_range, bne_iff_ne, ne_eq, and_iff_right_iff_imp]
  intro h
  by_contra hl
  exact h (List.getD_eq_default _ _ (by omega))

/-- A lane acts in an executed word. -/
theorem Mask.word_of_lane {m : Mask} {l : Nat} (h : l ∈ Mask.lanes m) : l / 32 ∈ Mask.words m := by
  rw [Mask.mem_words]
  intro hz
  rw [Mask.mem_lanes, hz] at h
  simp at h

theorem Flags.all_getLsbD (fs : List Flags) (i : Nat) : (Flags.all fs).getLsbD i = fs.any (fun f => f.getLsbD i) := by
  have : ∀ (fs : List Flags) (a : Flags), (fs.foldl (· ||| ·) a).getLsbD i = (a.getLsbD i || fs.any (fun f => f.getLsbD i)) := by
    intro fs
    induction fs with
    | nil => simp
    | cons f fs ih => intro a; simp [ih, Bool.or_assoc]
  unfold Flags.all
  rw [this]
  simp

/-- Flags of some lists together are equal when each flag comes from one list exactly when it comes from the other. -/
theorem Flags.all_congr {fs gs : List Flags} (h1 : ∀ f ∈ fs, f = 0 ∨ f ∈ gs) (h2 : ∀ g ∈ gs, g = 0 ∨ g ∈ fs) : Flags.all fs = Flags.all gs := by
  apply BitVec.eq_of_getLsbD_eq
  intro i _
  rw [Flags.all_getLsbD, Flags.all_getLsbD, Bool.eq_iff_iff]
  simp only [List.any_eq_true]
  constructor
  · rintro ⟨f, hf, hb⟩
    rcases h1 f hf with rfl | hg
    · simp at hb
    · exact ⟨f, hg, hb⟩
  · rintro ⟨f, hf, hb⟩
    rcases h2 f hf with rfl | hg
    · simp at hb
    · exact ⟨f, hg, hb⟩

theorem Flags.all_zero {fs : List Flags} (h : ∀ f ∈ fs, f = 0) : Flags.all fs = 0 :=
  Flags.all_congr (gs := []) (fun f hf => .inl (h f hf)) (by simp)

/-- Flags gathered word by word are the flags of all lanes. -/
theorem Flags.all_words (m : Mask) (f : Nat → Flags) :
    Flags.all ((Mask.words m).map (fun k => Flags.all (((List.range 32).filter (fun j => (m.getD k 0).getLsbD j)).map (fun j => f (32 * k + j)))))
      = Flags.all ((Mask.lanes m).map f) := by
  apply BitVec.eq_of_getLsbD_eq
  intro i _
  rw [Flags.all_getLsbD, Flags.all_getLsbD, Bool.eq_iff_iff]
  simp only [List.any_map, List.any_eq_true, Function.comp, Flags.all_getLsbD, List.mem_filter, List.mem_range]
  constructor
  · rintro ⟨k, hk, j, ⟨hj, hb⟩, hf⟩
    refine ⟨32 * k + j, ?_, hf⟩
    rw [Mask.mem_lanes, show (32 * k + j) / 32 = k by omega, show (32 * k + j) % 32 = j by omega]
    exact hb
  · rintro ⟨l, hl, hf⟩
    refine ⟨l / 32, Mask.word_of_lane hl, l % 32, ⟨by omega, (Mask.mem_lanes m l).mp hl⟩, ?_⟩
    rwa [show 32 * (l / 32) + l % 32 = l by omega]

end Sys2Proof.Machine
end

