-- ==== Sys2Proof/Laws/Lane.lean ====
section
/-! SUPPORT. What each shape of lane-class word does when it is ready: one lemma for each shape. -/

namespace Sys2Proof.Machine

/-- From a plan whose effect only writes registers to the instruction's completion. -/
theorem completes_of {s : State} {t : Team} {k : Crew} {c : Clause} {m : Mask} {i : Instr} {i' : Option Instr} {p : Plan}
    {ws : List (UnitRef × UnitVal)} {fl : BitVec 5} {n ps : Nat}
    (hx : exec i s = .next (s.issueWord i' p)) (h : s.Ready t k c) (g : p.Goes s t k c m) (hw : p.w = 7)
    (hact : p.act (Env.ofTeam s.cur t c m m 7) (s.setTeam s.cur t) = .ok { s := s.setTeam s.cur t, writes := ws, flags := fl })
    (hn : (ws.map Prod.fst).Nodup) (hf : ∀ w ∈ ws, w.1.fits w.2 = true)
    (hc : ∀ w ∈ ws, w.1.wired = false → t.gen w.1 + 1 ∉ s.carried s.cur t w.1)
    (h2 : (if p.two then 2 else 1) = n) (hp : (if p.whole then 1 else (Mask.words m).length) = ps) :
    s.Completes i t k n ps ws fl := by
  obtain ⟨t', ht⟩ := direct_wrote h hw hact hn hf hc h2 hp
  rw [← issueWord_goes i' h g] at ht
  exact ⟨_, t', hx, ht⟩

theorem Mask.lanes_nodup (m : Mask) : (Mask.lanes m).Nodup := List.Nodup.filter _ List.nodup_range
theorem Mask.words_nodup (m : Mask) : (Mask.words m).Nodup := List.Nodup.filter _ List.nodup_range

theorem vecs_nodup {α : Type} (d : Nat) (ls : List Nat) (h : ls.Nodup) (f : Nat → α) :
    ((ls.map (fun l => (UnitRef.vec d l, f l))).map Prod.fst).Nodup := by
  rw [List.map_map]
  exact h.map (fun a b e => by simpa using e)

theorem preds_nodup {α : Type} (d : Nat) (ks : List Nat) (h : ks.Nodup) (f : Nat → α) :
    ((ks.map (fun l => (UnitRef.pred d l, f l))).map Prod.fst).Nodup := by
  rw [List.map_map]
  exact h.map (fun a b e => by simpa using e)

/-- Writes of words into lanes: each fits its unit, and what the claims ask of the units holds of the writes. -/
theorem vecs_fit (d : Nat) (ls : List Nat) (f : Nat → Val) : ∀ w ∈ ls.map (fun l => (UnitRef.vec d l, UnitVal.w (f l))), w.1.fits w.2 = true :=
  List.forall_mem_map.mpr (fun _ _ => rfl)

theorem preds_fit (d : Nat) (ks : List Nat) (f g : Nat → Word) :
    ∀ w ∈ ks.map (fun l => (UnitRef.pred d l, UnitVal.p (f l) (g l))), w.1.fits w.2 = true := List.forall_mem_map.mpr (fun _ _ => rfl)

theorem writable_fresh {s : State} {t : Team} {β : Type} (ls : List Nat) (u : Nat → UnitRef) (f : Nat → β) (h : s.writable t (ls.map u)) :
    ∀ w ∈ ls.map (fun l => (u l, f l)), w.1.wired = false → t.gen w.1 + 1 ∉ s.carried s.cur t w.1 :=
  List.forall_mem_map.mpr (fun _ hl hwd => (h _ (List.mem_map_of_mem hl) hwd).2)

theorem checkV_none {rs : List Nat} {t : Team} {m : Mask} (h : ∀ r ∈ rs, r < t.vN) : checkV rs t m = none := by
  simp only [checkV]; rw [if_pos]; simpa using h

theorem lane_writable {s : State} {t : Team} {d : Nat} {m : Mask} (h : s.writable t ((Mask.lanes m).map (UnitRef.vec d))) :
    ∀ l ∈ Mask.lanes m, t.pend (.vec d l) = false := by
  intro l hl
  by_cases hw : (UnitRef.vec d l).wired = true
  · exact t.pend_wired _ hw
  · exact (h _ (List.mem_map_of_mem hl) (by simpa using hw)).1

theorem writable_landed {s : State} {t : Team} {rs : List UnitRef} (h : s.writable t rs) : t.landed rs := by
  intro r hr
  by_cases hw : r.wired = true
  · exact t.pend_wired _ hw
  · exact (h r hr (by simpa using hw)).1

/-- The source words of a lane form on one lane. -/
def laneArgs (t : Team) (d a : Nat) (b : Option (BitVec 7 × BitVec 1)) (readD : Bool) (l : Nat) : List Val :=
  [t.lane a l] ++ (match b with | some (b, u) => [t.second b u l] | none => []) ++ (if readD then [t.lane d l] else [])

theorem Mask.none_words (m : Mask) : (if (false : Bool) = true then 1 else (Mask.words m).length) = Mask.passes m := rfl

/-- The second operand has landed when the claims say so. -/
theorem second_landed {t : Team} {b : BitVec 7} {u : BitVec 1} {m : Mask} (h : t.landed (secondUnits b u m)) :
    ∀ r ∈ (bSrc b.toNat u m).units, t.pend r = false := by
  intro r hr
  simp only [bSrc, uSrc, vSrc] at hr
  by_cases hu : u = 1
  · simp only [secondUnits, hu, if_true] at h hr; exact h r hr
  · simp only [secondUnits, hu, if_false, laneUnits] at h hr; exact h r hr

/-- A one-bit field that is not 1 is 0. -/
theorem bit_zero {u : BitVec 1} (h : u ≠ 1) : u = 0 := by
  have h1 := u.isLt
  have h2 : u.toNat ≠ 1 := fun e => h (BitVec.eq_of_toNat_eq e)
  apply BitVec.eq_of_toNat_eq; simp; omega

/-- The vector registers of a form with a second operand are within the allotment. -/
theorem vregs_held {t : Team} {d a b : BitVec 7} {u : BitVec 1} (h : t.holds [d, a]) (hb : u = 0 → t.holds [b]) :
    ∀ r ∈ vregs d.toNat a.toNat b.toNat u, r < t.vN := by
  have hd : d.toNat < t.vN := h d (by simp)
  have ha : a.toNat < t.vN := h a (by simp)
  by_cases hu : u = 1
  · rw [vregs, if_pos hu]; simp; exact ⟨hd, ha⟩
  · rw [vregs, if_neg hu]; simp; exact ⟨hd, ha, hb (bit_zero hu) b (by simp)⟩

/-- The shape of the lane forms that compute from words. -/
theorem lanePlan_completes {s : State} {t : Team} {k : Crew} {c : Clause} {i : Instr} (d a : BitVec 7) (b : Option (BitVec 7 × BitVec 1))
    (readD : Bool) (f : BitVec 2 → List Word → Word × Flags)
    (hx : exec i s = issue i (lanePlan d.toNat a.toNat (b.map (fun x => (x.1.toNat, x.2))) readD f) s)
    (h : s.Ready t k c) (hm : Mask.none (t.acting c) = false) (hda : t.holds [d, a])
    (hb : ∀ x, b = some x → x.2 = 0 → t.holds [x.1])
    (hsrc : t.landed (laneUnits a (t.acting c))) (hsb : ∀ x, b = some x → t.landed (secondUnits x.1 x.2 (t.acting c)))
    (hd : s.writable t (laneUnits d (t.acting c))) :
    s.Completes i t k 1 (Mask.passes (t.acting c))
      ((Mask.lanes (t.acting c)).map (fun l => (.vec d.toNat l, .w (laneFn (laneArgs t d.toNat a.toNat b readD l) (f t.rm)).1)))
      (Flags.all ((Mask.lanes (t.acting c)).map (fun l => (laneFn (laneArgs t d.toNat a.toNat b readD l) (f t.rm)).2))) := by
  have hd0 : d.toNat < t.vN := hda d (by simp)
  have ha0 : a.toNat < t.vN := hda a (by simp)
  have hdl := writable_landed hd
  refine completes_of (m := t.acting c) hx h ?_ rfl ?_ (vecs_nodup _ _ (Mask.lanes_nodup _) _) (vecs_fit _ _ _) (writable_fresh _ _ _ hd) rfl rfl
  · refine { present := rfl, formed := rfl, placed := rfl, priv := rfl, room := fun _ => t.fullW_none, held := List.forall_mem_nil _
             part := List.forall_mem_nil _, dsts := hdl, behind := rfl, atOnce := rfl, acts := rfl, someLane := hm, regs := ?_, srcs := ?_ }
    · rcases b with _ | ⟨b, u⟩
      · exact checkV_none (m := t.acting c) (by simp [hd0, ha0])
      · exact checkV_none (m := t.acting c) (vregs_held hda (hb (b, u) rfl))
    · have one : ∀ (x : Src), (∀ r ∈ x.units, t.pend r = false) → ∀ y ∈ [x], ∀ r ∈ y.units, t.pend r = false := by
        intro x hx; simpa using hx
      simp only [lanePlan, List.forall_mem_append]
      refine ⟨⟨one _ hsrc, ?_⟩, ?_⟩
      · cases b with
        | none => exact List.forall_mem_nil _
        | some y => exact one _ (second_landed (hsb y rfl))
      · cases readD with
        | false => exact List.forall_mem_nil _
        | true => exact one _ hdl
  · rcases b with _ | ⟨b, u⟩ <;> cases readD <;>
      simp [lanePlan, Env.ofTeam, laneArgs, Team.lane, Team.second, Team.uniform, Env.v, Env.opnd, Env.u, Function.comp_def]

/-- The shape of the words that write a predicate lane by lane. -/
theorem predPlan_completes {s : State} {t : Team} {k : Crew} {c : Clause} {i : Instr} (pd : BitVec 3) (regs : Team → Mask → Option Trap)
    (srcs : Mask → List Src) (readOld : Bool) (f : Env → Nat → Bool × Bool → Bool × Bool × Flags)
    (hx : exec i s = issue i (predPlan pd.toNat regs srcs readOld f) s)
    (h : s.Ready t k c) (hm : Mask.none (t.acting c) = false) (hp : pd ≠ 0) (hr : regs t (t.acting c) = none)
    (hs : ∀ x ∈ srcs (t.acting c), ∀ r ∈ x.units, t.pend r = false) (hd : s.writable t (wordUnits pd (t.acting c))) :
    let r := fun l => f (Env.ofTeam s.cur t c (t.acting c) (t.acting c) 7) l (t.flag pd l, t.flagBad pd l)
    s.Completes i t k 1 (Mask.passes (t.acting c))
      ((Mask.words (t.acting c)).map (fun w => (.pred pd.toNat w,
        .p (maskWord (fun j => if ((t.acting c).getD w 0).getLsbD j then (r (32 * w + j)).1 else t.flag pd (32 * w + j)))
          (maskWord (fun j => if ((t.acting c).getD w 0).getLsbD j then (r (32 * w + j)).2.1 else t.flagBad pd (32 * w + j))))))
      (Flags.all ((Mask.lanes (t.acting c)).map (fun l => (r l).2.2))) := by
  intro r
  have hp' : pd.toNat ≠ 0 := fun e => hp (BitVec.eq_of_toNat_eq (by simpa using e))
  have hdl := writable_landed hd
  have key : ∀ w j, j < 32 → (t.flag pd (32 * w + j) = (t.unit (.pred pd.toNat w)).preds.1.getLsbD j)
      ∧ (t.flagBad pd (32 * w + j) = (t.unit (.pred pd.toNat w)).preds.2.getLsbD j) := by
    intro w j hj
    simp only [Team.flag, Team.flagBad, show (32 * w + j) / 32 = w by omega, show (32 * w + j) % 32 = j by omega, and_self]
  refine completes_of (m := t.acting c) hx h ?_ rfl ?_ (preds_nodup _ _ (Mask.words_nodup _) _) (preds_fit _ _ _ _) (writable_fresh _ _ _ hd) rfl rfl
  · refine { present := rfl, formed := rfl, placed := rfl, priv := rfl, room := fun _ => t.fullW_none, held := List.forall_mem_nil _
             dsts := hdl, behind := rfl, atOnce := rfl, acts := rfl, someLane := hm, regs := by simp [predPlan, hr, hp'], srcs := ?_, part := ?_ }
    · simp only [predPlan, List.forall_mem_append]
      refine ⟨hs, ?_⟩
      cases readOld with
      | false => exact List.forall_mem_nil _
      | true => exact List.forall_mem_singleton.mpr hdl
    · intro x hx' r hr'
      simp only [predPlan] at hx'
      split at hx'
      · cases hx'
      · split at hx'
        · cases hx'
        · obtain rfl := List.mem_singleton.mp hx'
          obtain ⟨w, hw, rfl⟩ := List.mem_map.mp hr'
          exact hdl _ (List.mem_map_of_mem (List.mem_filter.mp hw).1)
  · simp only [predPlan, Env.ofTeam]
    congr 2
    · rw [List.map_map]
      apply List.map_congr_left
      intro w _
      simp only [Function.comp]
      congr 2
      · apply maskWord_congr; intro j hj; rw [(key w j hj).1]; simp only [r, Env.ofTeam, (key w j hj).1, (key w j hj).2]
      · apply maskWord_congr; intro j hj; rw [(key w j hj).2]; simp only [r, Env.ofTeam, (key w j hj).1, (key w j hj).2]
    · rw [List.map_map, ← Flags.all_words]
      congr 1
      apply List.map_congr_left
      intro w _
      simp only [Function.comp]
      congr 1
      apply List.map_congr_left
      intro j hj
      have hj' : j < 32 := by simpa using (List.mem_filter.mp hj).1
      simp only [r, Env.ofTeam, (key w j hj').1, (key w j hj').2]

/-- A word that writes one uniform register from registers that have landed. -/
theorem uniform_completes {s : State} {t : Team} {k : Crew} {c : Clause} {i : Instr} {i' : Option Instr} {p : Plan} (d : BitVec 7) (v : Val) (n : Nat)
    (hx : exec i s = .next (s.issueWord i' p)) (h : s.Ready t k c) (g : p.Goes s t k c (t.acting c)) (hw : p.w = 7)
    (hact : p.act (Env.ofTeam s.cur t c (t.acting c) (t.acting c) 7) (s.setTeam s.cur t) = .ok { s := s.setTeam s.cur t, writes := [(.uni d.toNat, .w v)] })
    (hd : s.writable t [.uni d.toNat]) (h2 : (if p.two then 2 else 1) = n) (hp : p.whole = true) :
    s.Completes i t k n 1 [(.uni d.toNat, .w v)] 0 := by
  refine completes_of (m := t.acting c) hx h g hw hact (List.nodup_singleton _) (List.forall_mem_singleton.mpr rfl)
    (List.forall_mem_singleton.mpr (fun hwd => (hd _ (List.mem_singleton_self _) hwd).2)) h2 (by rw [hp]; rfl)

/-- A word that writes the acting lanes of a vector register, and no flag. -/
theorem lanes_completes {s : State} {t : Team} {k : Crew} {c : Clause} {i : Instr} {i' : Option Instr} {p : Plan} (d : BitVec 7) (f : Nat → Val) (n : Nat)
    (hx : exec i s = .next (s.issueWord i' p)) (h : s.Ready t k c) (g : p.Goes s t k c (t.acting c)) (hw : p.w = 7)
    (hact : p.act (Env.ofTeam s.cur t c (t.acting c) (t.acting c) 7) (s.setTeam s.cur t)
      = .ok { s := s.setTeam s.cur t, writes := (Mask.lanes (t.acting c)).map (fun l => (.vec d.toNat l, .w (f l))) })
    (hd : s.writable t (laneUnits d (t.acting c))) (h2 : (if p.two then 2 else 1) = n) (hp : p.whole = false) :
    s.Completes i t k n (Mask.passes (t.acting c)) ((Mask.lanes (t.acting c)).map (fun l => (.vec d.toNat l, .w (f l)))) 0 :=
  completes_of (m := t.acting c) hx h g hw hact (vecs_nodup _ _ (Mask.lanes_nodup _) _) (vecs_fit _ _ _) (writable_fresh _ _ _ hd) h2 (by rw [hp]; rfl)

end Sys2Proof.Machine
end

