-- ==== Sys2Proof/Laws/Memory.lean ====
section
/-! SUPPORT. Every operation on memory keeps its one form, and only these change memory: bytes stored at a holder, a chunk poisoned, the
written bit and key of a line, ranges cleared and zeros over what a world owns. -/

namespace Sys2Proof.Machine

theorem Memory.wf_iff (m : Memory) :
    m.wf = true ↔ wfTable 0 m.cells = true ∧ wfTable false m.poison = true ∧ wfTable false m.written = true ∧ wfTable (0, 0) m.keys = true
      ∧ wfTable none m.seeds = true := by
  simp only [Memory.wf, Bool.and_eq_true, and_assoc]

/-- A chunk poisoned, or its poison cleared. -/
theorem Memory.wf_poison (m : Memory) (k : Nat) (b : Bool) (h : m.wf = true) : ({ m with poison := tset false m.poison k b } : Memory).wf = true := by
  rw [Memory.wf_iff] at h ⊢
  exact ⟨h.1, wfTable_tset _ _ _ _ h.2.1, h.2.2⟩

theorem wfTable_putCells (h : Nat) (ws : List (Nat × PByte)) (c : List Host.Cell) (hc : wfTable 0 c = true) :
    wfTable 0 (ws.foldl (fun c w => match w.2 with | some b => tset 0 c (memKey h w.1) b | none => c) c) = true := by
  induction ws generalizing c with
  | nil => exact hc
  | cons w ws ih =>
    apply ih
    dsimp only
    split
    · exact wfTable_tset _ _ _ _ hc
    · exact hc

theorem Memory.wf_putGranule (m : Memory) (h base : Nat) (ws : List (Nat × PByte)) (hm : m.wf = true) : (m.putGranule h base ws).wf = true := by
  rw [Memory.wf_iff] at hm ⊢
  refine ⟨wfTable_putCells h ws _ hm.1, ?_, hm.2.2⟩
  simp only [Memory.putGranule]
  split
  · exact wfTable_tset _ _ _ _ hm.2.1
  · split
    · exact wfTable_tset _ _ _ _ hm.2.1
    · exact hm.2.1

theorem State.wf_keyLine (s : State) (h off : Nat) (hm : s.mem.wf = true) : (s.keyLine h off).mem.wf = true := by
  rw [Memory.wf_iff] at hm ⊢
  refine ⟨hm.1, hm.2.1, wfTable_tset _ _ _ _ hm.2.2.1, ?_, hm.2.2.2.2⟩
  simp only [State.keyLine]
  split
  · exact hm.2.2.2.1
  · exact wfTable_tset _ _ _ _ hm.2.2.2.1

theorem State.wf_spoilLine (s : State) (h off : Nat) (hm : s.mem.wf = true) : (s.spoilLine h off).mem.wf = true := by
  simp only [State.spoilLine]
  split
  · exact hm
  · rw [Memory.wf_iff] at hm ⊢
    exact ⟨hm.1, wfTable_tset _ _ _ _ (wfTable_tset _ _ _ _ hm.2.1), hm.2.2⟩

/-- A property that every step of a fold keeps. -/
theorem foldl_keeps {α β : Type} (P : α → Prop) (f : α → β → α) (hf : ∀ a b, P a → P (f a b)) : ∀ (xs : List β) (a : α), P a → P (xs.foldl f a) := by
  intro xs
  induction xs with
  | nil => intro a h; exact h
  | cons x xs ih => intro a h; exact ih _ (hf a x h)

/-- A word brought under its owner's seed. -/
theorem State.wf_reseed (s : State) (h off : Nat) (hm : s.mem.wf = true) : (s.reseed h off).mem.wf = true := by
  simp only [State.reseed]
  split
  · rw [Memory.wf_iff] at hm ⊢
    exact ⟨foldl_keeps (fun c => wfTable 0 c = true) _ (fun c i h => wfTable_tset _ _ _ _ h) _ _ hm.1, hm.2.1, hm.2.2.1, hm.2.2.2.1,
      wfTable_tset _ _ _ _ hm.2.2.2.2⟩
  · exact hm

/-- Bytes stored at a holder. -/
theorem State.wf_putBytes (s : State) (h : Nat) (ws : List (Nat × PByte)) (hm : s.mem.wf = true) : (s.putBytes h ws).mem.wf = true := by
  have keyed := foldl_keeps (fun s : State => s.mem.wf = true) (fun s o => (s.spoilLine h o).keyLine h o)
    (fun s o hm => State.wf_keyLine _ _ _ (s.wf_spoilLine _ _ hm)) (distinct (ws.map (fun w => w.1 / 128 * 128))) s hm
  refine foldl_keeps (fun m : Memory => m.wf = true) _ (fun m g hm => m.wf_putGranule _ _ _ hm) _ _ ?_
  split
  · exact foldl_keeps (fun s : State => s.mem.wf = true) _ (fun s w hm => s.wf_reseed _ _ hm) _ _ keyed
  · exact keyed

/-- Watches, noted tag failures and mirror marks are no memory. -/
@[simp] theorem State.mem_watched (s : State) (h w pa kind src n : Nat) : (s.watched h w pa kind src n).mem = s.mem := by
  unfold State.watched; split <;> rfl
@[simp] theorem State.mem_noteTag (s : State) (h off : Nat) : (s.noteTag h off).mem = s.mem := by unfold State.noteTag; split <;> rfl
@[simp] theorem State.mem_markLines (s : State) (h : Nat) (os : List Nat) : (s.markLines h os).mem = s.mem := by
  rfl

/-- Bytes that the package writes itself, with the mirrors of the place. -/
theorem State.wf_writeOwn (s s1 : State) (src w pa kind : Nat) (bs : List PByte) (hm : s.mem.wf = true)
    (h : s.writeOwn src w pa bs kind = .ok s1) : s1.mem.wf = true := by
  unfold State.writeOwn at h
  cases hat : s.homeOf src w pa with
  | error c => simp [hat] at h
  | ok x =>
    by_cases hs : s.holderSilent x.1 = true
    · simp only [hat, hs, if_true, Except.ok.injEq] at h
      rwa [← h]
    · simp only [hat, hs, if_false, Except.ok.injEq, Bool.false_eq_true] at h
      rw [← h]
      refine foldl_keeps (fun s : State => s.mem.wf = true) _ (fun s m hm => ?_) _ _ ?_
      · rw [State.mem_watched]; exact s.wf_putBytes _ _ hm
      · rw [State.mem_watched, State.mem_markLines]; exact State.wf_putBytes _ _ _ (by rwa [State.mem_noteTag])

theorem Memory.wf_clearLines (m : Memory) (h base size : Nat) (hm : m.wf = true) : (m.clearLines h base size).wf = true := by
  rw [Memory.wf_iff] at hm ⊢
  exact ⟨wfTable_tclear _ _ _ _ hm.1, wfTable_tclear _ _ _ _ hm.2.1, wfTable_tclear _ _ _ _ hm.2.2.1, wfTable_tclear _ _ _ _ hm.2.2.2.1,
    hm.2.2.2.2⟩

theorem State.wf_zeroOwned (s : State) (w h : Nat) (hm : s.mem.wf = true) : (s.zeroOwned w h).mem.wf = true := by
  rw [Memory.wf_iff] at hm ⊢
  exact ⟨wfFrom_filter _ _ _ _ hm.1, wfFrom_filter _ _ _ _ hm.2.1, hm.2.2.1, wfFrom_filter _ _ _ _ hm.2.2.2.1, wfFrom_filter _ _ _ _ hm.2.2.2.2⟩

/-- What an unlisted address reads as, and memory after reset, which lists nothing. -/
theorem State.wf_resetMemory (v : Variant) : (State.resetOf v).mem.wf = true := rfl

/-- A byte stored reads back, and a store leaves every other byte. -/
theorem Memory.cells_after (m : Memory) (k l : Nat) (b : Byte) : tget 0 (tset 0 m.cells k b) l = if l = k then b else tget 0 m.cells l :=
  tget_tset 0 m.cells k l b

end Sys2Proof.Machine
end

