-- ==== Sys2Proof/Laws/Traps.lean ====
section
/-! SUPPORT. What taking a trap does, once for every instruction and event that raises one. -/

namespace Sys2Proof.Machine

/-- Discarding a FIFO keeps what neither the discarded entries' counters nor their destinations are. -/
theorem Team.discard_keeps {α : Type} (f : Team → α) (hd : ∀ t w, f (Team.decW t w) = f t) (hp : ∀ t r x b g, f (Team.put t r x b g) = f t)
    (hf : ∀ (t : Team) es, f { t with fifo := es } = f t) (t : Team) : f t.discard = f t := by
  have h1 : ∀ (es : List Entry) (t : Team), f (es.foldl (fun t e => t.decW e.w) t) = f t := by
    intro es
    induction es with
    | nil => intro _; rfl
    | cons e es ih => intro t; rw [List.foldl_cons, ih, hd]
  have hpo : ∀ (t : Team) r, f (t.poisonUnit r) = f t := by
    intro t r; cases r <;> (unfold Team.poisonUnit; exact hp _ _ _ _ _)
  have h2 : ∀ (os : List Owed) (t : Team), f (os.foldl (fun t o => if t.gen o.unit = o.gen then t.poisonUnit o.unit else t) t) = f t := by
    intro os
    induction os with
    | nil => intro _; rfl
    | cons o os ih =>
      intro t
      rw [List.foldl_cons, ih]
      split
      · exact hpo _ _
      · rfl
  have h3 : ∀ (es : List Entry) (t : Team),
      f (es.foldl (fun t e => e.dests.foldl (fun t o => if t.gen o.unit = o.gen then t.poisonUnit o.unit else t) t) t) = f t := by
    intro es
    induction es with
    | nil => intro _; rfl
    | cons e es ih => intro t; rw [List.foldl_cons, ih, h2]
  unfold Team.discard
  rw [hf, h3, h1]

/-- A team suspended by a trap keeps its place and reports the trap (R291, R245). -/
theorem Team.suspend_place (t : Team) (i : TrapInfo) (h : t.status ≠ .ended) :
    (t.suspend i).status = .suspended ∧ (t.suspend i).trap = some { i with holder := if i.cause = 0x10 ∨ i.cause = 0x11 then i.supplier.getD t.poisonHolder else 0 }
    ∧ (t.suspend i).pc = t.pc ∧ (t.suspend i).clause = t.clause ∧ (t.suspend i).fr = t.fr ∧ (t.suspend i).regionVA = t.regionVA
    ∧ (t.suspend i).region = t.region := by
  have k : ∀ {α : Type} (f : Team → α), (∀ t w, f (Team.decW t w) = f t) → (∀ t r x b g, f (Team.put t r x b g) = f t) →
      (∀ (t : Team) es, f { t with fifo := es } = f t) → f (if (t.defOn || !t.fifo.isEmpty) = true then t.discard else t) = f t := by
    intro α f h1 h2 h3
    split
    · exact Team.discard_keeps f h1 h2 h3 t
    · rfl
  simp only [Team.suspend, h, if_false]
  refine ⟨trivial, ?_, ?_, ?_, ?_, ?_, ?_⟩
  · rw [k (fun t => t.poisonHolder) (by simp) (by simp) (by simp)]
  · exact k (fun t => t.pc) (by simp) (by simp) (by simp)
  · exact k (fun t => t.clause) (by simp) (by simp) (by simp)
  · exact k (fun t => t.fr) (by simp) (by simp) (by simp)
  · exact k (fun t => t.regionVA) (by simp) (by simp) (by simp)
  · exact k (fun t => t.region) (by simp) (by simp) (by simp)

/-- A team with nothing captured keeps its registers when a trap suspends it. -/
theorem Team.suspend_units (t : Team) (i : TrapInfo) (h1 : t.defOn = false) (h2 : t.fifo = []) (r : UnitRef) :
    (t.suspend i).unit r = t.unit r ∧ (t.suspend i).pend r = t.pend r ∧ (t.suspend i).gen r = t.gen r := by
  simp only [Team.suspend, h1, h2, List.isEmpty_nil, Bool.not_true, Bool.or_false, Bool.false_eq_true, if_false]
  split
  · exact ⟨rfl, rfl, rfl⟩
  · cases r <;> exact ⟨rfl, rfl, rfl⟩

/-- Passes given up lower counters of their team, and change nothing else of it and no other team. -/
theorem State.team?_abandon (s : State) (u : Nat) :
    ∃ w : Team → Table (BitVec 6), ∀ v, (s.abandon u).team? v = if v = u then (s.team? u).map (fun t => { t with waits := w t }) else s.team? v := by
  have lowered : ∀ (os : List OpRec) (t : Team), os.foldl (fun t o => if o.done then t.decW o.w else t) t
      = { t with waits := (os.foldl (fun t o => if o.done then t.decW o.w else t) t).waits } := by
    intro os
    induction os with
    | nil => intro _; rfl
    | cons o os ih =>
      intro t
      rw [List.foldl_cons, ih]
      split
      · unfold Team.decW; split <;> rfl
      · rfl
  refine ⟨fun t => (((s.ops.filter (fun (o : OpRec) => o.team == u && o.kind.byPass && o.parts != 0)).map
    (fun (o : OpRec) => { o with parts := 0 })).foldl (fun (t : Team) (o : OpRec) => if o.done then t.decW o.w else t) t).waits, fun v => ?_⟩
  unfold State.abandon
  rw [State.team?_modTeam]
  by_cases hv : v = u
  · rw [if_pos hv, if_pos hv]
    congr 1
    funext t
    exact lowered _ t
  · rw [if_neg hv, if_neg hv]; rfl

/-- TAKING A TRAP. -/
theorem takeTrap_trapped {s : State} {t : Team} (h : s.team? s.cur = some t) (hs : t.status ≠ .ended) (hdr : VA) (tr : Trap) (byEntry : Bool) :
    ∃ t', s.Trapped (s.takeTrap s.cur hdr tr byEntry) t t' tr.cause hdr := by
  have cleared : ∀ u, (State.clearStorePoison { s with free := s.free + 3 } s.cur tr).team? u = s.team? u := by
    intro u
    unfold State.clearStorePoison
    split
    · split
      · rw [State.team?_modCrew]; rfl
      · rfl
    · rfl
  let i := tr.info s.free hdr byEntry
  obtain ⟨w, hw⟩ := State.team?_abandon ((State.clearStorePoison { s with free := s.free + 3 } s.cur tr).modTeam s.cur (fun t => t.suspend i)) s.cur
  have teams : ∀ v, (s.takeTrap s.cur hdr tr byEntry).team? v
      = if v = s.cur then some { t.suspend i with waits := w (t.suspend i) } else s.team? v := by
    intro v
    unfold State.takeTrap State.suspend
    rw [hw v, State.team?_modTeam, if_pos rfl, cleared, h]
    by_cases hv : v = s.cur
    · rw [if_pos hv, if_pos hv]; rfl
    · rw [if_neg hv, if_neg hv, State.team?_modTeam, if_neg hv, cleared]
  obtain ⟨status, trap, place⟩ := t.suspend_place i hs
  refine ⟨_, (teams s.cur).trans (if_pos rfl), status, ⟨_, trap, rfl, rfl, rfl⟩, place, fun h1 h2 r => ?_, fun u hu => (teams u).trans (if_neg hu), by simp⟩
  have := t.suspend_units i h1 h2 r
  cases r <;> exact this

end Sys2Proof.Machine
end

