-- ==== Sys2Proof/Tests/Slice0.lean ====
section
/-! SUPPORT. Tests. Words are written out from the fields of the spec's opcode table (spec/02 R30 to R34), or taken from its examples; values
come from the rule or worked program named; and for every statement with hypotheses a state and operands that meet them. -/

namespace Sys2Proof.Tests

open Sys2Proof Sys2Proof.Machine Sys2Proof.Claims

set_option Elab.async false

/-! ## Decoding -/

/-- The word decodes to the instruction, and the instruction encodes to the word. -/
noncomputable def reads (w lit : Word) (i : Instr) : Bool :=
  (match decode w lit with | .ok j => decide (j = i) | .error _ => false) && decide ((encode i).head? = some w)

theorem test_decode_op13 : [reads 0b010011_1_1011010_000000000000000000 0b10110100101101001011010010110111 (.lim 1 90 3031741623)].all id = true := by decide +kernel

theorem test_decode_header : [reads 0b10110111_1_110_1111_0_1_1_000010_011_0100 0 (.clauseHeader 1 6 15 1 1 2 3 4)].all id = true := by decide +kernel

theorem test_decode_op01 : [reads 0b000001_0000_1000010_0100011_0000100_1 0 (.add 66 35 4 1),
    reads 0b000001_0001_1000010_0100011_0000100_1 0 (.sub 66 35 4 1),
    reads 0b000001_0010_1001000_0101001_0001010_1 0 (.mullo 72 41 10 1),
    reads 0b000001_0011_1001000_0101001_0001010_1 0 (.mulhi 72 41 10 1),
    reads 0b000001_0100_1001000_0101001_0001010_1 0 (.mulhu 72 41 10 1),
    reads 0b000001_0101_1000010_0100011_0000100_1 0 (.and 66 35 4 1),
    reads 0b000001_0110_0111111_0100000_0000001_1 0 (.or 63 32 1 1),
    reads 0b000001_0111_1000010_0100011_0000100_1 0 (.xor 66 35 4 1),
    reads 0b000001_1000_1000101_0100110_0000111_1 0 (.andn 69 38 7 1),
    reads 0b000001_1001_1000010_0100011_0000100_1 0 (.shl 66 35 4 1),
    reads 0b000001_1010_1000010_0100011_0000100_1 0 (.shr 66 35 4 1),
    reads 0b000001_1011_1000010_0100011_0000100_1 0 (.sra 66 35 4 1),
    reads 0b000001_1100_1000010_0100011_0000100_1 0 (.min 66 35 4 1),
    reads 0b000001_1101_1000010_0100011_0000100_1 0 (.max 66 35 4 1),
    reads 0b000001_1110_1000101_0100110_0000111_1 0 (.minu 69 38 7 1),
    reads 0b000001_1111_1000101_0100110_0000111_1 0 (.maxu 69 38 7 1)].all id = true := by decide +kernel

theorem test_decode_op02 : [reads 0b000010_0000_1000101_0100110_0000111_1 0 (.adds 69 38 7 1),
    reads 0b000010_0001_1000101_0100110_0000111_1 0 (.subs 69 38 7 1),
    reads 0b000010_0010_1001000_0101001_0001010_1 0 (.addus 72 41 10 1),
    reads 0b000010_0011_1001000_0101001_0001010_1 0 (.subus 72 41 10 1),
    reads 0b000010_0100_1000101_0100110_0000111_1 0 (.rotl 69 38 7 1),
    reads 0b000010_0101_1000101_0100110_00000000 0 (.popc 69 38),
    reads 0b000010_0110_1000010_0100011_00000000 0 (.clz 66 35),
    reads 0b000010_0111_1000101_0100110_00000000 0 (.brev 69 38),
    reads 0b000010_1000_1000101_0100110_0000111_1 0 (.absd 69 38 7 1),
    reads 0b000010_1001_1000101_0100110_0000111_1 0 (.avgu 69 38 7 1)].all id = true := by decide +kernel

theorem test_decode_op03 : [reads 0b000011_1000101_0100110_101000000111 0 (.addi 69 38 2567)].all id = true := by decide +kernel

theorem test_decode_op04 : [reads 0b000100_1000101_0100110_101000000111 0 (.andi 69 38 2567)].all id = true := by decide +kernel

theorem test_decode_op05 : [reads 0b000101_1000010_0100011_101000000100 0 (.ori 66 35 2564)].all id = true := by decide +kernel

theorem test_decode_op06 : [reads 0b000110_1000101_0100110_101000000111 0 (.xori 69 38 2567)].all id = true := by decide +kernel

theorem test_decode_op07 : [reads 0b000111_1000101_0100110_0000000_00111 0 (.shli 69 38 7),
    reads 0b000111_1000101_0100110_0100000_00111 0 (.shri 69 38 7),
    reads 0b000111_1000101_0100110_1000000_00111 0 (.srai 69 38 7),
    reads 0b000111_1001000_0101001_1100000_01010 0 (.rotli 72 41 10)].all id = true := by decide +kernel

theorem test_decode_op08 : [reads 0b001000_0000_1000101_0100110_0000111_1 0 (.fadd 69 38 7 1),
    reads 0b001000_0001_1000101_0100110_0000111_1 0 (.fsub 69 38 7 1),
    reads 0b001000_0010_1000101_0100110_0000111_1 0 (.fmul 69 38 7 1),
    reads 0b001000_0011_1000101_0100110_0000111_1 0 (.fmin 69 38 7 1),
    reads 0b001000_0100_1000101_0100110_0000111_1 0 (.fmax 69 38 7 1),
    reads 0b001000_0101_1000010_0100011_0000100_1 0 (.fma 66 35 4 1),
    reads 0b001000_0110_1000101_0100110_0000111_1 0 (.fnma 69 38 7 1),
    reads 0b001000_0111_1010100_0110101_0010110_1 0 (.fcopysign 84 53 22 1)].all id = true := by decide +kernel

theorem test_decode_op09 : [reads 0b001001_0000_1001000_0101001_0001010_1 0 (.hadd2 72 41 10 1),
    reads 0b001001_0001_1001000_0101001_0001010_1 0 (.hmul2 72 41 10 1),
    reads 0b001001_0010_1001000_0101001_0001010_1 0 (.hfma2 72 41 10 1),
    reads 0b001001_0011_1001000_0101001_0001010_1 0 (.badd2 72 41 10 1),
    reads 0b001001_0100_1001000_0101001_0001010_1 0 (.bmul2 72 41 10 1),
    reads 0b001001_0101_1001000_0101001_0001010_1 0 (.bfma2 72 41 10 1),
    reads 0b001001_0110_1001000_0101001_0001010_1 0 (.hmin2 72 41 10 1),
    reads 0b001001_0111_1001000_0101001_0001010_1 0 (.hmax2 72 41 10 1)].all id = true := by decide +kernel

theorem test_decode_op0A : [reads 0b001010_0000_1000101_0100110_00000000 0 (.frcp 69 38),
    reads 0b001010_0001_1000101_0100110_00000000 0 (.frsq 69 38),
    reads 0b001010_0010_1001000_0101001_00000000 0 (.fsqrt 72 41),
    reads 0b001010_0011_1001000_0101001_00000000 0 (.fexp2 72 41),
    reads 0b001010_0100_1001000_0101001_00000000 0 (.flog2 72 41)].all id = true := by decide +kernel

theorem test_decode_op0B : [reads 0b001011_0000_1001000_0101001_00000000 0 (.cvtFI 72 41),
    reads 0b001011_0001_1001000_0101001_00000000 0 (.cvtFU 72 41),
    reads 0b001011_0010_1001000_0101001_00000000 0 (.cvtIF 72 41),
    reads 0b001011_0011_1001000_0101001_00000000 0 (.cvtUF 72 41),
    reads 0b001011_0100_1001011_0101100_0001101_1 0 (.cvtBfp 75 44 13 1),
    reads 0b001011_0101_1001011_0101100_0001101_0 0 (.cvtFBf 75 44 13),
    reads 0b001011_0110_1001000_0101001_0001010_1 0 (.cvtHp 72 41 10 1),
    reads 0b001011_0111_1001000_0101001_0001010_0 0 (.cvtFH 72 41 10),
    reads 0b001011_1000_1001011_0101100_0001101_1 0 (.cvtE4l 75 44 13 1),
    reads 0b001011_1001_1001011_0101100_0001101_1 0 (.cvtE4h 75 44 13 1),
    reads 0b001011_1010_1001011_0101100_0001101_0 0 (.cvtFE4 75 44 13),
    reads 0b001011_1011_1001011_0101100_0001101_1 0 (.cvtE5l 75 44 13 1),
    reads 0b001011_1100_1001011_0101100_0001101_1 0 (.cvtE5h 75 44 13 1),
    reads 0b001011_1101_1001011_0101100_0001101_0 0 (.cvtFE5 75 44 13)].all id = true := by decide +kernel

theorem test_decode_op0C : [reads 0b001100_0000_1001000_0101001_0001010_1 0 (.dp4S8 72 41 10 1),
    reads 0b001100_0001_1001000_0101001_0001010_1 0 (.dp4N8 72 41 10 1),
    reads 0b001100_0010_1001011_0101100_0001101_1 0 (.dp4Sn8 75 44 13 1),
    reads 0b001100_0011_1001000_0101001_0001010_1 0 (.dp8S4 72 41 10 1),
    reads 0b001100_0100_1001000_0101001_0001010_1 0 (.dp8N4 72 41 10 1),
    reads 0b001100_0101_1001011_0101100_0001101_1 0 (.dp8Sn4 75 44 13 1),
    reads 0b001100_0110_1001000_0101001_0001010_1 0 (.dp4E4 72 41 10 1),
    reads 0b001100_0111_1001000_0101001_0001010_1 0 (.dp4E5 72 41 10 1)].all id = true := by decide +kernel

theorem test_decode_op0D : [reads 0b001101_0000_1001000_0101001_0001010_1 0 (.scacc 72 41 10 1),
    reads 0b001101_0001_1001011_0101100_0001101_1 0 (.scacc2 75 44 13 1),
    reads 0b001101_0010_1001000_0101001_0001010_1 0 (.scmul 72 41 10 1)].all id = true := by decide +kernel

theorem test_decode_op0E : [reads 0b001110_0000_001_0101001_0001010_1_01_00 0 (.cmpEq 1 41 10 1 1),
    reads 0b001110_0001_001_0101001_0001010_1_01_00 0 (.cmpNe 1 41 10 1 1),
    reads 0b001110_0010_001_0101001_0001010_1_01_00 0 (.cmpLt 1 41 10 1 1),
    reads 0b001110_0011_001_0101001_0001010_1_01_00 0 (.cmpLe 1 41 10 1 1),
    reads 0b001110_0100_001_0101001_0001010_1_01_00 0 (.cmpGt 1 41 10 1 1),
    reads 0b001110_0101_001_0101001_0001010_1_01_00 0 (.cmpGe 1 41 10 1 1),
    reads 0b001110_0110_011_0101100_0001101_1_11_00 0 (.cmpLtu 3 44 13 1 3),
    reads 0b001110_0111_011_0101100_0001101_1_11_00 0 (.cmpLeu 3 44 13 1 3),
    reads 0b001110_1000_011_0101100_0001101_1_11_00 0 (.cmpGtu 3 44 13 1 3),
    reads 0b001110_1001_011_0101100_0001101_1_11_00 0 (.cmpGeu 3 44 13 1 3)].all id = true := by decide +kernel

theorem test_decode_op0F : [reads 0b001111_0000_011_0101100_0001101_1_11_00 0 (.fcmpEq 3 44 13 1 3),
    reads 0b001111_0001_011_0101100_0001101_1_11_00 0 (.fcmpNe 3 44 13 1 3),
    reads 0b001111_0010_011_0101100_0001101_1_11_00 0 (.fcmpLt 3 44 13 1 3),
    reads 0b001111_0011_011_0101100_0001101_1_11_00 0 (.fcmpLe 3 44 13 1 3),
    reads 0b001111_0100_011_0101100_0001101_1_11_00 0 (.fcmpGt 3 44 13 1 3),
    reads 0b001111_0101_011_0101100_0001101_1_11_00 0 (.fcmpGe 3 44 13 1 3),
    reads 0b001111_0110_011_0101100_0001101_1_11_00 0 (.fcmpUn 3 44 13 1 3),
    reads 0b001111_0111_110_0101111_0010000_1_10_00 0 (.fcmpOrd 6 47 16 1 2)].all id = true := by decide +kernel

theorem test_decode_op10 : [reads 0b010000_0000_101_110_111_0000000000000 0 (.pand 5 6 7),
    reads 0b010000_0001_010_011_100_0000000000000 0 (.por 2 3 4),
    reads 0b010000_0010_101_110_111_0000000000000 0 (.pxor 5 6 7),
    reads 0b010000_0011_001_001_010_0000000000000 0 (.pandn 1 1 2),
    reads 0b010000_0100_101_110_0000000000000000 0 (.pnot 5 6),
    reads 0b010000_0101_101_110_0000000000000000 0 (.pmov 5 6)].all id = true := by decide +kernel

theorem test_decode_op11 : [reads 0b010001_010_1_0000100_1100101_1000110_1 0 (.sel 2 1 4 101 70 1)].all id = true := by decide +kernel

theorem test_decode_op12 : [reads 0b010010_0000_1000010_0100011_00000000 0 (.mov 66 35),
    reads 0b010010_0001_1000101_0100110_00000000 0 (.movs 69 38),
    reads 0b010010_0010_1001000_0000000_0101001_1 0 (.movix 72 41),
    reads 0b010010_00110000000_1001011_0101100_1 0 (.movixW 75 44),
    reads 0b010010_0100_1000101_000000000000000 0 (.lane 69),
    reads 0b010010_0101_1001000_000000000000000 0 (.lword 72),
    reads 0b010010_0110_1001000_0101001_00000000 0 (.movsv 72 41)].all id = true := by decide +kernel

theorem test_decode_op14 : [reads 0b010100_0000_1000101_0100110_0000111_0 0 (.sadd 69 38 7),
    reads 0b010100_0001_1000101_0100110_0000111_0 0 (.ssub 69 38 7),
    reads 0b010100_0010_1000101_0100110_0000111_0 0 (.smul 69 38 7),
    reads 0b010100_0011_1000101_0100110_0000111_0 0 (.sand 69 38 7),
    reads 0b010100_0100_1000010_0100011_0000100_0 0 (.sor 66 35 4),
    reads 0b010100_0101_1000101_0100110_0000111_0 0 (.sxor 69 38 7),
    reads 0b010100_0110_1000101_0100110_0000111_0 0 (.sshl 69 38 7),
    reads 0b010100_0111_1000101_0100110_0000111_0 0 (.sshr 69 38 7),
    reads 0b010100_1000_1000101_0100110_0000111_0 0 (.ssra 69 38 7),
    reads 0b010100_1001_1000101_0100110_0000111_0 0 (.smin 69 38 7),
    reads 0b010100_1010_1000101_0100110_0000111_0 0 (.smax 69 38 7),
    reads 0b010100_1011_1001000_0101001_0001010_0 0 (.sminu 72 41 10),
    reads 0b010100_1100_1001000_0101001_0001010_0 0 (.smaxu 72 41 10)].all id = true := by decide +kernel

theorem test_decode_op15 : [reads 0b010101_1001000_0101001_101000001010 0 (.saddi 72 41 2570)].all id = true := by decide +kernel

theorem test_decode_op16 : [reads 0b010110_0000_1001011_0101100_0001101_0 0 (.scmpEq 75 44 13),
    reads 0b010110_0001_1001011_0101100_0001101_0 0 (.scmpNe 75 44 13),
    reads 0b010110_0010_1001011_0101100_0001101_0 0 (.scmpLt 75 44 13),
    reads 0b010110_0011_1001011_0101100_0001101_0 0 (.scmpLe 75 44 13),
    reads 0b010110_0100_1001011_0101100_0001101_0 0 (.scmpGt 75 44 13),
    reads 0b010110_0101_1001011_0101100_0001101_0 0 (.scmpGe 75 44 13),
    reads 0b010110_0110_1001110_0101111_0010000_0 0 (.scmpLtu 78 47 16),
    reads 0b010110_0111_1001110_0101111_0010000_0 0 (.scmpLeu 78 47 16),
    reads 0b010110_1000_1001110_0101111_0010000_0 0 (.scmpGtu 78 47 16),
    reads 0b010110_1001_1001110_0101111_0010000_0 0 (.scmpGeu 78 47 16)].all id = true := by decide +kernel

theorem test_decode_op17 : [reads 0b010111_0000_1001110_0101111_0010000_1 0 (.shflIdx 78 47 16 1),
    reads 0b010111_0001_1001011_0101100_0001101_1 0 (.shflUp 75 44 13 1),
    reads 0b010111_0010_1001011_0101100_0001101_1 0 (.shflDn 75 44 13 1),
    reads 0b010111_0011_1001110_0101111_0010000_1 0 (.shflXor 78 47 16 1),
    reads 0b010111_0100_1001110_0101111_00000000 0 (.voteAny 78 47),
    reads 0b010111_0101_1001110_0101111_00000000 0 (.voteAll 78 47),
    reads 0b010111_0110_1001011_0101100_00000000 0 (.ballot 75 44),
    reads 0b010111_0111_1001011_0101100_00000000 0 (.redadd 75 44),
    reads 0b010111_1000_1001011_0101100_00000000 0 (.redmax 75 44)].all id = true := by decide +kernel

theorem test_decode_op18 : [reads 0b011000_010_0100011_0000100_100101_110 0 (.ldG 2 35 4 37 6)].all id = true := by decide +kernel

theorem test_decode_op19 : [reads 0b011001_010_0100011_0000100_100101_110 0 (.stG 2 35 4 37 6)].all id = true := by decide +kernel

theorem test_decode_op37 : [reads 0b110111_101_0100110_0000111_101000_001 0 (.stGx 5 38 7 40 1)].all id = true := by decide +kernel

theorem test_decode_op1A : [reads 0b011010_010_0100011_0000100_101_110_000 0 (.ldA 2 35 4 5 6)].all id = true := by decide +kernel

theorem test_decode_op1B : [reads 0b011011_010_0100011_0000100_101_110_00_1 0 (.stL 2 35 4 5 6 1)].all id = true := by decide +kernel

theorem test_decode_op1C : [reads 0b011100_0000_1001000_0101001_010_011_01 0 (.atAdd 72 41 2 3 1),
    reads 0b011100_0001_1001000_0101001_010_011_01 0 (.atAnd 72 41 2 3 1),
    reads 0b011100_0010_1000101_0100110_111_001_01 0 (.atOr 69 38 7 1 1),
    reads 0b011100_0011_1001000_0101001_010_011_01 0 (.atXor 72 41 2 3 1),
    reads 0b011100_0100_1001000_0101001_010_011_01 0 (.atMin 72 41 2 3 1),
    reads 0b011100_0101_1001000_0101001_010_011_01 0 (.atMax 72 41 2 3 1),
    reads 0b011100_0110_1001011_0101100_101_110_11 0 (.atMinu 75 44 5 6 3),
    reads 0b011100_0111_1001011_0101100_101_110_11 0 (.atMaxu 75 44 5 6 3),
    reads 0b011100_1000_1001011_0101100_101_110_11 0 (.atXchg 75 44 5 6 3),
    reads 0b011100_1001_1001000_0101001_010_011_01 0 (.atCas 72 41 2 3 1),
    reads 0b011100_1010_1001011_0101100_101_110_11 0 (.atFadd 75 44 5 6 3)].all id = true := by decide +kernel

theorem test_decode_op1D : [reads 0b011101_0000_1001011_0101100_101_110_11 0 (.vatF32 75 44 5 6 3),
    reads 0b011101_0001_1001110_0101111_001_001_10 0 (.vatBf16 78 47 1 1 2)].all id = true := by decide +kernel

theorem test_decode_op1E : [reads 0b011110_010_0100011_0000100_100101_110 0 (.ldS 2 35 4 37 6)].all id = true := by decide +kernel

theorem test_decode_op1F : [reads 0b011111_010_0100011_0000100_100101_110 0 (.stS 2 35 4 37 6)].all id = true := by decide +kernel

theorem test_decode_op20 : [reads 0b100000_101_0100110_0000111_0_01000_001 0 (.ldSq 5 38 7 8 1),
    reads 0b100000_101_0100110_0000111_1_01000_001 0 (.stSq 5 38 7 8 1)].all id = true := by decide +kernel

theorem test_decode_op21 : [reads 0b100001_0000_1001000_0101001_00000000 0 (.tlook 72 41),
    reads 0b100001_0001_1000101_0100110_0000111_1 0 (.tins 69 38 7 1),
    reads 0b100001_0010_1000101_0100110_00000000 0 (.tinv 69 38),
    reads 0b100001_00110000000000000000000000 0 .tflush].all id = true := by decide +kernel

theorem test_decode_op22 : [reads 0b100010_10_1_0100011_0000100_100101_110 0 (.ldU 1 35 4 37 6)].all id = true := by decide +kernel

theorem test_decode_op23 : [reads 0b100011_10_1_0100011_0000100_100101_110 0 (.stU 1 35 4 37 6)].all id = true := by decide +kernel

theorem test_decode_op24 : [reads 0b100100_0000_1000101_0100110_00000_111 0 (.annc 69 38 7),
    reads 0b100100_0001_1000101_0100110_00000_111 0 (.wdrw 69 38 7),
    reads 0b100100_0010_1001000_0101001_0000_1_011 0 (.rlook 72 41 1 3),
    reads 0b100100_0011_1001000_0101001_00000_010 0 (.hmove 72 41 2),
    reads 0b100100_0100_1001000_0000000000_01_010 0 (.rstat 72 1 2)].all id = true := by decide +kernel

theorem test_decode_op26 : [reads 0b100110_0000_1000_0101001_1_011_0000000 0 (.qpush 8 41 1 3),
    reads 0b100110_0001_0101_0100110_1_111_0000000 0 (.qpop 5 38 7),
    reads 0b100110_0010_0101_0100110_11110000_111 0 (.qtry 5 38 7),
    reads 0b100110_0011_1011_00000000111_0101100 0 (.qfence 11 44),
    reads 0b100110_0100_1000_0101001_11110000000 0 (.qstat 8 41)].all id = true := by decide +kernel

theorem test_decode_op27 : [reads 0b100111_0000_1011_0101100_1_101_000000_1 0 (.cpyG2s 11 44 5 1),
    reads 0b100111_0001_1011_0101100_1_101_000000_1 0 (.cpyS2g 11 44 5 1),
    reads 0b100111_0010_1011_0101100_1_101_1101110 0 (.cpyG2g 11 44 5 110),
    reads 0b100111_0011_1011_0101100_1_101_110_111_1 0 (.cpyPln 11 44 5 6 7 1),
    reads 0b100111_0100_1110_0101111_1_001_000000_1 0 (.cpyS2sq 14 47 1 1)].all id = true := by decide +kernel

theorem test_decode_op28 : [reads 0b101000_0000_1000010_000000000000000 0 (.cyc 66),
    reads 0b101000_00010000000_1001011_00000000 0 (.sleepc 75)].all id = true := by decide +kernel

theorem test_decode_op29 : [reads 0b101001_00_000010_0100011_0000100_0101 0 (.mma 2 35 4 5),
    reads 0b101001_01_000101_0100110_0000111_1000 0 (.mmaZ 5 38 7 8),
    reads 0b101001_10_000101_0100110_0000000_0111 0 (.mmaB 5 38 7),
    reads 0b101001_11_001000_0101001_0000000_1010 0 (.mmaBz 8 41 10)].all id = true := by decide +kernel

theorem test_decode_op2A : [reads 0b101010_0000_1000101_100110_0111_00000 0 (.amov 69 38 7),
    reads 0b101010_0001_1000010_100011_0100_00000 0 (.awr 66 35 4),
    reads 0b101010_00100000000_000101_000000000 0 (.aclr 5),
    reads 0b101010_0011_1000101_100110_000_1_00000 0 (.aovf 69 38 1)].all id = true := by decide +kernel

theorem test_decode_op2B : [reads 0b101011_0000_1000101_0100110_111_001_00 0 (.plnw 69 38 7 1),
    reads 0b101011_0001_1000101_0100110_111_001_00 0 (.plnr 69 38 7 1),
    reads 0b101011_0001_1001000_0101001_010_011_10 0 (.plnrS 72 41 2 3),
    reads 0b101011_0010_1000101_0100110_00000000 0 (.tset 69 38),
    reads 0b101011_0011_1000101_0100110_00000000 0 (.tget 69 38)].all id = true := by decide +kernel

theorem test_decode_op2C : [reads 0b101100_00000000000_1001011_01100_101 0 (.barArv 75 12 5),
    reads 0b101100_000100000000000000_01110_111 0 (.barWait 14 7),
    reads 0b101100_00100000000_1001110_01111_001 0 (.barSync 78 15 1),
    reads 0b101100_0011_1001000_0101001_01010_011 0 (.barTo 72 41 10 3)].all id = true := by decide +kernel

theorem test_decode_op2D : [reads 0b101101_0000_1001011_0101100_00000000 0 (.pbInit 75 44),
    reads 0b101101_00010000000_1001000_00000000 0 (.pbArv 72),
    reads 0b101101_0010_1001000_0101001_00000000 0 (.pbExp 72 41),
    reads 0b101101_00110000000_1001011_0000000_1 0 (.pbWait 75 1),
    reads 0b101101_01000000000_1001011_0000_100_1 0 (.pbTest 75 4 1)].all id = true := by decide +kernel

theorem test_decode_op2E : [reads 0b101110_00000000000000000000000_001 0 (.fenceAcq 1),
    reads 0b101110_00010000000000000000000_001 0 (.fenceRel 1),
    reads 0b101110_00100000000000000000000_110 0 (.fenceAr 6),
    reads 0b101110_00110000000000000000000_011 0 (.fenceQ 3)].all id = true := by decide +kernel

theorem test_decode_op30 : [reads 0b110000_0000_111_1_110111101000000001 0 (.br 7 1 227841),
    reads 0b110000_00010000_100110101101000010 0 (.bra 158530),
    reads 0b110000_0010_101_1_110111101000000111 0 (.call 5 1 227847),
    reads 0b110000_0011_101_1_000000000000000000 0 (.exit 5 1)].all id = true := by decide +kernel

theorem test_decode_op31 : [reads 0b110001_0000_111_0100000_101000000001 0 (.bz 7 32 2561),
    reads 0b110001_0001_010_0100011_101000000100 0 (.bnz 2 35 2564),
    reads 0b110001_0010_001_0101001_101000001010 0 (.bpend 1 41 2570),
    reads 0b110001_0011_011_0101100_101000001101 0 (.bpendN 3 44 2573),
    reads 0b110001_0100001_1000101_001010100110 0 (.jmps 69 678),
    reads 0b110001_0101001_1001000_001010101001 0 (.calls 72 681),
    reads 0b110001_011000_1_0100011_101000000100 0 (.ret 1 35 2564)].all id = true := by decide +kernel

theorem test_decode_op32 : [reads 0b110010_1_0100110_110111101000000111 0 (.loop 1 38 227847)].all id = true := by decide +kernel

theorem test_decode_op33 : [reads 0b110011_000000000000000000_01001011 0 (.frmode 75),
    reads 0b110011_00010000000000000000000000 0 .fryld,
    reads 0b110011_00100000000_1000101_00000000 0 (.join 69),
    reads 0b110011_0011_1000101_0000000_10100110 0 (.mact 69 166)].all id = true := by decide +kernel

theorem test_decode_op34 : [reads 0b110100_00000000000000000000000000 0 .deferOn,
    reads 0b110100_00010000000000000000000000 0 .deferOff,
    reads 0b110100_001000000000000000_01011010 0 (.deferStrict 90),
    reads 0b110100_00110000000000000000000000 0 .rdrain,
    reads 0b110100_0100_1001011_0000000_10101100 0 (.rfstat 75 172)].all id = true := by decide +kernel

theorem test_decode_op35 : [reads 0b110101_000000000000000000_01_100110 0 (.acqx 1 38),
    reads 0b110101_000100000000000000_01_100110 0 (.relx 1 38),
    reads 0b110101_0010_1000101_0000000_10_000000 0 (.allq 69 2)].all id = true := by decide +kernel

theorem test_decode_op36 : [reads 0b110110_0000_1000101_0100110_00111_001 0 (.ptst 69 38 7 1),
    reads 0b110110_00010000000_1000101_00000_110 0 (.pchk 69 6),
    reads 0b110110_00100000000_1001000_10101001 0 (.pchks 72 169)].all id = true := by decide +kernel

theorem test_decode_op38 : [reads 0b111000_0000_1000101_0100110_00000000 0 (.post 69 38),
    reads 0b111000_00010000000_1000101_00000000 0 (.done 69),
    reads 0b111000_0010_1000101_000000000000000 0 (.ctok 69),
    reads 0b111000_0011_1000010_000000000000000 0 (.tid 66)].all id = true := by decide +kernel

theorem test_decode_op39 : [reads 0b111001_000000000000000000_01000101 0 (.trap 69),
    reads 0b111001_00010000000_1001110_00000000 0 (.tresume 78),
    reads 0b111001_00100000000_1001000_00000000 0 (.tkill 72),
    reads 0b111001_00110000000_1010100_00000000 0 (.trelaunch 84),
    reads 0b111001_0100_1001110_0101111_0000000_1 0 (.trecord 78 47 1)].all id = true := by decide +kernel

theorem test_decode_op3A : [reads 0b111010_0000_1001000_0000000_10101001 0 (.rdsys 72 169),
    reads 0b111010_00010000000_1001000_10101001 0 (.wrsys 72 169),
    reads 0b111010_00100000000_1000010_00_100011 0 (.smp 66 35)].all id = true := by decide +kernel

theorem test_decode_op3B : [reads 0b111011_0000_1011_0101100_1_110_0000000 0 (.netPut 11 44 1 6),
    reads 0b111011_0001_1011_0101100_1_110_0000000 0 (.netGet 11 44 1 6),
    reads 0b111011_0010_1000_0101001_1_011_000000_1 0 (.netAt 8 41 1 3 1),
    reads 0b111011_0011_0001_00000000_010_0000000 0 (.netFlush 1 2)].all id = true := by decide +kernel

/-! Words that R35 refuses. -/

theorem test_decode_refuses :
    [(0b000000_00000000000000000000000000, DecodeError.unassignedOpcode), (0b000010_1111_0000001_0000010_0000011_0, .unassignedFn),
      (0b010000_0100_001_010_011_0000000000000, .reservedField), (0b111000_0010_0000010_0000001_00000000, .reservedField)].all
      (fun x => match decode x.1 0 with | .ok _ => false | .error e => decide (e = x.2)) = true := by decide +kernel

/-! ## Well-formed instructions (R29 step 6): a term for each check that fails it, and one that passes -/

theorem test_wf_size : Instr.check (.ldG 7 4 2 0 7) = some .sizeCode ∧ Instr.wf (.ldG 6 4 2 0 7) = true := by decide
theorem test_wf_wait : Instr.check (.annc 4 8 6) = some .waitCode ∧ Instr.wf (.annc 4 8 5) = true := by decide
theorem test_wf_scope : Instr.check (.fenceAcq 6) = some .scopeCode ∧ Instr.wf (.fenceAcq 5) = true := by decide
theorem test_wf_order : Instr.check (.atAdd 4 2 1 7 0) = some .orderCode ∧ Instr.wf (.atAdd 4 2 1 7 2) = true := by decide
theorem test_wf_vatOrder : Instr.check (.vatF32 4 2 0 7 1) = some .orderCode ∧ Instr.wf (.vatF32 4 2 0 7 2) = true := by decide
theorem test_wf_table : Instr.check (.rstat 4 3 7) = some .tableCode ∧ Instr.wf (.rstat 4 2 7) = true := by decide
theorem test_wf_planes : Instr.check (.plnw 2 4 3 2) = some .planes ∧ Instr.wf (.plnw 2 4 3 3) = true := by decide
theorem test_wf_element : Instr.check (.cvtFH 2 4 2) = some .element ∧ Instr.wf (.cvtFH 2 4 1) = true := by decide
theorem test_wf_element4 : Instr.check (.cvtFE4 2 4 4) = some .element ∧ Instr.wf (.cvtFE4 2 4 3) = true := by decide
theorem test_wf_tile : Instr.check (.tset 16 4) = some .tile ∧ Instr.wf (.tset 15 4) = true := by decide
theorem test_wf_barrier : Instr.check (.barArv 4 16 2) = some .barrier ∧ Instr.wf (.barArv 4 15 2) = true ∧ Instr.check (.barArv 4 8 4) = some .barrier := by decide
theorem test_wf_class : Instr.check (.bz 3 4 0) = some .classCode ∧ Instr.wf (.bz 2 4 0) = true ∧ Instr.check (.bpend 5 4 0) = some .classCode := by decide
theorem test_wf_immediate : Instr.check (.frmode 2) = some .immediate ∧ Instr.wf (.frmode 1) = true ∧ Instr.check (.acqx 0 0) = some .immediate := by decide
theorem test_wf_pool : Instr.check (.acqx 3 1) = some .pool ∧ Instr.wf (.acqx 2 1) = true := by decide
theorem test_wf_ptstWord : Instr.check (.ptst 4 2 1 1) = some .ptstWord ∧ Instr.wf (.ptst 4 2 1 0) = true := by decide
theorem test_wf_span : Instr.check (.pchks 120 9) = some .span ∧ Instr.wf (.pchks 120 8) = true ∧ Instr.check (.pchks 4 0) = some .span := by decide


/-! ## A small package: one crew of one team of one mask word, in world 0 on core 0 of C0, with the clause at VA 0x4000 open -/

def clause : Clause := { hdrVA := 0x4000, hdr := 0xB7010002, words := [0, 0, 0], guard := [0x80000001], issued := true }
def team : Team := { placedTeam 1 0x4000 (some clause) with vN := 128, aN := 64, rN := 32 }
def crew : Crew := placedCrew 2
def boxed (t : Team) (k : Crew) : State := { State.reset with cur := 2, teams := [(2, some t)], crews := [(1, some k)], nextId := 3 }
def pack : State := boxed team crew

/-- Registers set before a test: vector register r in lane l, uniform register r; another guard. -/
def withV (t : Team) (r l : Nat) (x : Val) : Team := { t with v := tset {} t.v (vkey r l) { val := x } }
def withU (t : Team) (r : Nat) (x : Val) : Team := { t with u := tset {} t.u r { val := x } }
def guarded (g : Word) (t : Team) : Team := { t with clause := some { clause with guard := [g] } }

/-- A boxed team is ready when its own fields say so. -/
abbrev Standing (t : Team) (c : Clause) : Prop :=
  t.clause = some c ∧ (c.issuedTo, c.opId, c.flags) = (0, 0, 0) ∧ (t.crew, t.status, t.hold, t.late) = (1, .running, .none, none)
  ∧ (c.issued, t.stop.arm, t.stop.mode) = (true, false, false) ∧ (c.deferring = false ∨ t.fifo = [])
theorem ready {t : Team} {k : Crew} {c : Clause} (h : Standing t c) : (boxed t k).Ready t k c := by
  obtain ⟨hc, hw, hs, hf, hq⟩ := h
  simp only [Prod.mk.injEq] at hw hs hf
  exact { turn := by simp [State.current, boxed, State.team?, State.crew?, tget, hs], opened := hc, issued := hf.1, running := hs.2.1, unheld := hs.2.2.1
          onTime := hs.2.2.2, unarmed := hf.2.1, unstopped := hf.2.2, uncaptured := hq, whole := hw }

/-- Only the turn is read of the package; and a ready team stands at its word's first pass. -/
theorem moved {s s' : State} {t : Team} {k : Crew} {c : Clause} (h : s.Ready t k c) (e : s'.current = s.current) : s'.Ready t k c :=
  { h with turn := e.trans h.turn }
theorem atPass {s : State} {t : Team} {k : Crew} {c : Clause} (h : s.Ready t k c) (m : Mask.none (Claims.left t c) = false) : AtPass s t k c :=
  { h with some := m, flags := h.whole.2.2 }
theorem pack_ready : pack.Ready team crew clause := ready (by decide)

/-! ## Lane-class words: a state and operands that meet the hypotheses, at the last registers of the allotment -/

theorem witness_IntegerResults :
    pack.Ready team crew clause ∧ Mask.none (team.acting clause) = false ∧ team.holds [127, 127] ∧ ((1 : BitVec 1) = 0 → team.holds [127])
    ∧ team.landed (laneUnits 127 (team.acting clause) ++ secondUnits 127 1 (team.acting clause))
    ∧ team.landed (laneUnits 127 (team.acting clause) ++ secondUnits 127 0 (team.acting clause))
    ∧ pack.writable team (laneUnits 127 (team.acting clause)) ∧ pack.writable team (laneUnits 0 (team.acting clause)) :=
  ⟨pack_ready, by decide +kernel⟩

theorem witness_ComparesAndUniformWords :
    pack.Ready team crew clause ∧ (7 : BitVec 3) ≠ 0 ∧ pack.writable team (wordUnits 7 (team.acting clause)) ∧ team.landed [.uni 127]
    ∧ pack.writable team [.uni 127] := ⟨pack_ready, by decide +kernel⟩

theorem witness_PredicateRule :
    pack.Ready team crew clause ∧ opcodeOf 0b010000_0011_001_010_011_0000000000000 = 0x10 ∧ (fld 0b010000_0011_001_010_011_0000000000000 0 13 : BitVec 13) = 0
    ∧ fnOf 0b010000_0101_001_010_000_0000000000000 = 5 ∧ 6 ≤ fnOf 0b010000_0110_001_010_000_0000000000000
    ∧ team.landed (wordUnits 0 (team.acting clause)) ∧ pack.writable team (wordUnits 1 (team.acting clause)) := ⟨pack_ready, by decide +kernel⟩

/-- s4 names the last vector register. -/
def indexer : Team := withU team 4 (.word 127)
theorem witness_MovesAndSelects :
    (boxed indexer crew).Ready indexer crew clause ∧ Mask.none (indexer.acting clause) = false ∧ indexer.landed [.uni 4] ∧ indexer.uniform 4 = .word 127
    ∧ (127 : Word).toNat < indexer.vN ∧ indexer.landed (laneUnits ((127 : Word).setWidth 7) (indexer.acting clause))
    ∧ (boxed indexer crew).writable indexer (laneUnits ((127 : Word).setWidth 7) (indexer.acting clause))
    ∧ (Mask.lanes (indexer.acting clause)).head? = some 0 ∧ (∀ l ∈ Mask.lanes (indexer.acting clause), indexer.flagBad 7 l = false)
    ∧ indexer.landed (wordUnits 7 (indexer.acting clause) ++ laneUnits 1 (indexer.acting clause) ++ secondUnits 2 0 (indexer.acting clause))
    ∧ (31 : BitVec 8).toNat < 32 := ⟨ready (by decide), by decide +kernel⟩

theorem witness_ExchangeResults :
    pack.Ready team crew clause ∧ team.landed (secondUnits 127 1 (team.acting clause))
    ∧ (∀ w ∈ Mask.words (team.acting clause), ∀ j < 32, team.pend (.vec 127 (32 * w + j)) = false) ∧ team.landed (laneUnits 127 (team.acting clause)) :=
  ⟨pack_ready, by decide +kernel⟩

theorem witness_FloatResults :
    pack.Ready team crew clause ∧ team.landed (secondUnits 127 0 (team.acting clause)) ∧ (1 : BitVec 7).toNat ≤ 1 ∧ (3 : BitVec 7).toNat ≤ 3 :=
  ⟨pack_ready, by decide +kernel⟩

/-- 1.0 (R91), a zero, infinities, a quiet and a signalling NaN: the operands that the clauses of FloatNumbers name. -/
theorem witness_FloatNumbers :
    (∃ g m e, F 0x3F800000 = .fin g m e) ∧ (∃ g e, F 0x80000000 = .fin g 0 e) ∧ (F 0x7F800000 = .inf false) ∧ (F 0xFF800000 = .inf true)
    ∧ (F 0x7FC00000).isNan = true ∧ (F 0x7F800001).isSnan = true ∧ (F 0x3F800000).isNan = false ∧ (-2 ^ 31 : Int) ≤ 0 ∧ (0 : Int) ≤ 2 ^ 31 - 1 :=
  ⟨⟨_, _, _, rfl⟩, ⟨_, _, rfl⟩, by decide +kernel⟩

theorem witness_LaneWordsLeaveMemory : ∃ s', exec (.add 1 2 3 0) pack = .next s' := ⟨_, rfl⟩

/-- One register past an allotment of 126; a poisoned selector and condition in lane 0; a size code that no access has. -/
def team126 : Team := { team with vN := 126 }
def teamBadPred : Team := { team with p := [(pkey 3 0, { bits := 1, poison := 1 })] }
theorem witness_WordsThatTrap :
    (boxed team126 crew).Ready team126 crew clause ∧ (boxed teamBadPred crew).Ready teamBadPred crew clause
    ∧ ¬ team126.holds [125, 126] ∧ ¬ team126.holds [126] ∧ team126.holds [125, 125]
    ∧ (∃ l ∈ Mask.lanes (teamBadPred.acting clause), teamBadPred.flagBad 3 l = true)
    ∧ teamBadPred.landed (wordUnits 3 (teamBadPred.acting clause) ++ laneUnits 2 (teamBadPred.acting clause) ++ secondUnits 4 0 (teamBadPred.acting clause))
    ∧ pack.capNet = true ∧ Instr.wf (.ldG 7 4 2 0 7) = false := ⟨ready (by decide), ready (by decide), by decide +kernel⟩

/-- No lane of word 0 passes the guard; v2 of lane 0 pending; a pending predicate and uniform register. -/
def teamNone : Team := guarded 0 team
def clauseNone : Clause := { clause with guard := [0] }
def teamWait : Team :=
  { team with v := [(vkey 2 0, { pend := true })], u := [(5, { pend := true })], p := [(pkey 6 0, { pend := true })] }
theorem witness_WordsPassOrWait :
    (boxed teamNone crew).Ready teamNone crew clauseNone ∧ (boxed teamWait crew).Ready teamWait crew clause
    ∧ Mask.none (teamNone.acting clauseNone) = true ∧ Mask.none (teamWait.acting clause) = false ∧ clause.deferring = false ∧ teamWait.holds [1, 2]
    ∧ ¬ teamWait.landed (laneUnits 2 (teamWait.acting clause) ++ secondUnits 3 1 (teamWait.acting clause)) ∧ ¬ teamWait.landed (laneUnits 2 (teamWait.acting clause))
    ∧ ¬ teamWait.landed (wordUnits 6 (teamWait.acting clause) ++ wordUnits 1 (teamWait.acting clause)) ∧ ¬ teamWait.landed [.uni 5, .uni 6]
    ∧ ¬ teamWait.landed [.uni 5] := ⟨ready (by decide), ready (by decide), by decide +kernel⟩

/-! ## Clauses and control flow: a package whose VAs 0 to 1 GiB map onto P0, with a header at 0x4000 (`State.placeHeader`) -/

def pages : State := State.reset.placeHeader 0xB7010001
def paged (t : Team) (k : Crew) : State := { boxed t k with mem := pages.mem, worlds := pages.worlds }
theorem pagedReady {t : Team} {k : Crew} {c : Clause} (h : Standing t c) : (paged t k).Ready t k c := moved (ready h) rfl

def atHeader : Team := { team with clause := none, pc := 0x4000, p := [(pkey 0 0, { bits := 1 })] }
theorem witness_HeaderOpensClause :
    (paged atHeader crew).current = some (atHeader, crew) ∧ clauseBad 0xB7010001 [0] = false
    ∧ ((paged atHeader crew).fetchWords crew (atHeader.pc + 4) 1).2.toOption = some [0]
    ∧ (∀ i < 6, (0 : BitVec 6).getLsbD i = true → atHeader.counter i = 0) ∧ (∀ j ∈ Mask.words atHeader.active, atHeader.pend (.pred 0 j) = false)
    ∧ (∀ l ∈ atHeader.activeLanes, atHeader.flagBad 0 l = false) ∧ atHeader.defOn = false := by decide +kernel

/-- A target that passes its checks (the header at 0x4000), one that fails them (a word of zeros), and branches with lanes taken or none. -/
theorem witness_Branches :
    (paged team crew).Ready team crew clause ∧ (boxed teamBadPred crew).Ready teamBadPred crew clause
    ∧ ((paged team crew).checkTarget crew 0x4000).2 = none ∧ (((paged team crew).checkTarget crew 0x4008).2).isSome = true
    ∧ Claims.onFrom clause (0x3FFFE : BitVec 18) = 0x3FF8 ∧ Mask.none (team.acting clause) = false
    ∧ team.landed (wordUnits 7 (team.acting clause)) ∧ (∀ l ∈ Mask.lanes (team.acting clause), team.flagBad 7 l = false)
    ∧ (paged team crew).writable team (laneUnits 2 (team.acting clause) ++ laneUnits 3 (team.acting clause))
    ∧ team.holds [127] ∧ team.landed (laneUnits 127 team.active) ∧ (∀ l ∈ Mask.lanes team.active, (team.lane 127 l).isPoison = false)
    ∧ team.landed [.uni 127] ∧ team.uniform 127 = .word 0 ∧ team.landed (wordUnits 7 team.active)
    ∧ (∃ l ∈ Mask.lanes (teamBadPred.acting clause), teamBadPred.flagBad 3 l = true) ∧ teamBadPred.landed (wordUnits 3 (teamBadPred.acting clause)) :=
  ⟨pagedReady (by decide), ready (by decide), by decide +kernel⟩

/-- The indirect transfers: s4:s5 and v4:v5 hold 0x4000 in every lane; the last register of each bound of `bpend`. -/
def jumper : Team := { withU team 4 (.word 0x4000) with v := (List.range 32).map (fun l => (vkey 4 l, { val := .word 0x4000 })) }
theorem witness_Branches_indirect :
    (paged jumper crew).Ready jumper crew clause ∧ jumper.uniform 4 = .word 0x4000 ∧ jumper.uniform 5 = .word 0 ∧ jumper.landed [.uni 4, .uni 5]
    ∧ ((paged jumper crew).checkTargets crew [0x4000]).2 = none ∧ jumper.landed (laneUnits 4 jumper.active)
    ∧ (∀ l ∈ Mask.lanes jumper.active, jumper.pend (.vec 5 l) = false)
    ∧ (∀ l ∈ Mask.lanes jumper.active, (jumper.lane 4 l).isPoison = false ∧ (jumper.lane 5 l).isPoison = false)
    ∧ ((paged jumper crew).checkTargets crew (distinctVA (jumper.activeLanes.map (fun l =>
        ((jumper.lane 5 l).bits ++ (jumper.lane 4 l).bits : VA) + 4 * (0 : BitVec 12).signExtend 64)))).2 = none
    ∧ (paged jumper crew).capNet = true ∧ (63 : BitVec 7).toNat < jumper.aN := ⟨pagedReady (by decide), by decide +kernel⟩

/-- Loops: a count of 0 and of 1 in a uniform register, an end word at the word being passed and not, and the last pass and another. -/
def looping (n : Word) (stop : VA) : Team := { team with fr := { l0 := { count := n, start := 0x4000, stop := stop, active := true } } }
theorem witness_Loops :
    (paged (withU team 4 (.word 1)) crew).Ready (withU team 4 (.word 1)) crew clause ∧ (withU team 4 (.word 1)).uniform 4 = .word 1
    ∧ (withU team 4 (.word 1)).landed [.uni 4] ∧ team.uniform 4 = .word 0 ∧ team.landed [.uni 4]
    ∧ ((paged team crew).checkTarget crew ((paged team crew).afterEnd crew 65536 clause.fallThrough 0x3FFC)).2 = none
    ∧ clause.idx + 1 < clause.words.length ∧ (looping 1 0x4004).fr.l0.stop = clause.hdrVA + BitVec.ofNat 64 (4 * (1 + clause.idx))
    ∧ (looping 2 0x4004).fr.l0.count ≠ 1 ∧ (looping 1 0x4008).fr.l0.stop ≠ clause.hdrVA + BitVec.ofNat 64 (4 * (1 + clause.idx)) :=
  ⟨pagedReady (by decide), by decide +kernel⟩

/-- Frontier groups: lane 1 waits above the header and lane 2 below it; a join at the clause's last word, the first arrival and a later one that
completes; exits that leave an active lane, end the team, and end the crew. -/
def clauseLast : Clause := { clause with words := [0] }
def split3 : Team := { team with fr := { lanes := [(1, .waiting 0x8000), (2, .waiting 0x2000)] } }
def first : Team := { withU team 4 (.word 5) with clause := some clauseLast }
def later : Team :=
  { first with
    fr := { lanes := (List.range 30).map (fun l => (l + 2, .exited)) ++ [(1, .held clauseLast.fallThrough)], joinVA := some (clauseLast.wordVA 0) } }
theorem witness_GroupsJoinAndExit :
    (boxed split3 crew).Ready split3 crew clause ∧ (boxed first crew).Ready first crew clauseLast ∧ (boxed later crew).Ready later crew clauseLast
    ∧ (clause.hdrVA.toNat < (0x8000 : VA).toNat ∧ ∀ x ∈ split3.waitPCs, clause.hdrVA.toNat < x.toNat → (0x8000 : VA).toNat ≤ x.toNat)
    ∧ (0x8000 : VA) ∈ split3.waitPCs ∧ Mask.none (split3.acting clause) = false
    ∧ team.waitPCs = [] ∧ clauseLast.idx + 1 = clauseLast.words.length ∧ first.fr.joinVA = none
    ∧ (∀ l ∈ first.lanes, first.fr.lane l = .active) ∧ first.landed [.uni 4] ∧ first.uniform 4 = .word 5
    ∧ later.fr.joinVA = some (clauseLast.wordVA clauseLast.idx)
    ∧ (∀ l ∈ later.lanes, later.fr.lane l = .active ∨ later.fr.lane l = .exited ∨ later.fr.lane l = .held clauseLast.fallThrough) := by
  have w : split3.waitPCs = [0x8000, 0x2000] := by decide +kernel
  exact ⟨ready (by decide), ready (by decide), ready (by decide), by rw [w]; simp [clause], by rw [w]; simp, by decide +kernel⟩

/-- No lane is held but at the fall-through. -/
theorem witness_GroupsJoinAndExit_held : ∀ l pc, later.fr.lane l = .held pc → pc = clauseLast.fallThrough := by
  have e : ∀ xs : List (Nat × LaneSt), xs.all (fun x => match x.2 with | .held pc => pc == clauseLast.fallThrough | _ => true) = true →
      ∀ l pc, tget .active xs l = .held pc → pc = clauseLast.fallThrough := by
    intro xs h l pc
    induction xs with
    | nil => simp [tget]
    | cons x xs ih =>
      simp only [List.all_cons, Bool.and_eq_true] at h
      simp only [tget]
      split
      · intro hx; simpa [hx] using h.1
      · exact ih h.2
  exact e later.fr.lanes (by decide +kernel)

def lone : Team := { withV team 1 0 (.word 1) with fr := { lanes := (List.range 31).map (fun l => (l + 1, .exited)) }, p := [(pkey 1 0, { bits := 1 })] }
def twoTeams : Crew := { crew with teams := [2, 3] }
def duo (t : Team) : State := { boxed t twoTeams with teams := [(2, some t), (3, some team)] }
theorem witness_GroupsJoinAndExit_exit :
    (boxed lone crew).Ready lone crew clause ∧ Mask.none (lone.acting clause) = false ∧ lone.landed (wordUnits 1 (lone.acting clause))
    ∧ (∀ l ∈ Mask.lanes (lone.acting clause), lone.flagBad 1 l = false)
    ∧ (Mask.lanes (lone.acting clause)).filter (fun l => lone.flag 1 l != false) = [0] ∧ (∀ l ∈ lone.lanes, l ∈ [0] ∨ lone.fr.lane l = .exited)
    ∧ (∀ u ∈ crew.teams, u ≠ (boxed lone crew).cur → ((boxed lone crew).team? u).map Team.status = some .ended) ∧ (boxed lone crew).cur ∈ crew.teams
    ∧ crew.storePoison = false ∧ (∃ l ∈ team.activeLanes, l ∉ (Mask.lanes (team.acting clause)).filter (fun l => team.flag 1 l != false))
    ∧ (∃ u ∈ twoTeams.teams, u ≠ 2 ∧ ((duo lone).team? u).map Team.status = some .running) := ⟨ready (by decide), by decide +kernel⟩

/-! ## Global memory and the scratchpad -/

/-- Offsets in v2, at the last word of a page and at addresses that fail each check in turn: a poisoned base, a misaligned one. -/
def accessor : Team := { team with v := [(vkey 2 0, { val := .word 0x3FFFFFFC })] }
def badBase : Team := { accessor with u := [(126, { val := .poison })] }
def acc (t : Team) : List Acc := Claims.loads t (t.acting clause) 2 0
def ask (n : Nat) : Ask := { rights := { rd := true }, size := n, homeOnly := false, touch := false }
def placed (t : Team) : List Placed := ((paged t crew).resolve crew (ask 4) (acc t)).2.toOption.getD []

theorem witness_GlobalAccessesGoOut :
    (paged accessor crew).Ready accessor crew clause ∧ Mask.none (accessor.acting clause) = false ∧ Claims.baseLanded accessor
    ∧ Claims.groupOk 4 (szRegs 2) accessor.vN ∧ Claims.groupOk 124 (szRegs 4) accessor.vN ∧ accessor.holds [2] ∧ accessor.landed (laneUnits 2 (accessor.acting clause))
    ∧ accessor.landed (Claims.group 4 (szRegs 2) (accessor.acting clause)) ∧ (paged accessor crew).acquiring 2 = false
    ∧ (((paged accessor crew).resolve crew (ask 4) (acc accessor)).2.toOption.map List.length) = some 2 ∧ ((placed accessor).map (fun x => x.acc.lane)).Nodup
    ∧ ((placed accessor).all (fun x => !(paged accessor crew).granuleBusy 2 x.ann.holder true (x.pa / 16)
        && !(paged accessor crew).egressFull 0 x.ann.holder (((paged accessor crew).pickPath 0 x.ann.holder true).getD 0) false)) = true
    ∧ (paged accessor crew).heldBack 2 = false ∧ accessor.counter 5 ≠ 63 ∧ (paged accessor crew).writable accessor [.vec 4 0, .vec 4 31]
    ∧ accessor.landed [.uni 4, .uni 5] ∧ Claims.groupOk 4 2 128 := ⟨pagedReady (by decide), by decide +kernel⟩

theorem witness_AccessesAreChecked :
    ((acc badBase).find? (fun a => a.va.isNone)).map Acc.lane = some 0 ∧ (∀ a ∈ acc accessor, a.va.isSome)
    ∧ ((acc accessor).find? (fun a => (a.va.getD 0).toNat % (ask 16).size != 0)).map Acc.va = some (some 0x3FFFFFFC) ∧ (ask 4).uniform = false
    ∧ ((paged accessor crew).choose 0 0 0 true 0x3FFFFFFC).isSome = true := by decide +kernel

/-- v2 of lane 0 holds the last word of a scratchpad of 1 KiB; slot 3 is the last of a tag table of 4. -/
def padCrew : Crew := { crew with tent := 4 }
def padTeam : Team := { team with v := [(vkey 2 0, { val := .word 1020 }), (vkey 3 0, { val := .word 3 }), (vkey 3 31, { val := .word 3 })] }
def padX (l : Nat) : Word := if l = 0 then 1020 else 0
theorem witness_ScratchpadAndTags :
    AtPass (boxed padTeam padCrew) padTeam padCrew clause ∧ (boxed padTeam padCrew).Ready padTeam padCrew clause ∧ clause.opId = 0
    ∧ Mask.none (padTeam.acting clause) = false ∧ (boxed padTeam padCrew).acquiring 2 = false ∧ (boxed padTeam padCrew).windowBusy 2 = false
    ∧ padTeam.counter 5 ≠ 63 ∧ Claims.groupOk 127 (szRegs 2) padTeam.vN ∧ padTeam.holds [2] ∧ padTeam.landed (laneUnits 2 (Claims.pass padTeam clause))
    ∧ padTeam.landed (Claims.group 127 1 (Claims.pass padTeam clause)) ∧ (boxed padTeam padCrew).writable padTeam (Claims.group 127 1 (Claims.pass padTeam clause))
    ∧ (∀ l ∈ Mask.lanes (Claims.left padTeam clause), padTeam.lane 2 l = .word (padX l) ∧ Claims.spotOk padCrew (Claims.spot (padX l) 0) 4)
    ∧ (boxed padTeam padCrew).matrixBusy 2 = false ∧ (3 : BitVec 7).toNat + 1 < padTeam.vN
    ∧ (∀ l ∈ Mask.lanes (Claims.left padTeam clause), padTeam.second 3 0 l = .word 3 ∧ (3 : Word).toNat < padCrew.tent)
    ∧ (∀ l ∈ Mask.lanes (Claims.left padTeam clause), padTeam.lane 4 l = .word 0 ∧ padTeam.lane 5 l = .word 0) ∧ padTeam.holds [127, 4] :=
  ⟨atPass (ready (by decide)) (by decide), ready (by decide), by decide +kernel⟩

/-- A word of two passes whose second is to issue: its record is the team's, with nothing of its own left. -/
def halfway : Clause := { clause with guard := [1, 1], issuedTo := 1, opId := 8 }
def halved : Team := { padTeam with width := 2, clause := some halfway, waits := [(5, 1)] }
def halfRec : OpRec := { id := 8, team := 2, kind := .scratch, w := 5, hdrVA := 0x4000, parts := 1 }
theorem witness_ScratchpadAndTags_later :
    AtPass { boxed halved padCrew with ops := [halfRec] } halved padCrew halfway
    ∧ ({ boxed halved padCrew with ops := [halfRec] } : State).op? 8 = some halfRec ∧ (halfRec.outs, halfRec.gathers, halfRec.owed) = ([], [], [])
    ∧ halved.counter 5 ≠ 0 ∧ Claims.later halved halfway = 0 ∧ Claims.later halved { halfway with issuedTo := 0 } = 1 := by
  refine ⟨⟨⟨?_, rfl, rfl, rfl, rfl, rfl, rfl, rfl, .inl rfl⟩, by decide +kernel, rfl⟩, by decide +kernel⟩
  simp [State.current, boxed, State.team?, State.crew?, tget, halved, padTeam, team, placedTeam]

/-- A window request to the team's own core at the last word; a read, a write and one to a core that no crew of the ticket holds. -/
def window (core : Nat) (wr : Bool) : WinReq :=
  { id := 9, op := 8, team := 2, hdrVA := 0x4000, core := core, ticket := 1, write := wr, size := 4, signed := false
    lanes := [{ lane := 0, pa := 1020, data := if wr then [some 1, some 2, some 3, some 4] else [] }], dest := if wr then [] else [(0, { unit := .vec 4 0, gen := 1 })] }
def windowed (core : Nat) (wr : Bool) : State := { boxed padTeam padCrew with wins := [window core wr] }
theorem witness_WindowRequests :
    (∀ l ∈ Mask.lanes (padTeam.acting clause), Claims.spot (padX l) 0 < 2 ^ 21
      ∧ ((boxed padTeam padCrew).ticketCrew 0 (padCrew.core / 4 * 4 + Claims.spot (padX l) 0 / 2 ^ 19 % 4) padCrew.ticket) = some (1, padCrew)
      ∧ Claims.spotOk padCrew (Claims.spot (padX l) 0 % 2 ^ 19) 4)
    ∧ (windowed 0 true).wins.find? (fun x => x.id == 9) = some (window 0 true) ∧ (windowed 0 true).wins.takeWhile (fun x => x.id != 9) = []
    ∧ ((windowed 0 true).windowTarget (window 0 true)).toOption.map Prod.fst = some 1 ∧ (windowed 0 true).crew? 1 = some padCrew
    ∧ ((windowed 0 false).windowTarget (window 0 false)).toOption.map Prod.snd = some padCrew ∧ (window 0 false).dest ≠ []
    ∧ ((windowed 1 true).windowTarget (window 1 true)).toOption.isNone = true ∧ (windowed 1 true).team? 2 = some padTeam ∧ padTeam.late = none
    ∧ (windowed 1 true).ticketCrew 0 1 1 = none := by decide +kernel

/-! ## Holders, replies and landings: a packet of core 0's team to P0 at the last word of its first line, of each kind -/

def stamp : Stamp := { base := 0, len := 0, holder := 8, world := 0, gen := 0 }
def packet (kind : ReqKind) (data : List PByte) : Packet :=
  { id := 9, op := 8, team := 2, crew := 1, hdrVA := 0x4000, src := 0, world := 0, holder := 8, path := 0, ordered := true, kind := kind, size := 4
    lanes := [{ lane := 0, pa := 0x7C, data := data }], stamp := stamp }
def sent (p : Packet) : State := { paged padTeam padCrew with pkts := [p] }
def bytes4 : List PByte := [some 1, some 2, some 3, some 4]

/-- What `Claims.unhindered` asks, in a form that can be evaluated. -/
abbrev Clear (s : State) (p : Packet) : Prop :=
  s.holderSilent p.holder = false ∧ (8 ≤ p.holder ∧ p.holder < 16 → (s.pier (p.holder - 8)).fenced = false)
  ∧ p.lanes.filterMap (s.laneTransfer p) = [] ∧ s.refusal p = none ∧ s.lockedAt p = false ∧ s.reached p = true
  ∧ (p.carried.isSome → p.src ∉ (s.holder p.holder).marks) ∧ s.badLines p = [] ∧ (p.kind.writes = true → s.membersOf p = [])
  ∧ s.fencedWay p = false ∧ (s.die p.src).silent = false ∧ ∀ e ∈ (s.holder p.holder).owners, e.2.2 ≤ 45
theorem unhindered_of {s : State} {p : Packet} (c : Clear s p) (f : (∀ r ∈ p.lanes, s.chanFailed p.holder (s.laneOff p r) = false
      ∧ s.laneOff p r + p.laneSize + r.data.length < 2 ^ 44 ∧ s.laneOff p r % 128 + p.laneSize ≤ 128 ∧ r.data.length ≤ p.laneSize
      ∧ ∀ i < p.laneSize + r.data.length, s.chanFailed p.holder (s.laneOff p r + i) = false))
    (n : match p.kind with | .atomic fn => fn ≤ 10 ∧ p.size = 4 | .vatomic _ => ∀ r ∈ p.lanes, r.data.length = 4 | _ => True) : Claims.unhindered s p := by
  obtain ⟨notSilent, notFenced, still, served, unlocked, arrived, unmarked, tagged, alone, wayOpen, up, table⟩ := c
  exact ⟨notSilent, notFenced, still, served, unlocked, arrived, unmarked, tagged, alone, wayOpen, up, table, fun r h => ⟨(f r h).1, (f r h).2.1, (f r h).2.2.1, fun _ => (f r h).2.2.2.1, (f r h).2.2.2.2⟩,
    fun fn e => by simpa only [e] using n, fun b e => by simpa only [e] using n⟩

theorem witness_HoldersAnswer_load : Claims.unhindered (sent (packet .load [])) (packet .load []) :=
  unhindered_of (by decide +kernel) (by decide +kernel) trivial
theorem witness_HoldersAnswer_store : Claims.unhindered (sent (packet .store bytes4)) (packet .store bytes4) :=
  unhindered_of (by decide +kernel) (by decide +kernel) trivial
theorem witness_HoldersAnswer_atomic : Claims.unhindered (sent (packet (.atomic 10) bytes4)) (packet (.atomic 10) bytes4) :=
  unhindered_of (by decide +kernel) (by decide +kernel) (by simp [packet])
theorem witness_HoldersAnswer_vatomic : Claims.unhindered (sent (packet (.vatomic true) bytes4)) (packet (.vatomic true) bytes4) :=
  unhindered_of (by decide +kernel) (by decide +kernel) (by simp [packet, bytes4])
theorem witness_HoldersAnswer :
    [packet .load [], packet .store bytes4, packet (.atomic 10) bytes4, packet (.vatomic true) bytes4].all (fun p =>
      (sent p).pkts.find? (fun x => x.id == 9) == some p && (sent p).blocked p == false && p.unsent == false && p.held == false && (sent p).inFront p == false
      && (sent p).replays p.src p.holder p.path false == false && (sent p).stopped p.src p.holder p.path 0 false == false) = true := by decide +kernel

/-- What the holder answers instead: it is silent; the range has moved on; no entry of its map covers the address; another world owns it; a write
while the range is frozen. -/
def load4 : Packet := packet .load []
def transfer (n : Nat) : Transfer :=
  { cmd := 7, base := 0, len := 16, world := 0, old := 8, oldBase := 0, new := 9, newBase := 0, gen := 0, noPoison := false, step := n }
def moving (n : Nat) : State := { sent load4 with transfers := [transfer n] }
def unmapped : Packet := { load4 with lanes := [{ lane := 0, pa := 2 ^ 36, data := [] }] }
def elsewhere : State := { sent load4 with holders := tset holderDefault (sent load4).holders 8 { (sent load4).holder 8 with owners := [(3, 0, 45)] } }
def silentPier : State := { sent load4 with piers := [(0, { silent := true })] }
theorem witness_HoldersAnswer_otherwise :
    silentPier.holderSilent 8 = true ∧ (sent load4).holderSilent 8 = false ∧ (sent load4).fencedWay load4 = false
    ∧ load4.lanes.filterMap ((moving 5).laneTransfer load4) = [transfer 5] ∧ load4.lanes.filterMap ((moving 3).laneTransfer load4) = [transfer 3]
    ∧ (sent unmapped).mapAt 8 0 (2 ^ 36) = none ∧ ((sent load4).mapAt 8 0 0x7C).map Prod.snd = some 0x7C ∧ 0x7C < capacity 8
    ∧ (sent unmapped).refusal unmapped = some 0x0A ∧ elsewhere.ownerOf 8 0x7C = 3 ∧ (packet .store bytes4).kind.writes = true := by decide +kernel

/-- A release held back: nothing before it, and a store of its team still out. A void notice whose position is the next one. -/
def release : Packet := { packet .release bytes4 with unsent := true, ofFlag := true, after := [8] }
def storeOut : OpRec := { id := 8, team := 2, kind := .store, w := 0, hdrVA := 0x4000, outs := [{ pkt := 1, holder := 9, ordered := true, write := true, grans := [0] }] }
def noticed : State := { pack with notices := [(9, .void 8 0 3 1)] }
theorem witness_HoldersAnswer_positions :
    (sent release).pkts.find? (fun x => x.id == 9) = some release ∧ release.unsent = true ∧ (sent release).maySend release = true
    ∧ ({ sent release with ops := [storeOut] } : State).maySend release = false ∧ release.kind.writes = true
    ∧ noticed.notices.find? (fun n => n.1 == 9) = some (9, .void 8 0 3 1) ∧ (noticed.holder 8).seen.Nodup := by decide +kernel

/-- A load of v4 whose last line comes back, with its bytes, poisoned or refused; a landing; a NAK that is the 63rd and the 64th. -/
def waitingLoad : OpRec :=
  { id := 8, team := 2, kind := .load, w := 0, hdrVA := 0x4000, outs := [{ pkt := 9, holder := 8, ordered := true, write := false, grans := [7] }]
    gathers := [{ pkts := [9], got := [], size := 4, signed := false, dest := [(0, { unit := .vec 4 0, gen := 1 })] }] }
def reply (p : Packet) (a : Answer) : Reply := { id := 10, pkt := p, ans := a }
def replied (p : Packet) (a : Answer) : State := { paged team crew with ops := [waitingLoad], replies := [reply p a] }
theorem witness_RepliesLand :
    (∀ a ∈ [Answer.done [(0, bytes4)], .poisoned, .refused 0x0A], (replied load4 a).replies.find? (fun x => x.id == 10) = some (reply load4 a)
      ∧ (replied load4 a).replyFirst (reply load4 a) = true ∧ a.isNak = false)
    ∧ (replied load4 .poisoned).team? 2 = some team ∧ team.late = none ∧ (replied load4 .poisoned).op? 8 = some waitingLoad
    ∧ (∀ g ∈ waitingLoad.gathers, g.pkts = [load4.id] ∧ g.dest ≠ []) ∧ (replied load4 .poisoned).crew? load4.crew = some crew
    ∧ (∀ a ∈ [Answer.nakFrozen, .nakReorder, .nakMoved (transfer 5).newHome], (replied load4 a).replyFirst (reply load4 a) = true ∧ a.isNak = true)
    ∧ 63 ≤ ({ load4 with naks := 63 } : Packet).naks ∧ ({ load4 with naks := 62 } : Packet).naks < 63
    ∧ (∀ ordered ∈ [true, false], ((paged team crew).pickPath 0 8 ordered).isSome = true)
    ∧ (∀ e ∈ ((paged team crew).node 0).table, e.sameKey (transfer 5).newHome = false) := by decide +kernel

def lander (g : BitVec 4) : Team := { team with v := [(vkey 4 0, { pend := true, gen := g })] }
def landing : Landing :=
  { id := 9, op := 8, team := 2, writes := [({ unit := .vec 4 0, gen := 1 }, .w (.word 7)), ({ unit := .uni 5, gen := 0 }, .w .poison)], holder := some 8 }
theorem witness_RepliesLand_landings :
    (∀ g : BitVec 4, ({ boxed (lander g) crew with lands := [landing] } : State).team? 2 = some (lander g))
    ∧ [landing].find? (fun x => x.id == 9) = some landing ∧ (landing.writes.map (fun w => w.1.unit)).Nodup
    ∧ landing.writes.map (fun w => w.1.unit) = [.vec 4 0, .uni 5] ∧ landing.writes.map Prod.snd = [.w (.word 7), .w .poison] :=
  ⟨fun _ => rfl, by decide +kernel⟩

/-- A mirrored write: the prepare, the last acknowledgement and one before it, the commit. -/
def prep : MirrorMsg := { id := 20, write := 21, mirror := 9, home := 8, cells := [(0x7C, some 1)], accs := [(0x7C, 1, 0)] }
def mwrite (ws : List Nat) : MirrorWrite := { id := 21, pkt := packet .store bytes4, home := 8, members := [9, 10], waiting := ws, bad := false }
def mirrored (ws : List Nat) : State :=
  { pack with prepares := [prep], prepAcks := [prep], commits := [prep], mirrors := [mwrite ws]
              prepared := [{ write := 21, mirror := 9, home := 8, cells := [(0x7C, some 1)], accs := [(0x7C, 1, 0)] }] }
theorem witness_MirrorWritesInTwoSteps :
    (mirrored [9]).prepares.find? (fun x => x.id == 20) = some prep ∧ (mirrored [9]).holderSilent 9 = false
    ∧ (mirrored [9]).forwardStopped 8 9 1 = false ∧ (mirrored [9]).forwardStopped 9 8 2 = false ∧ (mirrored [9]).holderSilent 10 = false
    ∧ (mirrored [9]).prepAcks.find? (fun x => x.id == 20) = some prep ∧ (mirrored [9]).mirrors.find? (fun x => x.id == prep.write) = some (mwrite [9])
    ∧ (mwrite [9, 10]).waiting.filter (· != 9) ≠ [] ∧ (mwrite [9]).waiting.filter (· != 9) = [] ∧ (mwrite [9]).id = prep.write
    ∧ ((mirrored [9]).die 0).silent = false ∧ (mirrored [9]).commits.find? (fun c => c.id == 20) = some prep
    ∧ ((mirrored [9]).prepared.find? (fun y => y.write == 21 && y.mirror == 9)).isSome = true := by decide +kernel

/-! ## The array, accumulators and plane rows -/

/-- One plane each, K 384, B rows 12 bytes apart: the last of the 64 rows ends 804 bytes on. And a batched descriptor, for lanes 0 and 1. -/
def desc : BitVec 64 := 0x0000_000C_0000_0011
def descB : BitVec 64 := 0x000C_000C_0000_0411
def tiled (bat : Bool) : Team :=
  { guarded (if bat then 3 else 0x80000001) team with t := [(15, { bits := if bat then descB else desc })] }
def tiledClause (bat : Bool) : Clause := { clause with guard := [if bat then 3 else 0x80000001] }
def rowEnds (d : BitVec 64) (planes x : Nat) : Bool := decide (x % 4 = 0 ∧ x + planes * tileK d / 8 ≤ 1024 * crew.spk)
theorem tiled_stands : ∀ b, Standing (tiled b) (tiledClause b) := by decide
theorem witness_MatrixWords :
    (∀ b : Bool, AtPass (boxed (tiled b) crew) (tiled b) crew (tiledClause b))
    ∧ ∀ b : Bool, Mask.words (Claims.pass (tiled b) (tiledClause b)) = [0] ∧ (tiled b).landed [.tile 15] ∧ (tiled b).unit (.tile 15) = .t (if b then descB else desc) false
      ∧ tilePA desc ≠ 0 ∧ tilePB desc ≠ 0 ∧ tilePA descB ≠ 0 ∧ tilePB descB ≠ 0 ∧ tileBAT desc = false ∧ tileBAT descB = true ∧ tileBad desc = false
      ∧ (boxed (tiled b) crew).acquiring 2 = false ∧ ((boxed (tiled b) crew).core crew.coreKey).array.length < 8 ∧ (60 : BitVec 6).toNat % 4 = 0
      ∧ (∀ v ∈ Mask.words (Claims.left (tiled b) (tiledClause b)), (60 : BitVec 6).toNat + 4 * v + 3 < (tiled b).aN) ∧ (tiled b).holds [127]
      ∧ (tiled b).landed (laneUnits 127 (Claims.pass (tiled b) (tiledClause b))) ∧ (∀ l < 32, (tiled b).lane 127 l = .word 0 ∧ (tiled b).pend (.vec 127 l) = false)
      ∧ (∀ r ∈ [UnitRef.acc 60, .acc 61, .acc 62, .acc 63], (tiled b).gen r + 1 ∉ (boxed (tiled b) crew).carried 2 (tiled b) r)
      ∧ (∀ y < 64, rowEnds desc 1 (y * tileBSTR desc) = true) ∧ (∀ y < 16, rowEnds descB 1 (y * tileBSTR descB) = true)
      ∧ (∀ y < 8, rowEnds descB 1 (y * tileASTR descB) = true)
      ∧ (b = true → Mask.has (Claims.left (tiled b) (tiledClause b)) 0 = true ∧ Mask.has (Claims.left (tiled b) (tiledClause b)) 1 = true) :=
  ⟨fun b => atPass (ready (tiled_stands b)) (by cases b <;> decide), by decide +kernel⟩

/-- A pass of quarter 0 at the head of core 0's array, and a batched one, before their column rows are in the array and with them there. -/
def pass (bat : Bool) : MmaPass :=
  { id := 9, op := 8, team := 2, acc := 0, zero := false, batched := bat, desc := if bat then descB else desc, acting := 3, rowsA := [(0, 0), (1, 0)]
    bases := [(0, 0)], gens := [{ unit := .acc 0, gen := 1 }] }
def columns (bat : Bool) : ArrayCols :=
  { op := 8, bases := [0], desc := if bat then descB else desc, rows := List.replicate (if bat then 16 else 64) (List.replicate 48 (some 1)) }
def arrayed (bat : Bool) (cols : Option ArrayCols) : State := { pack with cores := [(0, { array := [pass bat], cols := cols })] }
theorem witness_MatrixWords_pass :
    (∀ b : Bool, ∀ o ∈ (pass b).gens, ∃ n, o.unit = .acc n)
    ∧ ∀ b : Bool, ∀ cols ∈ [none, some (columns b)], ((arrayed b cols).core 0).array = [pass b] ∧ (arrayed b cols).fetchHeld (pass b) 0 = false
      ∧ (arrayed b cols).team? 2 = some team ∧ (arrayed b cols).crew? team.crew = some crew ∧ ((arrayed b cols).core 0).cols = cols
      ∧ (columns b).serves (pass b) = true ∧ ((pass b).bases.map Prod.fst).Nodup ∧ ((pass b).rowsA.map Prod.fst).Nodup
      ∧ (∀ row ∈ (columns b).rows, row.length = tilePB (pass b).desc * tileK (pass b).desc / 8)
      ∧ (columns b).rows.length = (if b then 16 * (pass b).now.length else 64) :=
  ⟨fun b o h => ⟨0, by cases b <;> simp_all [pass]⟩, by decide +kernel⟩

/-- The last accumulator and tile register, a descriptor pair; a row of one plane at element 352 of 384, the last that holds a mask word. -/
def descPair : Team := withU (withU team 4 (.word 0x11)) 5 (.word 0xC)
def rowWord : Word := 0x0B00_03C4 + 0x000C
def rowTeam : Team := withU team 4 (.word rowWord)
theorem witness_AccumulatorsTilesAndPlanes :
    (boxed descPair crew).Ready descPair crew clause ∧ AtPass (boxed rowTeam crew) rowTeam crew clause ∧ rowTeam.uniform 4 = .word rowWord
    ∧ (∀ w ∈ Mask.words (descPair.acting clause), (63 : BitVec 6).toNat + 4 * w < descPair.aN) ∧ descPair.holds [127]
    ∧ descPair.landed [.acc 63] ∧ descPair.landed (laneUnits 127 (descPair.acting clause)) ∧ (boxed descPair crew).writable descPair [.acc 63, .uni 126, .uni 127, .tile 15]
    ∧ (boxed descPair crew).writable descPair (laneUnits 127 (descPair.acting clause)) ∧ (15 : BitVec 7).toNat < 16 ∧ descPair.landed [.uni 4, .uni 5]
    ∧ descPair.uniform 4 = .word 0x11 ∧ descPair.uniform 5 = .word 0xC ∧ tileBad ((0xC : Word) ++ (0x11 : Word)) = false ∧ descPair.unit (.tile 15) = .t 0 false
    ∧ rowWord.toNat < 2 ^ 28 ∧ rowWord.toNat % 2 ^ 19 % 4 = 0 ∧ rowWord.toNat / 2 ^ 19 % 2 ^ 9 = 352
    ∧ (∀ v ∈ Mask.words (Claims.left rowTeam clause), 352 + 32 * v + 31 < Claims.K 1)
    ∧ rowWord.toNat % 2 ^ 19 + 1 * Claims.K 1 / 8 = 1024 * crew.spk ∧ (boxed rowTeam crew).matrixBusy 2 = false ∧ (boxed rowTeam crew).windowBusy 2 = false :=
  ⟨ready (by decide), atPass (ready (by decide)) (by decide), by decide +kernel⟩

/-! ## Queues, copies, sleepers and phase words -/

/-- A result in q13's FIFO, none in q0's; connection 2^20 - 1; a fence on q0 to q7. -/
def popper : Team := { team with results := [(13, [5, 6])], v := [(vkey 2 0, { val := .word 0xFFFFF }), (vkey 2 31, { val := .word 0xFFFFF })] }
def clauseDef : Clause := { clause with deferring := true }
def popDef : Team := { popper with clause := some clauseDef, defOn := true }
theorem witness_QueueWords :
    (boxed popper crew).Ready popper crew clause ∧ (boxed popDef crew).Ready popDef crew clauseDef
    ∧ (boxed popper crew).acquiring 2 = false ∧ popper.counter 5 ≠ 63 ∧ popper.landed (secondUnits 2 0 (popper.acting clause))
    ∧ (∀ l ∈ Mask.lanes (popper.acting clause), popper.second 2 0 l = .word 0xFFFFF) ∧ (0xFFFFF : Word).toNat < 2 ^ 20
    ∧ (boxed popper crew).resultsFull 2 8 (min 16 ((2 + 0) / 2)) = false ∧ ((boxed popper crew).die crew.die).q8 = [] ∧ (boxed popper crew).capNet = true
    ∧ (boxed popper crew).popWaiting 2 13 = none ∧ (tget [] popper.results 13 : List (BitVec 64)) = [5, 6] ∧ (boxed popper crew).writable popper (Claims.pairUnits 126)
    ∧ (boxed popper crew).writable popper (wordUnits 7 (popper.acting clause)) ∧ (tget [] popDef.results 0 : List (BitVec 64)) = []
    ∧ (∀ j ∈ List.range 8, j < 8 ∧ (boxed popper crew).freeSlots crew j ≠ 0) := ⟨ready (by decide), ready (by decide), by decide +kernel⟩

/-- A copy block that each of the five copies accepts, and one of no bytes, in s4 to s7; a copy at the head of q0, not started and started, of each
kind, and a fence. -/
def block (n : Nat) : List Word := [0x100, 0, BitVec.ofNat 32 n, BitVec.ofNat 32 n]
def copier (n : Nat) : Team :=
  { team with u := [(4, { val := .word 0x100 }), (6, { val := .word (BitVec.ofNat 32 n) }), (7, { val := .word (BitVec.ofNat 32 n) })] }
def copy (fn : Nat) (cred : BitVec 7) (started : Bool) : CopyCmd :=
  { id := 9, op := 8, team := 2, crew := 1, hdrVA := 0x4000, engine := 0, queue := 0, fn := fn, block := [0x100, 0, 0, 1], imm := cred, bytes := 16, accepted := 0, promise := 97
    revised := 97, started := started, fence := 9, fenceQs := [0] }
def copying (c : CopyCmd) : State := { paged (copier 0) crew with copies := [c] }
theorem witness_Copies :
    (boxed (copier 16) crew).Ready (copier 16) crew clause ∧ (boxed (copier 0) crew).Ready (copier 0) crew clause
    ∧ (copier 16).landed ((List.range 4).map (fun j => UnitRef.uni (4 + j)))
    ∧ (∀ n ∈ [0, 16], (List.range 4).map (fun j => (copier n).uniform (4 + j)) = (block n).map Val.word)
    ∧ (boxed (copier 16) crew).resultsFull 2 7 1 = false ∧ (boxed (copier 16) crew).freeSlots crew 7 ≠ 0 ∧ (boxed (copier 16) crew).popWaiting 2 7 = none
    ∧ ((Claims.copies 7 4 5 0 1 0 0 (block 16)).filter (fun x => copyBad crew x.2.1 (block 16) x.2.2.1 == none && x.2.2.2 != 0)).map (fun x => x.2.1) = [0, 1, 2, 3, 4]
    ∧ ((Claims.copies 7 4 5 1 0 0 0 (block 0)).filter (fun x => copyBad crew x.2.1 (block 0) x.2.2.1 == none && x.2.2.2 == 0)).map (fun x => x.2.1) = [0, 1, 2, 4]
    ∧ copyCred 2 0 = false ∧ (crew.phaseAt (copyBar 0 (block 0))).isSome = true := ⟨ready (by decide), ready (by decide), by decide +kernel⟩

theorem witness_Copies_engine :
    (∀ fn ∈ [0, 4], (((copying (copy fn 0 false)).copyQueue 0 0).head? = some (copy fn 0 false)) ∧ (copying (copy fn 0 false)).allDone (copy fn 0 false).earlier = true)
    ∧ (copying (copy 0 0 false)).crew? 1 = some crew ∧ (∀ x ∈ (copy 0 0 false).places, (copying (copy 0 0 false)).copyWaits crew x = false)
    ∧ (((copying (copy 0 0 false)).copyRead crew (blkVA (block 0) 0) 16).toOption.map Prod.snd).isSome = true
    ∧ ((copying (copy 4 0 false)).copyTarget (copy 4 0 false) crew).toOption = some 1 ∧ copyCred 0 1 = true ∧ copyCred 0 0 = false
    ∧ (crew.phaseAt (copyBar 0 (block 16))).isSome = true
    ∧ (∀ j ∈ (copy 5 0 false).fenceQs, ((copying (copy 5 0 false)).copyQueue 0 j).head?.map (fun h => (h.fn, h.fence)) = some (5, 9)) := by decide +kernel

/-- A sleeper at its DCC, with a promise missed by then and without; a phase word of each parity, run down, and overrun. -/
def sleeper : Team := { withU team 4 (.word 100) with hold := .sleep 100, stall := 24 }
def slept (dcc : BitVec 64) (c : List CopyCmd) : State := { boxed sleeper crew with copies := c, dies := [(0, { dcc := dcc })] }
def phased (w : PhaseWord) : Crew := crew.putPhase 1016 w
def ph (b o : Bool) : PhaseWord := { ph := b, exp := 2047, rem := 0, ovr := o, byt := 2 ^ 40 - 1 }
def waking : Team := withU (withU team 4 (.word 100)) 6 (.word 1016)
theorem witness_SleepersAndPhases :
    (boxed waking crew).Ready waking crew clause ∧ waking.uniform 4 = .word 100 ∧ waking.uniform 5 = .word 0 ∧ waking.landed (Claims.pairUnits 4)
    ∧ pack.writable team (Claims.pairUnits 126) ∧ (slept 100 []).team? 2 = some sleeper ∧ sleeper.hold = .sleep 100 ∧ sleeper.status = .running
    ∧ ((slept 356 []).die 0).dcc = 356
    ∧ (∃ x ∈ (slept 356 [copy 0 0 false]).copies, x.team = 2 ∧ x.fn ≠ 5 ∧ x.promise.toNat ≤ (100 : BitVec 64).toNat)
    ∧ (100 : BitVec 64).toNat + 256 ≤ ((slept 356 []).die crew.die).dcc.toNat
    ∧ (∀ b o : Bool, (phased (ph b o)).phaseAt 1016 = some (ph b o)) ∧ Claims.spotOk (phased (ph true false)) 1016 8
    ∧ waking.uniform 6 = .word 1016 ∧ waking.landed [.uni 6] ∧ (boxed waking crew).accessesReady 2 = true ∧ (boxed waking crew).windowBusy 2 = false
    ∧ pack.writable team (wordUnits 7 (team.acting clause)) := ⟨ready (by decide), by decide +kernel⟩

/-- A fence at its first try and past its store-poison test. -/
def waitedClause : Clause := { clause with waited := 2 }
def waitedTeam : Team := { team with clause := some waitedClause }
def poisonCrew : Crew := { crew with storePoison := true }
theorem witness_FencesWaitAndPass :
    pack.Ready team crew clause ∧ (boxed waitedTeam poisonCrew).Ready waitedTeam poisonCrew waitedClause ∧ crew.storePoison = false ∧ pack.relMet 2 5 = true
    ∧ pack.acqMet 2 5 = true ∧ pack.commandsLeft 2 = false ∧ (boxed waitedTeam poisonCrew).relMet 2 5 = true ∧ 2 ≤ waitedClause.waited ∧ clause.waited = 0 :=
  ⟨pack_ready, ready (by decide), by decide +kernel⟩

/-! ## Barriers and the network engine -/

/-- The last barrier of each level, the most participants it takes; an arrival to be waited for, of a phase delivered and not. -/
def barKeyOf (l n : Nat) : Nat := barOf team crew l n
def teamCount (n : Word) : Team := withU team 4 (.word n)
def arrived (p : Nat) : Team := { team with arrivals := [(barKeyOf 1 31, { phase := p, made := true, waitedFor := false })] }
def barred (p : Nat) : State := { boxed (arrived p) crew with bars := [(barKeyOf 1 31, { phase := 5, delivered := 4 })] }
theorem witness_HardwareBarriers :
    (boxed (teamCount 8) crew).Ready (teamCount 8) crew clause ∧ (boxed (arrived 3) crew).Ready (arrived 3) crew clause
    ∧ (∀ x ∈ [(1, (8 : Word)), (2, 32), (3, 2304), (4, 18432)], (teamCount x.2).uniform 4 = .word x.2 ∧ 1 ≤ x.2.toNat ∧ x.2.toNat ≤ barLimit x.1
      ∧ (boxed (teamCount x.2) crew).counted 2 (barKeyOf x.1 7) = false ∧ ((teamCount x.2).arrival (barKeyOf x.1 7)).void = false)
    ∧ (teamCount 8).landed [.uni 4] ∧ pack.releaseReady 2 = true ∧ (pack.pier 7).silent = false
    ∧ (pack.bar (barKeyOf 1 31)).isOpen = false ∧ (team.arrival (barKeyOf 1 31)).made = false ∧ team.landed [.uni 5] ∧ ((1 : Word) ≠ 0)
    ∧ ((arrived 3).arrival (barKeyOf 1 31)).phase < ((barred 3).bar (barKeyOf 1 31)).delivered
    ∧ ((barred 4).bar (barKeyOf 1 31)).delivered ≤ ((arrived 4).arrival (barKeyOf 1 31)).phase := ⟨ready (by decide), ready (by decide), by decide +kernel⟩

def barWaiter : Team := { arrived 4 with hold := .barrier (barKeyOf 1 31) (some 100), stall := 6 }
def timedOut : State :=
  { boxed barWaiter crew with dies := [(0, { dcc := 100 })], bars := [(barKeyOf 1 31, { phase := 5, expected := 2, arrivals := [2], isOpen := true, delivered := 4 })] }
theorem witness_HardwareBarriers_timeout :
    timedOut.team? 2 = some barWaiter ∧ timedOut.crew? 1 = some crew ∧ barWaiter.hold = .barrier (barKeyOf 1 31) (some 100) ∧ barWaiter.status = .running
    ∧ (100 : BitVec 64).toNat ≤ (timedOut.die crew.die).dcc.toNat ∧ timedOut.counted 2 (barKeyOf 1 31) = true
    ∧ (barWaiter.arrival (barKeyOf 1 31)).phase < (timedOut.bar (barKeyOf 1 31)).phase ∧ (barWaiter.arrival (barKeyOf 1 31)).void = false := by decide +kernel

/-- A connection with a window of one page and a packet out; a datagram of each kind for it, its tag right. -/
def netTeam : Team := { team with conn := [(13, 7)] }
def conn : Conn :=
  { winBase := 0x5000, winSize := 4096, key := some 1, up := true, peerConn := 9, expSeq := 5, timeouts := 14, rtt := 100, backTotal := 2, backMarked := 1
    unackd := [{ seq := 3, cmd := 1, opcode := 0, offset := 0, payload := [], last := true, sent := true, rnr := some 0 }] }
def untagged (op : BitVec 8) (seq : BitVec 32) (off : BitVec 64) : Datagram :=
  { port := 15, version := 1, opcode := op, flags := 0, conn := 7, seq := seq, iv := 1, offset := off, payload := List.replicate 16 (some 0xAA), tag := 0 }
def datagram (op : BitVec 8) (seq : BitVec 32) (off : BitVec 64) : Datagram :=
  let d := untagged op seq off
  { d with tag := Config.gcmTag 1 (conn.salt ++ d.iv) (headerBytes d.version d.opcode d.flags d.conn d.seq d.iv d.offset) d.payload }
theorem tag_is_right (op : BitVec 8) (seq : BitVec 32) (off : BitVec 64) : conn.authentic (datagram op seq off) = true := by simp [Conn.authentic, conn, datagram]
def netState (cached : List Nat) (dcc : BitVec 64) : State := { paged netTeam crew with net := { conns := [(7, some conn)], cached := cached }, abutDccs := [(0, dcc)] }
theorem witness_NetworkEngine :
    (boxed netTeam crew).Ready netTeam crew clause ∧ (boxed netTeam crew).capNet = true ∧ (boxed netTeam crew).acquiring 2 = false ∧ netBad 0 [0, 0, 0, 0] = false
    ∧ netBad 2 [0, 0, 0, 0, 0, 0, 0, 0] = false ∧ (∀ j < 8, ∀ l ∈ Mask.lanes (netTeam.acting clause), netTeam.pend (.vec (120 + j) l) = false)
    ∧ (boxed netTeam crew).resultsFull 2 13 2 = false ∧ 2 ≤ (boxed netTeam crew).freeSlots crew 13 := ⟨ready (by decide), by decide +kernel⟩

theorem witness_NetworkEngine_datagrams :
    datagramBad { datagram 0 5 0 with version := 2 } = true ∧ datagramBad (datagram 0 5 0) = false ∧ 7 ∉ (netState [] 0).net.cached ∧ 7 ∈ (netState [7] 0).net.cached
    ∧ (netState [7] 0).net.parked.map datagramSize = [] ∧ (netState [7] 0).conn? 7 = some conn ∧ conn.up = true ∧ conn.key.isSome = true ∧ conn.iv ≠ 0xFFFFFFFF
    ∧ (datagram 0 5 0).seq = conn.expSeq ∧ (((netState [7] 0).touch 7).netBusy conn (datagram 0 5 0)) = false
    ∧ conn.windowVA 4080 16 = some 0x5FF0 ∧ conn.windowVA 4081 16 = none
    ∧ ((((netState [7] 0).touch 7).windowWrite conn (granulesOf 16 0x5FF0 (datagram 0 5 4080).payload)).toOption).isSome = true
    ∧ ((6 : BitVec 32) - conn.expSeq).toNat < 2 ^ 31 ∧ conn.buffered.map Datagram.seq = [] := by decide +kernel

/-- Its oldest packet has waited for 8,192 DCC, and for less; a receiver's hold of it is over then too. -/
theorem witness_NetworkEngine_timers :
    conn.unackd.map NetPkt.sent = [true] ∧ conn.timeouts < 15 ∧ 0 < conn.rate.1 ∧ 0 < conn.rate.2 ∧ conn.backTotal ≠ 0 ∧ conn.backMarked ≤ conn.backTotal
    ∧ (∀ p ∈ conn.unackd, 8192 ≤ ((netState [7] 8192).portDcc conn - p.sentAt).toNat ∧ ((netState [7] 8191).portDcc conn - p.sentAt).toNat < 8192)
    ∧ conn.unackd.map NetPkt.rnr = [some 0] ∧ conn.rtt ≤ ((netState [7] 8192).portDcc conn - conn.rateAt).toNat
    ∧ 2 * conn.rtt ≤ 8192 ∧ (netState [7] 0).net.cmds.map NetCmd.id = [] := by decide +kernel

/-! ## Routes and links -/

/-- annc of 2^28 bytes to P0 of a new key, wdrw of P0's own, a foreign query; a command of each kind first in C0's engine. -/
def annBlock : List Word := [0, 0x0100_8000, 0, 0x0001_0008]
def routeCmd (fn : Nat) (b : List Word) : RouteCmd := { id := 9, op := 8, team := 2, die := 0, world := 0, fn := fn, block := b, lanes := [(0, 0)] }
def routeOp : OpRec := { id := 8, team := 2, kind := .route, w := 0, hdrVA := 0x4000, owed := [{ unit := .uni 4, gen := 1 }] }
def routing (fn : Nat) (b : List Word) : State := { paged team crew with dies := [(0, { routes := [routeCmd fn b] })], ops := [routeOp] }
theorem witness_RouteCommands :
    pack.Ready team crew clause ∧ pack.acquiring 2 = false ∧ pack.resultsFull 2 9 1 = false ∧ (pack.die crew.die).routes.length < 64 ∧ pack.capCxl = true
    ∧ pack.writable team [.uni 127] ∧ pack.writable team (laneUnits 127 (team.acting clause)) ∧ pack.writable team (Claims.pairUnits 126)
    ∧ (∀ j < 4, j ≠ 2 → team.pend (.uni (4 + j)) = false ∧ team.uniform (4 + j) = .word (([0, 0, 0, 0] : List Word).getD j 0))
    ∧ team.landed (Claims.group 126 2 (team.acting clause))
    ∧ (∀ fn ∈ [0, 1, 2, 4], ((routing fn annBlock).die 0).routes.find? (routing fn annBlock).mayStart = some (routeCmd fn annBlock))
    ∧ (routing 0 annBlock).op? 8 = some routeOp ∧ (routing 0 annBlock).routeCmd? 9 = some (routeCmd 0 annBlock) ∧ (routing 0 annBlock).transfers = []
    ∧ (routing 0 annBlock).campaigns = [] ∧ (routing 0 annBlock).nodesUp ≠ [] := ⟨pack_ready, by decide +kernel⟩

/-- A node's round that is due, a copy from P0 to P1 of a new key, the acknowledgement that leaves one out and the one that completes. -/
def newAnn : Ann := { base := 2 ^ 47, len := 16, holder := 8, localBase := 0, gen := 1 }
def msg : RouteMsg := { id := 9, camp := 8, src := 8, node := 9, ann := { newAnn with path := [8] }, withdraw := false }
def camp (acks : List Nat) : Campaign := { id := 8, ann := newAnn, withdraw := false, acks := acks, purpose := .cmd 9 }
def ack (n : Nat) : RouteAck := { id := 10, camp := 8, node := n, ann := newAnn, withdraw := false, full := false }
def spreading (acks : List Nat) (n : Nat) : State := { routing 0 annBlock with routeMsgs := [msg], routeAcks := [ack n], campaigns := [camp acks] }
theorem witness_RouteCommands_spread :
    (spreading [] 9).nodeUp 8 = true ∧ ((spreading [] 9).pier 0).fenced = false ∧ ((spreading [] 9).pier 0).toWithdraw = []
    ∧ ((spreading [] 9).node 8).round.toNat ≤ ((spreading [] 9).nodeDcc 8).toNat ∧ (∀ x ∈ (spreading [] 9).campaigns, (spreading [] 9).campaignDone x = false)
    ∧ (spreading [] 9).routeMsgs.find? (fun x => x.id == 9) = some msg ∧ (spreading [] 9).routeMsgs.find? (fun x => x.src == msg.src && x.node == msg.node) = some msg
    ∧ (spreading [] 9).replaysTo 8 9 = false ∧ (spreading [] 9).stopsTo 8 9 3 = false ∧ (spreading [] 9).nodeUp 9 = true ∧ 9 ∉ msg.ann.path
    ∧ ((spreading [] 9).pier 1).fenced = false ∧ 8 ∉ ((spreading [] 9).node 9).acked
    ∧ (∀ e ∈ ((spreading [] 9).node 9).table, e.sameKey msg.ann = true → newerGen msg.ann.gen e.gen = true) ∧ ((spreading [] 9).node 9).table.length < tableCap 9
    ∧ msg.ann.kind ≠ .mirror ∧ (spreading [] 9).routeAcks.find? (fun x => x.id == 10) = some (ack 9)
    ∧ (∀ n ∈ [9, 15], (spreading [] n).stopsClass (linkWays n (holderLinks n 8)) 3 = false)
    ∧ (∃ n ∈ (spreading [] 9).nodesUp, n ≠ 9 ∧ n ∉ (camp []).acks)
    ∧ (∀ n ∈ (spreading (List.range 15) 15).nodesUp, n = 15 ∨ n ∈ (camp (List.range 15)).acks) := by decide +kernel

/-- Link 35 with a replay under way whose time has come, for the first, the fifteenth and the sixteenth time; P0's links to two neighbours lost; a
die that one attach pier has declared; notices. -/
def linked (n : Nat) : State := { pack with links := [(35, { ab := { kept := 3, replaying := true, failedReplays := n } })] }
def declaredDie : State := { pack with dies := [(3, { declared := some (attach 3 0 ) })], notices := [(9, .silence (8 + otherAttach 3 (attach 3 0)) 3)] }
def silent : State :=
  { pack with piers := [(0, { lost := [(2, 1)] }), (1, { silent := true })], links := [(pierLink 0 1, { failed := true })], dies := [(1, { silent := true })]
              notices := [(9, .linkLost 0 3 1), (10, .silence 2 1), (11, .silence 8 1)] }
theorem witness_LinksAndSilence :
    ((linked 0).link 35).failed = false ∧ (((linked 0).link 35).toward true).replaying = true ∧ (((linked 14).link 35).toward true).failedReplays < 15
    ∧ 15 ≤ (((linked 15).link 35).toward true).failedReplays ∧ (((linked 0).link 35).toward true).replayTill.toNat ≤ ((linked 0).endDcc (linkSender 35 true)).toNat
    ∧ ((((linked 0).link 35).toward true).send - (0xFFD : BitVec 12)).toNat ≤ (((linked 0).link 35).toward true).kept
    ∧ (((linked 0).link 35).toward true).kept < ((((linked 0).link 35).toward true).send - (0xFFC : BitVec 12)).toNat := by decide +kernel
theorem witness_LinksAndSilence_lost :
    1 ∈ pierNbrs 0 ∧ (silent.pier 0).silent = false ∧ (0, 1) ∉ (silent.pier 0).lost ∧ (silent.link (pierLink 0 1)).failed = true
    ∧ (∀ x ∈ (silent.pier 0).lost, x.1 ≠ 0) ∧ (∃ x ∈ (silent.pier 0).lost, x.2 = 1) ∧ silent.notices.find? (fun x => x.1 == 9) = some (9, .linkLost 0 3 1)
    ∧ (3, 1) ∉ (silent.pier 0).lost ∧ (silent.pier 0).fenced = false ∧ silent.notices.find? (fun x => x.1 == 10) = some (10, .silence 2 1)
    ∧ silent.notices.find? (fun x => x.1 == 11) = some (11, .silence 8 1) ∧ silent.dieUp 2 = true ∧ (silent.die 2).silent = false ∧ (silent.die 1).silent = true
    ∧ silent.nextDie 1 = some 2 ∧ (declaredDie.die 3).declared = some (attach 3 0) ∧ (declaredDie.die 3).silent = false
    ∧ declaredDie.notices.find? (fun x => x.1 == 9) = some (9, .silence (8 + otherAttach 3 (attach 3 0)) 3) := by decide +kernel

/-! ## Deferring mode, poison tests, the scrubber, allotment -/

/-- v2 of lane 0 is pending: a captured word has room, or the FIFO of its one granule is full, with STR and without; R is 0. -/
def entry : Entry :=
  { word := 0, lit := 0, instr := .add 3 2 1 0, va := 0x4004, hdrVA := 0x4000, hdr := 0xB7010002, rm := 0, w := 7, mask := [0x80000001]
    slots := (Claims.operands 2 1 0 [0x80000001]).map (fun r => { unit := r, want := 0, got := some (.w (.word 5)) })
    base := [], dests := [{ unit := .vec 3 0, gen := 1 }, { unit := .vec 3 31, gen := 1 }], laneWords := 64 }
def capturer (n : Nat) (str : Bool) : Team :=
  { team with clause := some clauseDef, defOn := true, strict := str, rN := n, v := [(vkey 2 0, { pend := true }), (vkey 3 0, { pend := true, gen := 1 })] }
def held (n : Nat) (str : Bool) : Team := { capturer n str with fifo := [entry] }
theorem witness_DeferringMode :
    (boxed (withU team 4 (.word 1)) crew).Ready (withU team 4 (.word 1)) crew clause ∧ pack.writable team [.uni 127]
    ∧ (∀ t ∈ [capturer 4 false, held 1 true, held 1 false, capturer 0 false], (boxed t crew).current = some (t, crew) ∧ t.clause = some clauseDef ∧ t.holds [3, 2, 1]
        ∧ (∃ r ∈ Claims.operands 2 1 0 (t.acting clauseDef), t.pend r = true))
    ∧ clauseDef.issuedTo = 0 ∧ Claims.operandWords 0 (team.acting clauseDef) = 64 ∧ (capturer 4 false).fifo.length < (capturer 4 false).rN
    ∧ (∀ r ∈ laneUnits 3 (team.acting clauseDef), (capturer 4 false).gen r + 1 ∉ (boxed (capturer 4 false) crew).carried 2 (capturer 4 false) r)
    ∧ (held 1 true).rN ≤ (held 1 true).fifo.length ∧ 64 * 1 < ((held 1 true).fifo.map Entry.laneWords).sum + 64
    ∧ entry.instr = .add 3 2 1 0 ∧ entry.slots.map (fun y => (y.unit, y.got)) = (Claims.operands 2 1 0 entry.mask).map (fun r => (r, some (UnitVal.w (.word 5))))
    ∧ (∀ l ∈ Mask.lanes entry.mask, ∃ o ∈ entry.dests, o.unit = .vec 3 l) ∧ (entry.dests.map Owed.unit).Nodup ∧ (held 1 true).late = none ∧ entry.issuedTo = 0
    ∧ (held 1 true).gen (.vec 3 0) = 1 ∧ (held 1 true).gen (.vec 3 31) ≠ 1 := ⟨ready (by decide), by decide +kernel⟩

/-- Poison in v2 of lane 31, s5, p3 of lane 0, the last column of an accumulator's last row, and a tile. -/
def poisoned : Team :=
  { team with v := [(vkey 2 31, { val := .poison })], u := [(5, { val := .poison })], p := [(pkey 3 0, { bits := 1, poison := 1 })]
              a := [(63, { elems := [(511, .poison)] })], t := [(15, { poison := true })] }
theorem witness_PoisonTestRules :
    (boxed poisoned crew).Ready poisoned crew clause ∧ poisoned.holds [127] ∧ poisoned.landed (laneUnits 2 (poisoned.acting clause)) ∧ poisoned.landed [.uni 5, .acc 63, .tile 15]
    ∧ poisoned.landed (wordUnits 3 (poisoned.acting clause)) ∧ (poisoned.lane 2 31).isPoison = true ∧ (poisoned.uniform 5).isPoison = true ∧ poisoned.flagBad 3 0 = true
    ∧ (∃ i < 512, i % 64 / 32 + 2 * (i / 64) = 15 ∧ tget (.word 0) (poisoned.unit (.acc 63)).accu.1 i = .poison) ∧ (poisoned.unit (.tile 15)).tile.2 = true
    ∧ (63 : BitVec 7).toNat < poisoned.aN ∧ (poisoned.unit (.acc 63)).accu.1.Pairwise (fun x y => x.1 < y.1) ∧ (∀ x ∈ (poisoned.unit (.acc 63)).accu.1, x.1 < 512)
    ∧ (boxed poisoned crew).writable poisoned [.uni 127]
    ∧ (∀ q < 16, (0x8000 : Word).getLsbD q = true ↔ q = 15) ∧ (126 : BitVec 7).toNat + (2 : BitVec 8).toNat ≤ 128
    ∧ poisoned.landed ((List.range 2).map (fun i => UnitRef.uni (126 + i))) := ⟨ready (by decide), by decide +kernel⟩

theorem witness_ScrubberVisits :
    pack.team? 2 = some team ∧ pack.crew? 1 = some crew ∧ team.status ≠ .ended ∧ team.status ≠ .saved ∧ 127 < team.vN ∧ 31 < 32 * team.width ∧ (pack.die 7).errLog.recs.length < 256
    ∧ (pack.core crew.coreKey).ecsb ≠ BitVec.allOnes 32 := by decide +kernel

/-- The extended pools have one granule free of two; an allotment of 112 vector registers of a base of 64; parked alone. -/
def poolCrew : Crew := { crew with pool := { vec := 1, acc := 1, res := 1 }, poolAll := { vec := 2, acc := 2, res := 2 } }
def grown : Team := { team with vN := 112, vBase := 64, aN := 60, rN := 32 }
def parked (n : Nat) : Team := { grown with hold := .acqx 0 n 0, stall := 22 }
theorem witness_Allotments :
    (boxed grown poolCrew).Ready grown poolCrew clause ∧ grown.vN + 8 * 1 ≤ 128 ∧ (1 : Nat) * grown.width ≤ poolCrew.pool.vec ∧ (1 : Nat) ≤ poolCrew.poolAll.vec
    ∧ (boxed grown poolCrew).parked poolCrew 0 = [] ∧ poolCrew.pool.vec < 2 * grown.width ∧ 2 * grown.width ≤ poolCrew.poolAll.vec ∧ 128 < grown.vN + 8 * 3
    ∧ poolCrew.poolAll.res < 3 ∧ grown.vBase + 8 * 6 ≤ grown.vN ∧ grown.vN < grown.vBase + 8 * 7
    ∧ (∀ i < 48, ∀ l ∈ grown.lanes, grown.pend (.vec (grown.vN - 1 - i) l) = false) ∧ grown.fifo = [] ∧ (boxed grown poolCrew).writable grown [.uni 127]
    ∧ (∃ v ∈ twoTeams.teams, v ≠ 2 ∧ ((duo grown).team? v).map (fun x => (x.status, x.hold)) = some (.running, .none))
    ∧ (∀ n ∈ [1, 2], (boxed (parked n) poolCrew).crew? 1 = some poolCrew ∧ poolCrew.teams = [2] ∧ (boxed (parked n) poolCrew).team? 2 = some (parked n)
        ∧ (parked n).crew = 1 ∧ (parked n).clause = some clause ∧ (parked n).status = .running) := ⟨ready (by decide), by decide +kernel⟩

theorem witness_PoisonTestRules_wait :
    (boxed (held 1 false) crew).current = some (held 1 false, crew) ∧ clauseDef.deferring = true ∧ (held 1 false).fifo ≠ []
    ∧ (boxed (capturer 4 false) crew).current = some (capturer 4 false, crew) ∧ (capturer 4 false).fifo = [] ∧ Mask.none ((capturer 4 false).acting clauseDef) = false
    ∧ ¬ (capturer 4 false).landed (laneUnits 2 (Mask.only ((capturer 4 false).acting clauseDef) 0)) ∧ ¬ teamWait.landed [.uni 5]
    ∧ (127 : BitVec 7).toNat < (capturer 4 false).vN := by decide +kernel

/-! ## Cards and crews: a card of one crew of one team at VA 0x8000, written from the fields of R272 and R273 -/

def cardBytes (count : Nat) : List PByte :=
  leBytes 8 0x4000 ++ leBytes 8 0x100 ++ leBytes 2 1 ++ leBytes 1 1 ++ leBytes 1 0 ++ leBytes 4 1 ++ leBytes 4 0x0820_4001 ++ leBytes 36 0 ++ leBytes 4 count ++ leBytes 60 0
def stored (s : State) (a : Nat) (bs : List PByte) : State := s.putBytes 8 ((List.range bs.length).zip bs |>.map (fun b => (a + b.1, b.2)))
def poster : Team := withU (withU team 4 (.word 0x8000)) 6 (.word 0xFF)
def carded (t : Team) (count : Nat) : State := { paged t crew with mem := (stored pages 0x8000 (cardBytes count)).mem }
def image (count : Nat) : CardImage := (CardImage.parse (cardBytes count)).getD {}
def card : Card := { tid := 1, va := 0x8000, die := 0, image := image 0, nextGang := 1, inPool := false }
theorem test_card_is_well_formed : (cardBytes 0).length = 128 ∧ (image 0).malformed = false ∧ (image 0).gangs = 1 ∧ (image 0).idem = true := by decide +kernel
theorem witness_ReleasesAndDone :
    (carded poster 1).Ready poster crew clause
    ∧ (∀ n ∈ [0, 1, 2], ((carded poster n).cardAt 0 0 0 { rd := true, wr := true } 0x8000).toOption.map (fun x => (x.1, x.2.count)) = some (0x8000, BitVec.ofNat 32 n))
    ∧ poster.landed [.uni 4, .uni 5, .uni 6] ∧ poster.uniform 6 = .word 0xFF ∧ (pairVA 0x8000 0).toNat % 128 = 0
    ∧ ((carded poster 1).cardWorld 0 0 0x8000).toOption = some 0 ∧ (carded poster 1).relMet 2 4 = true ∧ (carded poster 1).dieUp 0 = true ∧ (carded poster 1).poolRoom 0 = true
    ∧ (carded poster 1).ownBusy 0 0 0x8040 = false ∧ (∀ z ∈ (carded poster 1).cards, z.tid ≠ BitVec.ofNat 4 0 ++ (((carded poster 1).die 0).tids + 1))
    ∧ (((carded poster 2).cardNoted 0 0 0 { rd := true, wr := true } 0x8000).writeOwn 0 0 0x8040 (leBytes 4 1) 2).toOption.isSome = true
    ∧ crew.storePoison = false ∧ (pack.cur ∈ crew.teams) ∧ poisonCrew.storePoison = true :=
  ⟨moved (ready (by decide)) (by simp [State.current, State.team?, State.crew?, carded, paged, boxed]), by decide +kernel⟩

def q8word (w : Word) : Q8Word := { team := 2, crew := 1, world := 0, asn := 0, tid := 1, earlier := [], word := w }
def queued8 (hi : Word) : State := { carded team 1 with dies := [(0, { q8 := [q8word 0x8000, q8word hi] })] }
theorem witness_ReleasesAndDone_q8 :
    (∀ hi : Word, ((queued8 hi).die 0).q8 = [q8word 0x8000, q8word hi]) ∧ (queued8 0xF0000).team? 2 = some team
    ∧ (tget [] team.results 8 : List (BitVec 64)).length < 16 ∧ (queued8 0xF0000).popWaiting 2 8 = none ∧ (queued8 0xF0000).allDone [] = true
    ∧ ((0x000F_0000 : Word).extractLsb' 16 4).toNat = 15 ∧ 8 ≤ ((0x0008_0000 : Word).extractLsb' 16 4).toNat ∧ (queued8 0xF0000).rootOf 0 0 ≠ none
    ∧ (queued8 0xF0000).ownBusy 0 0 0x8040 = false ∧ (queued8 0xF0000).worldRuns 0 = true := ⟨fun _ => rfl, by decide +kernel⟩

/-- A card whose crews are gone, with no completion VA, one that is misaligned and one that is not; a crew that waits to retire. -/
def cardDone (done : VA) : Card := { card with image := { image 0 with done := done } }
def cardOut (done : VA) : State := { carded team 0 with cards := [cardDone done], crews := [(1, some { crew with status := .gone })] }
def retiring : Crew := { crew with status := .retiring }
theorem witness_CardsAndCrewsEnd :
    (∀ d ∈ [0, 0x8008, 0x8009], ((cardOut (BitVec.ofNat 64 d)).card? 1).isSome = true
      ∧ (cardOut (BitVec.ofNat 64 d)).cardOver (cardDone (BitVec.ofNat 64 d)) = true) ∧ (cardDone 0).stage = 0
    ∧ (image 0).succ = 0 ∧ ((cardOut 0x8008).translateOwn 0 0 0 { wr := true } 0x8008).toOption = some 0x8008 ∧ (cardOut 0x8008).ownBusy 0 0 0x8008 = false
    ∧ (((cardOut 0x8008).walkNoted 0 0 0 0x8008).writeOwn 0 0 0x8008 (leBytes 8 1)).toOption.isSome = true ∧ (boxed team retiring).crew? 1 = some retiring
    ∧ (boxed team retiring).crewBusy [2] = false ∧ ({ boxed team retiring with ops := [storeOut] } : State).crewBusy [2] = true
    ∧ (∃ e ∈ (pack.node 0).table, e.holder = 15) := by decide +kernel

def dispatching : State := { pages with cards := [{ card with nextGang := 0, inPool := true }], nextId := 3 }
theorem witness_DispatchPlacesGangs :
    dispatching.dieUp 7 = true ∧ (dispatching.die 0).silent = false ∧ card.image.world = (dispatching.die 0).world ∧ dispatching.worldRuns 0 = true ∧ card.level < 8
    ∧ (dispatching.die 0).savedOrder = [] ∧ (dispatching.die 0).relaunch = [] ∧ (dispatching.findCores 0 1 card.image 0 card.image.gang).map List.length = some card.image.gang := by
  decide +kernel

/-- A slice that is over, with another world's card in the pool and with none; a crew at its drain limit, with room for its image. -/
def sliced (other : Bool) : State :=
  { carded team 0 with dies := [(0, { dcc := 100, sliceStart := 40, sliceLen := 60 })], cards := if other then [{ card with image := { image 0 with world := 3 }, inPool := true }] else [] }
def small : Team := { team with vN := 8, aN := 0, rN := 0, vBase := 8, aBase := 0, rBase := 0 }
def drained (st : CrewSt) (at_ : Option Nat) : Crew := { crew with status := st, drainTill := some 100, savedAt := at_, spk := 0 }
def saving (st : CrewSt) (at_ : Option Nat) : State :=
  { paged small (drained st at_) with dies := [(0, { dcc := 100 })], worlds := [(0, { state := .run, ctxs := [(0, 0x1000)], saveBase := 0x10000, saveSize := 0x10000 })] }
theorem witness_SlicesAndSaves :
    ((sliced true).die 0).sliceLen ≠ 0 ∧ (((sliced true).die 0).sliceStart + ((sliced true).die 0).sliceLen).toNat ≤ ((sliced true).die 0).dcc.toNat
    ∧ (sliced true).worldReady 0 3 = true ∧ (sliced true).worldWork 0 3 = true ∧ (sliced true).worldWork 0 1 = false ∧ (sliced true).worldWork 0 2 = false
    ∧ (∀ w < 16, (sliced false).worldReady 0 w = false) ∧ (sliced true).crew? 1 = some crew := by decide +kernel
theorem witness_SlicesAndSaves_save :
    (saving .draining none).crew? 1 = some (drained .draining none) ∧ (saving .draining none).crewStopping (drained .draining none) = false
    ∧ (((saving .draining none).world 0).place ((saving .draining none).image 1 (drained .draining none)).length) = some 0x10000
    ∧ (saving .saving (some 0x10000)).saveReady (drained .saving (some 0x10000)) = true ∧ small.joinDeadline = none ∧ small.hold = .none
    ∧ (saving .saving (some 0x10000)).spanBusy 0 0 0x10000 ((saving .saving (some 0x10000)).image 1 (drained .saving (some 0x10000))).length = false
    ∧ (({ saving .saving (some 0x10000) with ops := [storeOut] } : State).saveReady (drained .saving (some 0x10000)) = false) := by decide +kernel

/-! ## Traps and their decisions -/

/-- A handler crew that holds handle 7 open on team 5 of another crew; a team-control word within the pool's means, beyond them, and bad. -/
def handlerCrew : Crew := { crew with kind := .handler 7 0 }
def trapped : Team := { placedTeam 4 0x4000 none with status := .suspended, trap := some { cause := 0x1A, hdrVA := 0x4000 }, rN := 4 }
def trappedCrew : Crew := { placedCrew 5 with tid := 2, pool := { res := 1 }, index := 0 }
def handle : Handle := { team := 5, world := 0, slot := 0, handlerTid := 1, ctl := 0x400, cause := 0x1A }
def decider : Team := withU (withU team 4 (.word 7)) 5 (.word 0x800)
def deciding (n : Nat) : State :=
  { boxed decider handlerCrew with teams := [(2, some decider), (5, some trapped)], crews := [(1, some handlerCrew), (4, some trappedCrew)], handles := [(n, some handle)]
                                   cards := [{ card with tid := 2 }], worlds := [(0, { state := .run, trapTaken := [0], trapSlots := 1 })] }
theorem witness_TrapDecisions :
    (deciding 7).Ready decider handlerCrew clause ∧ decider.uniform 4 = .word 7 ∧ tget none (deciding 7).handles 7 = some handle
    ∧ handle.handlerTid = handlerCrew.tid ∧ (deciding 7).team? 5 = some trapped ∧ (deciding 7).crew? 4 = some trappedCrew ∧ trapped.crew ≠ decider.crew
    ∧ (deciding 7).cur ∉ trappedCrew.teams ∧ trappedCrew.kind = .ordinary ∧ trappedCrew.status = .resident ∧ ((deciding 7).card? 2).isSome = true
    ∧ (deciding 7).crews.map (fun x => (x.1, x.2.map Crew.tid)) = [(1, some 1), (4, some 2)] ∧ (deciding 7).crews.Pairwise (fun p q => p.1 < q.1)
    ∧ tget none (deciding 8).handles 7 = none ∧ decider.uniform 5 = .word 0x800 ∧ ((0x800 : Word).extractLsb' 8 9).toNat = 8 ∧ (8 - (handle.ctl.extractLsb' 8 9).toNat + 3) / 4 ≤ trappedCrew.pool.res
    ∧ trappedCrew.pool.res < (12 - (handle.ctl.extractLsb' 8 9).toNat + 3) / 4 ∧ ((0x600 : Word).extractLsb' 8 9).toNat % 4 ≠ 0 ∧ decider.landed [.uni 4] ∧ decider.landed [.uni 5]
    ∧ (deciding 7).writable decider [.uni 127] := ⟨moved (ready (k := handlerCrew) (by decide)) rfl, by decide +kernel⟩

def resumable : Team := { trapped with trap := none, ctlWord := some 0x801 }
def joined : Team := { placedTeam 4 0x4000 none with joinDeadline := some 100, fr := { lanes := [(3, .held 0x4010)], joinVA := some 0x400C } }
def resuming (t : Team) : State := { pack with teams := [(5, some t)], crews := [(4, some trappedCrew)], dies := [(0, { dcc := 100 })] }
theorem witness_TrapDecisions_resume :
    (resuming resumable).team? 5 = some resumable ∧ (resuming resumable).crew? 4 = some trappedCrew ∧ resumable.status = .suspended ∧ resumable.trap = none
    ∧ trappedCrew.status = .resident ∧ trappedCrew.offCore = false
    ∧ (resuming resumable).commandsOf 5 = false ∧ (resuming resumable).ops = [] ∧ ({ resuming resumable with copies := [{ copy 0 0 false with team := 5 }] } : State).commandsOf 5 = true
    ∧ (resuming joined).team? 5 = some joined ∧ (100 : BitVec 64).toNat ≤ ((resuming joined).die trappedCrew.die).dcc.toNat ∧ joined.status ≠ .ended := by decide +kernel

/-- A suspended team whose record has one slot to go to, or none; in an ordinary crew and in a handler crew. -/
def recording (k : Crew) (slots : Nat) : State :=
  { paged trapped k with teams := [(5, some trapped)], crews := [(4, some k)]
                         worlds := [(0, { state := .run, ctxs := [(0, 0x1000)], handler := some (0x8000, image 0), trapBase := 0xC000, trapSlots := slots })] }
theorem witness_TrapRecords :
    trapped.num < 8 ∧ trapped.rN ≤ 256 ∧ trappedCrew.core < 144 ∧ trappedCrew.index < 2 ^ 16 ∧ (recording trappedCrew 1).team? 5 = some trapped
    ∧ (recording trappedCrew 1).crew? 4 = some trappedCrew ∧ trapped.trap.isSome = true ∧ trapped.handle = 0 ∧ (recording trappedCrew 1).cardStatus (image 0) false = 0
    ∧ (recording trappedCrew 1).handlerRoom 0 = true ∧ ((recording trappedCrew 1).world 0).trapSlots = 1 ∧ ((recording trappedCrew 0).world 0).trapSlots = 0
    ∧ (recording trappedCrew 1).recordBusy 0 0 0 0xC000 = false
    ∧ ((recording trappedCrew 1).writeRecord 0 0 0 0xC000 (trapped.trapRecord trappedCrew { cause := 0x1A, hdrVA := 0x4000 } 1 0)).toOption.isSome = true
    ∧ ({ trappedCrew with kind := .handler 7 0 } : Crew).status = .resident := by decide +kernel

/-- C0 in service and C1 silent: with a pier that has still to withdraw its announcements and with none; the same of P3. -/
def silentDie (ws : List Nat) : State := { pack with dies := [(1, { silent := true })], piers := [(3, { silent := true, toWithdraw := ws })] }
theorem witness_DieAndPierResets :
    pack.dieUp 0 = true ∧ (pack.die 0).silent = false ∧ (pack.die 0).declared = none ∧ (∃ n < 8, n ≠ 0 ∧ pack.dieUp n = true) ∧ ((silentDie [1]).die 1).silent = true
    ∧ (∃ x ∈ (silentDie [1]).piers, 1 ∈ x.2.toWithdraw) ∧ (∀ x ∈ (silentDie []).piers, 1 ∉ x.2.toWithdraw) ∧ (silentDie []).campaigns = [] ∧ (silentDie []).chanJobs = []
    ∧ (pack.pier 3).silent = false ∧ ((silentDie []).pier 3).silent = true
    ∧ (silentDie [11]).withdrawnAll 11 = false ∧ (silentDie []).withdrawnAll 11 = true ∧ ({ pack with capDies := 0xFD } : State).dieUp 1 = false := by decide +kernel


/-! ## System registers, samples, stops -/

/-- A handler crew that selects team slot 3 of its own core: a stopped team of its own world, and one of world 5. -/
def sysCrew : Crew := { handlerCrew with teams := [2, 5] }
def selectee : Team := { placedTeam 4 0x4000 (some clause) with slot := 3, stall := 31, stop := { e := 7, p := 9, reached := true } }
def selecteeCrew (w : Nat) : Crew := { trappedCrew with slot := 7, world := w }
def reader : Team := withU team 4 (.word 0x8F3)
def reading (k : Crew) (w : Nat) : State :=
  { boxed reader k with teams := [(2, some reader), (5, some selectee)], crews := [(1, some k), (4, some (selecteeCrew w))], cores := [(0, { tsel := 3 })] }
theorem witness_SystemRegisters :
    (boxed reader crew).Ready reader crew clause ∧ (boxed reader sysCrew).Ready reader sysCrew clause ∧ Mask.none (reader.acting clause) = false
    ∧ crew.kind = .ordinary ∧ sysCrew.kind ≠ .ordinary
    ∧ ((reading sysCrew 0).selected sysCrew).map (fun x => (x.1, x.2.1.slot)) = some (5, 3) ∧ ({ boxed reader sysCrew with cores := [(0, { tsel := 9 })] } : State).selected sysCrew = none
    ∧ (selecteeCrew 0).slot < 8 ∧ selectee.stall < 32 ∧ (selecteeCrew 5).world ≠ sysCrew.world ∧ (selecteeCrew 0).world = sysCrew.world ∧ selectee.stop.arm = false
    ∧ selectee.stop.reached = true ∧ (boxed reader crew).boot.count ≤ 15 ∧ (boxed reader crew).writable reader [.uni 127] ∧ reader.uniform 4 = .word 0x8F3
    ∧ ((0x8F3 : Word).extractLsb' 4 8).toNat = 143 ∧ (0x8F3 : Word).extractLsb' 12 20 = 0 ∧ (0x8F3 : Word).extractLsb' 2 5 ≠ 0 ∧ reader.landed [.uni 4]
    ∧ (0x1FF83 : Word).extractLsb' 2 5 = 0 ∧ (0x1FF83 : Word).extractLsb' 16 16 ≠ 0 ∧ (0x8F83 : Word).extractLsb' 2 5 = 0 ∧ (0x8F83 : Word).extractLsb' 16 16 = 0 :=
  ⟨ready (by decide), ready (by decide), by decide +kernel⟩

/-- A ring of 64 records of world 0 at 0x10000, with room and full; team 5 sampled by port B; a setting whose time has come, and a timer. -/
def ring64 (idx : BitVec 32) : Sampling := { logN := 8, ring := 0x10000, entries := 64, period := 50, card := 0x8000, idx := idx, wanted := some (8, 0x10000, 64, 50, 0x8000), wantedAt := 100 }
def sampling (k : Crew) (idx : BitVec 32) (on : Bool) : State :=
  { carded reader 0 with teams := [(2, some reader)], crews := [(1, some k)], samplings := [(0, ring64 idx)], dies := [(0, { dcc := 100 })], cores := [(0, { timerAt := 100, sampler := on })]
                         worlds := [(0, { state := .run, ctxs := [(0, 0x1000)], trapBase := 0xC000, trapSlots := 1 })] }
theorem witness_Sampling :
    ((sampling handlerCrew 0 false).sampling 0 0).entries ≠ 0 ∧ Claims.ringFull ((sampling handlerCrew 64 false).sampling 0 0) ∧ ¬ Claims.ringFull ((sampling handlerCrew 63 false).sampling 0 0)
    ∧ Claims.ringAddress (ring64 63) 0 = 0x103F0 ∧ ((sampling handlerCrew 63 false).writeOwn 0 0 0x103F0 (leBytes 16 0)).toOption.isSome = true
    ∧ reader.landed ((List.range 3).map (fun i => UnitRef.uni (125 + i))) ∧ (sampling handlerCrew 0 false).nextSampled 0 0 0 = some 2 ∧ (sampling handlerCrew 0 false).nextSampled 0 1 0 = none
    ∧ reader.mayIssue = true ∧ ({ reader with status := .suspended } : Team).mayIssue = false ∧ (sampling handlerCrew 0 false).crewIssues handlerCrew = true
    ∧ (sampling { handlerCrew with status := .saving } 0 false).crewIssues { handlerCrew with status := .saving } = false
    ∧ (sampling handlerCrew 0 false).dieUp 0 = true ∧ (ring64 0).wantedAt.toNat ≤ ((sampling crew 0 false).die 0).dcc.toNat
    ∧ ((sampling crew 0 true).core 0).timerAt.toNat ≤ ((sampling crew 0 true).die 0).dcc.toNat ∧ ((sampling crew 0 true).core 0).sampler = true
    ∧ ((sampling crew 0 false).templateAt 0 0 0x8000).isSome = true ∧ ((sampling crew 0 false).world 0).freeSlot = some 0 ∧ (sampling crew 0 false).handlerRoom 0 = true
    ∧ ((sampling crew 0 false).writeRecord 0 0 0 0xC000 (leBytes 64 0x19)).toOption.isSome = true := by decide +kernel

/-- The word that the team is to issue next waits for a register, or for nothing: the sample's reason is the word's own. -/
def probing (t : Team) : State := boxed { t with clause := some { clause with words := encode (.add 3 2 1 0) } } crew
theorem witness_Sampling_reason : ((probing teamWait).probe 2).1 = 21 ∧ ((probing team).probe 2).1 = 0 := by decide +kernel

/-- A stop at entry 7 and pass 9: reached, not yet re-executed, then in stop mode; a copy of the team's under way. -/
def stopped (mode : Bool) : Team := { selectee with status := .running, regionCount := 7, passes := 9, stop := { e := 7, p := 9, arm := true, mode := mode } }
def stopping (mode : Bool) (cs : List CopyCmd) : State := { pack with teams := [(5, some (stopped mode))], crews := [(4, some trappedCrew)], copies := cs }
theorem witness_StopsAreTaken :
    (stopping false []).team? 5 = some (stopped false) ∧ (stopping true []).team? 5 = some (stopped true) ∧ (stopping false []).crew? 4 = some trappedCrew ∧ trappedCrew.offCore = false
    ∧ (stopped true).regionCount = (stopped true).stop.e ∧ (stopped true).passes = (stopped true).stop.p ∧ (stopping false []).ops = [] ∧ (stopping false []).commandsOf 5 = false
    ∧ (stopping false [{ copy 0 0 false with team := 5 }]).commandsOf 5 = true ∧ (stopping true []).crewBusy [5] = false
    ∧ (stopping true [{ copy 0 0 false with team := 5 }]).crewBusy [5] = true := by decide +kernel

/-! ## The host's side -/

/-- Ring 63 of 4 entries, one unread: its entry names the card at 0x8000 and vector 5, or die 8. -/
def hostRing : Ring := { set := true, base := 0x9000, entries := 4, head := 3, tail := 0 }
def ringed (count die : Nat) : State :=
  { carded team count with
    mem := (stored (carded team count) 0x9030 (leBytes 8 0x8000 ++ leBytes 2 die ++ leBytes 6 5)).mem
    host := { rings := [(63, hostRing)], reqTail := 1, waiting := [false] } }
theorem witness_HostPort :
    (ringed 1 0).ring 63 = hostRing ∧ hostRing.head ≠ hostRing.tail ∧ hostRing.entries - 1 < (hostRing.tail + 4 - hostRing.head) % 4 + (3 + 4 - hostRing.tail) % 4
    ∧ (hostRing.tail + 4 - hostRing.head) % 4 + (2 + 4 - hostRing.tail) % 4 ≤ hostRing.entries - 1
    ∧ ((ringed 1 0).readSpan 16 0 2 0x9030).toOption = some (leBytes 8 0x8000 ++ leBytes 2 0 ++ leBytes 6 5)
    ∧ ((ringed 1 8).readSpan 16 0 2 0x9030).toOption = some (leBytes 8 0x8000 ++ leBytes 2 8 ++ leBytes 6 5)
    ∧ (∀ n ∈ [0, 1, 2], ((ringed n 0).cardAt 16 0 0 { rd := true, wr := true } 0x8000).toOption.map (fun x => (x.1, x.2.count.toNat)) = some (0x8000, n))
    ∧ (ringed 2 0).ownBusy 16 0 0x8040 = false
    ∧ (((ringed 2 0).cardNoted 16 0 0 { rd := true, wr := true } 0x8000).writeOwn 16 0 0x8040 (leBytes 4 1) 2).toOption.isSome = true
    ∧ (ringed 1 0).dieUp 0 = true ∧ (ringed 1 0).poolRoom 0 = true ∧ (ringed 1 0).mgmtReady = true ∧ pack.mgmtReady = false := by decide +kernel

/-- A session of world w: before FINISH and after; a world-0 session; four at once. A management ring with one request unread. -/
def session (w : Nat) (f : Bool) : Session := { id := 4, finished := f, world := w }
def managed (w : Nat) (f : Bool) (st : Tdisp) : State :=
  { carded team 0 with host := { reqTail := 1, waiting := [false], sessions := [session w f] }
                       worlds := [(0, { state := .run, ctxs := [(0, 0x1000)], trapBase := 0xC000, trapSlots := 1 }), (w, { state := st, session := some 4, stopping := none })] }
def four : State := { pack with host := { reqTail := 1, waiting := [false], sessions := (List.range 4).map (fun i => { id := i + 1 }) } }
theorem managed_secured (w : Nat) (st : Tdisp) : Claims.secured (managed w true st) 4 (session w true) := ⟨rfl, rfl⟩
theorem witness_SpdmRequests :
    (∀ x, ¬ Claims.secured (managed 3 false .run) 4 x) ∧ Claims.secured (managed 3 true .run) 4 (session 3 true)
    ∧ (managed 3 true .run).mgmtReady = true ∧ four.mgmtReady = true ∧ (pack.host.sessions).length < 4 ∧ pack.session 4 = none ∧ (four.session 4).isSome = true ∧ 4 ≤ four.host.sessions.length := by
  refine ⟨fun x hx => ?_, managed_secured 3 .run, by decide +kernel⟩
  have e : (managed 3 false .run).session 4 = some (session 3 false) := rfl
  rw [Claims.secured, e, Option.some.injEq] at hx
  exact absurd (hx.1 ▸ hx.2) (by decide)

theorem witness_MessagesAreChecked :
    Claims.secured (managed 3 true .locked) 4 (session 3 true) ∧ ¬ Claims.accepted (managed 3 true .locked) (session 3 true) 3 true
    ∧ ¬ Claims.accepted (managed 3 true .run) (session 3 true) 3 false ∧ ¬ Claims.accepted (managed 3 true .run) (session 3 true) 0 true
    ∧ ¬ Claims.accepted (managed 3 true .run) (session 3 true) 16 true ∧ (session 3 true).world ≠ 0 ∧ (session 3 true).world ≠ 4 ∧ ((managed 3 true .none).world 3).state = .none :=
  ⟨managed_secured 3 .locked, by decide +kernel⟩

theorem witness_WorldConfiguration :
    Claims.secured (managed 3 true .unlocked) 4 (session 3 true) ∧ Claims.secured (managed 0 true .run) 4 (session 0 true)
    ∧ Claims.accepted (managed 3 true .unlocked) (session 3 true) 3 false ∧ Claims.accepted (managed 0 true .run) (session 0 true) 0 false
    ∧ Claims.accepted (managed 3 true .run) (session 3 true) 3 true ∧ (managed 3 true .unlocked).boot.minimal = false ∧ ((managed 3 true .none).world 3).state = .none
    ∧ ((managed 3 true .unlocked).world 3).scrubbed = false ∧ (managed 3 true .unlocked).capCxl = true ∧ 2 ^ 43 % 2 ^ (52 - 10) = 0 ∧ 2 ^ 42 * 3 + 2 ^ (52 - 10) ≤ 2 ^ 44
    ∧ ((managed 3 true .unlocked).holder 17).owners.length < 256 ∧ (managed 3 true .unlocked).mem.wf = true ∧ (managed 3 true .unlocked).chanFailed 8 0 = false
    ∧ (managed 3 true .unlocked).mgmtReady = true :=
  ⟨managed_secured 3 .unlocked, managed_secured 0 .run, by decide +kernel⟩
/-- An ownership table that is full. -/
theorem witness_WorldConfiguration_full : ∃ s : State, 256 ≤ ((s.holder 17).owners.filter (fun e => !(e.2.1 == 0 && e.2.2 == 10))).length :=
  ⟨{ State.reset with holders := [(17, { anns := [], owners := List.replicate 256 (3, 1, 11) })] }, by decide +kernel⟩

/-- World 3 with a crew, and with none, while a stop is under way and before. -/
def ending (n : Nat) (k : Crew) : State :=
  { managed 3 true .run with crews := [(1, some { k with world := 3 })]
                             worlds := [(0, worldZero), (3, { state := .run, session := some 4, stopping := if n = 0 then none else some (4, 77) })] }
theorem witness_WorldInterfaces :
    Claims.secured (managed 3 true .unlocked) 4 (session 3 true) ∧ Claims.secured (ending 0 crew) 4 (session 3 true)
    ∧ (∃ k, (ending 0 crew).crew? 1 = some k ∧ k.world = 3 ∧ k.status ≠ .gone)
    ∧ ((managed 3 true .unlocked).world 3).state = .unlocked ∧ ((managed 3 true .locked).world 3).state = .locked
    ∧ ((managed 3 true .run).world 3).state ≠ .locked ∧ (ending 0 crew).mgmtReady = true ∧ ((ending 0 crew).world 3).stopping ≠ some (4, 77)
    ∧ card.order < (ending 0 crew).nextId ∧ ((ending 1 crew).world 3).stopping = some (4, 77) ∧ (ending 1 crew).worldEmpty 3 = false
    ∧ (ending 1 { crew with status := .gone }).worldEmpty 3 = true :=
  ⟨managed_secured 3 .unlocked, ⟨rfl, rfl⟩, ⟨_, rfl, rfl, by decide⟩, by decide +kernel⟩

/-- A watch of world 3, a connection of world 3 that is up and one that is not, a sampler card, a ring whose pages world 0 owns. -/
def serviced : State :=
  { managed 3 true .run with piers := [(7, { watches := [(63, some { world := 3, base := 0, len := 52, mode := true })] })]
                             net := { conns := [(7, some { conn with world := 3, unackd := [] }), (8, some { conn with world := 3, up := false })] } }
theorem witness_ServiceMessages :
    Claims.secured serviced 4 (session 3 true) ∧ (∃ h off, (managed 3 true .run).homeOf 0 3 0x10000 = .ok (h, off) ∧ (managed 3 true .run).ownerOf h off ≠ 3)
    ∧ serviced.mgmtReady = true ∧ Claims.accepted serviced (session 3 true) 3 true ∧ (tget none (serviced.pier 7).watches 63).isSome = true
    ∧ (serviced.conn? 7).map Conn.up = some true ∧ (serviced.conn? 8).map Conn.up = some false ∧ (serviced.conn? 7).map (fun c => (c.unackd.isEmpty, c.answers.isEmpty)) = some (true, true)
    ∧ serviced.conn? 9 = none ∧ serviced.capNet = true ∧ serviced.net.cmds = []
    ∧ (managed 0 true .run).mgmtReady = true ∧ Claims.accepted (managed 0 true .run) (session 0 true) 0 true ∧ samplerCard ((managed 0 true .run).templateAt 16 0 0x8000) = true
    ∧ samplerCard ((managed 0 true .run).templateAt 16 0 0x9000) = false ∧ (managed 0 true .run).ringOwned 0 0xFF 0x10000 64 = true
    ∧ (managed 3 true .run).ringOwned 3 0xFF 0x10000 64 = false := by
  exact ⟨⟨rfl, rfl⟩, ⟨8, 0x10000, by decide +kernel, by decide +kernel⟩, by decide +kernel⟩

/-! ## Boot and the step -/

/-- Before a start, in one, and after; slot A good and not, and with firmware that fails; three failed starts; a session of world 0. -/
def booting (st : Nat) (b : Boot) : State := { State.reset with boot := { b with stage := st }, capDies := 1 }
theorem witness_BootAndRestart :
    Claims.secured (managed 0 true .run) 4 (session 0 true)
    ∧ State.reset.boot.stage = 0 ∧ State.reset.boot.count < 3 ∧ 3 ≤ ({ flashA := (1, 3) } : Boot).count ∧ State.reset.boot.slotA.good = true
    ∧ ((List.range 64).filter (fun i => State.reset.boot.fuses.getLsbD i)).length ≤ State.reset.boot.slotA.version
    ∧ ({ fails := some 2 } : ImageSlot).good = true ∧ ({ good := false } : ImageSlot).fails = none
    ∧ Claims.starting (booting 1 {}) ∧ ¬ Claims.starting (booting 2 {}) ∧ (booting 1 {}).dieUp 1 = false ∧ ((booting 1 {}).die 1).calFailed = false ∧ (booting 1 {}).capDies ≠ 0
    ∧ ((booting 1 {}).die 1).silent = false ∧ ((booting 1 {}).pier (attach 1 0)).dramFailed = false ∧ ((1 : BitVec 64).getLsbD 0 = true) ∧ (managed 0 true .run).mgmtReady = true :=
  ⟨managed_secured 0 .run, by decide +kernel⟩

/-- A team that may issue, at a word of its open clause, at a word that is none, and before a header; a late trap; a stop with no pass left. -/
def turned (t : Team) : State := { paged t crew with agenda := [.issue 0 2] }
noncomputable def before (t : Team) : State := { ({ turned t with agenda := [] } : State).elapse 1 with cur := 2 }
theorem witness_StepRunsTheDecoded :
    (turned team).agenda = .issue 0 2 :: [] ∧ (before team).crewIssues crew = true ∧ (before team).yields 2 = false ∧ team.stopRoom ≠ some 0
    ∧ (before team).team? 2 = some team ∧ team.status = .running ∧ team.hold = .none ∧ team.late = none
    ∧ (stopped false).stopRoom = some 0
    ∧ (match decode 0x0403060A 0 with | .ok i => decide (i = .add 6 6 5 0) | .error _ => false) = true ∧ hasMagic 0x0403060A = false ∧ (decode 0xFC00_0000 0).toOption.isNone = true
    ∧ (match decodeHeader 0xB7010001 with | .ok i => decide (i = .clauseHeader 0 0 1 0 0 0 0 1) | .error _ => false) = true
    ∧ ({ team with clause := none } : Team).refill = some { team with clause := none }
    ∧ ((before { team with clause := none }).fetchWord crew 0x4000).2.toOption = some 0xB7010001 ∧ hasMagic 0xB7010001 = true
    ∧ ((before { team with clause := none }).fetchWord crew 0x4004).2.toOption = some 0 ∧ hasMagic 0 = false
    ∧ ({ team with late := some { cause := 0x0A, hdrVA := 0x4000 } } : Team).late.isSome = true := by decide +kernel

/-- Card, code pair and the words that wait; a machine that has stepped; an instruction with words. -/
def identified : State := { pack with cards := [{ card with token := 5 }] }
theorem witness_CardIdentityRule :
    identified.Ready team crew clause ∧ opcodeOf 0b111000_0010_0000110_000000000000000 = 0x38 ∧ fnOf 0b111000_0010_0000110_000000000000000 = 2
    ∧ fnOf 0b111000_0100_0000110_000000000000000 = 4 ∧ (fld 0b111000_0010_0000110_000000000000001 0 15 : BitVec 15) ≠ 0 ∧ (identified.card? crew.tid).isSome = true
    ∧ identified.writable team (Claims.pairUnits 126) ∧ (127 : BitVec 7).toNat % 2 = 1 :=
  ⟨moved pack_ready rfl, by decide +kernel⟩

theorem witness_DecodeOfEncode : encode (.lim 1 127 0xFFFFFFFF) ≠ [] ∧ encode (.exit 7 1) ≠ [] := by decide

noncomputable def stepped (s : State) : Bool := match step s with | .next _ => true | .fault _ => false | .refused _ => false
theorem test_step_runs_the_placed_word : stepped (State.reset.withFetchWord 32 0x0403060A) = true := by decide +kernel
theorem test_step_runs_the_placed_header : stepped (State.reset.withFetchWord 32 0xB7010001) = true := by decide +kernel
theorem witness_StepKeepsSound : State.reset.sound ∧ ∃ s', step (State.reset.withFetchWord 32 0x0403060A) = .next s' := by
  refine ⟨⟨by decide, by decide, by decide⟩, ?_⟩
  have h := test_step_runs_the_placed_word
  unfold stepped at h
  split at h
  · exact ⟨_, by assumption⟩
  · cases h
  · cases h

/-! ## One step of the worked programs and examples of the spec -/

def full : Clause := { clause with guard := [0xFFFFFFFF] }
def fullTeam : Team := { team with clause := some full, v := (List.range 32).map (fun l => (vkey 1 l, { val := .word (BitVec.ofNat 32 l) })) }
def after (i : Instr) (t : Team) : Option Team := match exec i (boxed t crew) with | .next s => s.team? 2 | .fault _ => none | .refused _ => none
def laneAfter (i : Instr) (t : Team) (r l : Nat) : Option Val := (after i t).map (fun x => x.lane r l)
def flagsAfter (i : Instr) (t : Team) : Option (BitVec 5) := (after i t).map Team.fpf

/-- The worked clause of spec/06: dp4.s8 of −1, 3, 2, 1 with ones added to the lane; the sum 656 over lanes of L + 5; its FP32 word; a shift up. -/
def dotted : Team := { fullTeam with v := fullTeam.v ++ [(vkey 2 31, { val := .word 0x010203FF }), (vkey 3 31, { val := .word 0x01010101 })] }
def plus5 : Team := withU { fullTeam with v := (List.range 32).map (fun l => (vkey 1 l, { val := .word (BitVec.ofNat 32 (l + 5)) })) } 1 (.word 1)
theorem test_dp4 : laneAfter (.dp4S8 1 2 3 0) dotted 1 31 = some (.word 36) := by decide +kernel
theorem test_redadd : laneAfter (.redadd 4 1) plus5 4 17 = some (.word 0x290) := by decide +kernel
theorem test_shfl_up : laneAfter (.shflUp 6 1 1 1) plus5 6 0 = some (.word 5) ∧ laneAfter (.shflUp 6 1 1 1) plus5 6 31 = some (.word 35) := by decide +kernel
theorem test_cvt_f_i : laneAfter (.cvtFI 5 4) (withV fullTeam 4 0 (.word 0x290)) 5 0 = some (.word 0x44240000) ∧ flagsAfter (.cvtFI 5 4) (withV fullTeam 4 0 (.word 0x290)) = some 0 := by
  decide +kernel

/-- The table of special operands of spec/06 and its example: frcp of 2^−149 overflows with OF and NX; of −0 it is −∞ with DZ (NV 16, DZ 8, OF 4, UF 2, NX 1, R98). -/
def lone0 (x : Word) : Team := { team with clause := some { clause with guard := [1] }, v := [(vkey 9 0, { val := .word x })] }
theorem test_frcp_subnormal : laneAfter (.frcp 2 9) (lone0 1) 2 0 = some (.word 0x7F800000) ∧ flagsAfter (.frcp 2 9) (lone0 1) = some (flagOF ||| flagNX) := by decide +kernel
theorem test_frcp_minus_zero : laneAfter (.frcp 2 9) (lone0 0x80000000) 2 0 = some (.word 0xFF800000) ∧ flagsAfter (.frcp 2 9) (lone0 0x80000000) = some flagDZ := by
  decide +kernel

/-- The worked example of spec/09: plane rows of ones and of odd lanes; the array's sum of 16. -/
def padAfter (i : Instr) (t : Team) (a : Nat) : Option (List PByte) :=
  match exec i (boxed t crew) with | .next s => (s.crew? 1).map (fun k => k.spadBytes a 5) | .fault _ => none | .refused _ => none
def ones : Team := { fullTeam with v := (List.range 32).map (fun l => (vkey 2 l, { val := .word 1 })) }
theorem test_plnw_ones : padAfter (.plnw 2 0 0 0) ones 0 = some [some 0xFF, some 0xFF, some 0xFF, some 0xFF, some 0] := by decide +kernel
theorem test_plnw_odd : padAfter (.plnw 1 6 0 0) (withU fullTeam 6 (.word 64)) 64 = some [some 0xAA, some 0xAA, some 0xAA, some 0xAA, some 0] := by decide +kernel
theorem test_row_dot : rowDot 0x11 (List.replicate 4 (some 0xFF) ++ List.replicate 60 (some 0)) (List.replicate 4 (some 0xAA) ++ List.replicate 60 (some 0)) = some 16 := by decide +kernel

/-- The barrier word of the worked example of spec/10, step by step: pb.init, pb.exp 32, pb.arv, and the flip that the credit of 32 brings. -/
def barWord (w : PhaseWord) : BitVec 64 := w.bits
theorem test_phase_words :
    barWord { ph := false, exp := 1, rem := 1, ovr := false, byt := 0 } = 0x0010_0200_0000_0000
    ∧ barWord { ph := false, exp := 1, rem := 1, ovr := false, byt := 32 } = 0x0010_0200_0000_0020
    ∧ barWord { ph := false, exp := 1, rem := 0, ovr := false, byt := 32 } = 0x0010_0000_0000_0020
    ∧ barWord { ph := true, exp := 1, rem := 1, ovr := false, byt := 0 } = 0x8010_0200_0000_0000 := by decide
def phaseAfter (i : Instr) (t : Team) (k : Crew) : Option (BitVec 64) :=
  match exec i (boxed t k) with | .next s => (s.crew? 1).bind (fun k => (k.phaseAt 0).map PhaseWord.bits) | .fault _ => none | .refused _ => none
theorem test_pb_init : phaseAfter (.pbInit 11 10) (withU team 11 (.word 1)) crew = some 0x0010_0200_0000_0000 := by decide +kernel
theorem test_pb_arv : phaseAfter (.pbArv 10) team (crew.putPhase 0 { ph := false, exp := 1, rem := 1, ovr := false, byt := 32 }) = some 0x0010_0000_0000_0020 := by decide +kernel

/-- The worked example of spec/07: E1's value 42 is dropped where v6 has moved on to generation 2, and delivered to E2's slot. -/
def e1 : Entry :=
  { entry with instr := .add 6 5 7 0, mask := [1], slots := [{ unit := .vec 5 0, want := 1, got := some (.w (.word 40)) }, { unit := .vec 7 0, want := 0, got := some (.w (.word 2)) }]
               dests := [{ unit := .vec 6 0, gen := 1 }] }
def e2 : Entry := { e1 with instr := .stG 2 6 4 0 7, slots := [{ unit := .vec 6 0, want := 1, got := none }], dests := [] }
def gatherer : Team := { team with defOn := true, fifo := [e1, e2], v := [(vkey 6 0, { val := .word 7, gen := 2 })] }
theorem test_residual_entry :
    (match exec (.residualEntryRun 2) (boxed gatherer crew) with
      | .next s => (s.team? 2).map (fun t => (t.lane 6 0, t.fifo.map (fun e => e.slots.map Slot.got))) | .fault _ => none | .refused _ => none)
      = some (.word 7, [[some (.w (.word 42))]]) := by decide +kernel

/-- R2, R310: CAP of F9-A with eight dies in service; the distances of the tables of spec/01. -/
theorem test_cap : (after (.rdsys 5 0) team).map (fun t => t.uniform 5) = some (.word 0x1FF03) := by decide +kernel
theorem test_distances :
    (List.range 8).map (fun p => distance 0 (8 + p)) = [1, 1, 2, 3, 2, 2, 3, 2] ∧ (List.range 8).map (fun d => distance d 16) = [2, 2, 2, 2, 3, 3, 3, 2]
    ∧ (List.range 8).map (fun d => distance d 17) = [3, 3, 3, 2, 2, 2, 2, 2] := by decide +kernel

end Sys2Proof.Tests
end

section
/-! PROOF. Poison tests (R83 to R85): what `ptst`, `pchk` and `pchks` find, where they trap and where they wait. -/

namespace Sys2Proof.Machine

/-! ## Words whose effect is a trap -/

theorem Trap.cause_atLane (tr : Trap) (whole : Bool) (m : Mask) : (tr.atLane whole m).cause = tr.cause := by
  unfold Trap.atLane; split <;> rfl

/-- A plan whose effect is a trap takes it. -/
theorem direct_trapped {s : State} {t : Team} {k : Crew} {c : Clause} {m rest : Mask} {cut : Bool} {p : Plan} {tr : Trap}
    (hcur : s.team? s.cur = some t) (hs : t.status ≠ .ended)
    (hact : p.act (Env.ofTeam s.cur t c m rest p.w) (s.entered p t c) = .trap tr) :
    ∃ t', s.Trapped (s.direct p t k c m rest cut) t t' tr.cause c.hdrVA := by
  have hd : s.direct p t k c m rest cut = (s.violated s.cur (tr.atLane p.whole m)).takeTrap s.cur c.hdrVA (tr.atLane p.whole m) := by
    simp only [State.entered] at hact
    simp only [State.direct, hact]
  have teams : ∀ u, (s.violated s.cur (tr.atLane p.whole m)).team? u = s.team? u := fun u => by simp [State.team?]
  obtain ⟨t', x⟩ := takeTrap_trapped (s := s.violated s.cur (tr.atLane p.whole m)) (by rw [State.violated_cur, teams]; exact hcur) hs c.hdrVA
    (tr.atLane p.whole m) false
  rw [State.violated_cur, ← hd, Trap.cause_atLane] at x
  exact ⟨t', by simpa using x.after, x.suspended, x.reported, x.place, x.registers,
    fun u hu => (x.others u (by simpa using hu)).trans (teams u), by simpa using x.memory⟩

/-- A ready word that meets nothing and whose effect is a trap. -/
theorem traps_of {s : State} {t : Team} {k : Crew} {c : Clause} {m : Mask} {i : Instr} {i' : Option Instr} {p : Plan} {tr : Trap}
    (hx : exec i s = .next (s.issueWord i' p)) (h : s.Ready t k c) (g : p.Goes s t k c m)
    (hact : p.act (Env.ofTeam s.cur t c m m p.w) (s.entered p t c) = .trap tr) :
    ∃ s' t', exec i s = .next s' ∧ s.Trapped s' t t' tr.cause c.hdrVA := by
  obtain ⟨t', ht⟩ := direct_trapped (k := k) (cut := false) (current_team h.turn) (by simp [h.running]) hact
  rw [← issueWord_goes i' h g] at ht
  exact ⟨_, t', hx, ht⟩

/-! ## Words that wait -/

/-- `State.AtWord`, but words captured before this one may still stand in the FIFO. -/
structure State.Stands (s : State) (t : Team) (k : Crew) (c : Clause) : Prop where
  turn : s.current = some (t, k)
  opened : t.clause = some c
  issued : c.issued = true
  running : t.status = .running
  unheld : t.hold = .none
  onTime : t.late = none
  unarmed : t.stop.arm = false
  unstopped : t.stop.mode = false

/-- A whole-team word over the acting lanes that passes every check made before its operands are looked at; it names no wait counter and no
register that holds it in every mode. -/
structure Plan.Passes (p : Plan) (s : State) (t : Team) (k : Crew) (c : Clause) : Prop where
  whole : p.whole = true
  guarded : p.noGuard = false
  someLane : Mask.none (t.acting c) = false
  present : p.absent s = false
  formed : p.ill = none
  placed : p.place t = none
  regs : p.regs t (t.acting c) = none
  priv : p.priv k = none
  uncounted : p.w = 7
  unheld : p.hold t = []

/-- Such a word goes on once what it reads and writes has landed. -/
theorem Plan.Passes.goes {p : Plan} {s : State} {t : Team} {k : Crew} {c : Clause} (g : p.Passes s t k c)
    (srcs : ∀ x ∈ p.srcs t (t.acting c), t.landed x.units) (part : p.part t (t.acting c) = []) (dsts : t.landed (p.dstWait s t (t.acting c)))
    (behind : p.behind t (t.acting c) = false) (atOnce : p.byPass = false) : p.Goes s t k c (t.acting c) where
  present := g.present
  formed := g.formed
  placed := g.placed
  regs := g.regs
  priv := g.priv
  room := fun _ => g.uncounted ▸ t.fullW_none
  held := by rw [g.unheld]; exact List.forall_mem_nil _
  srcs := srcs
  part := by rw [part]; exact List.forall_mem_nil _
  dsts := dsts
  behind := behind
  atOnce := atOnce
  acts := by rw [g.guarded]; rfl
  someLane := g.someLane

/-- Such a word that a reason keeps back shows the reason, and nothing else changes. -/
theorem Plan.Passes.waits {p : Plan} {s : State} {t : Team} {k : Crew} {c : Clause} {r : Nat} (g : p.Passes s t k c) (h : s.Stands t k c)
    (i : Option Instr) (hr : lowestReason (p.reasons s t c (t.acting c) c.deferring) = some r) :
    s.issueWord i p = s.setTeam s.cur { t with stall := r } := by
  have hroom : t.stopRoom = none := by simp [Team.stopRoom, h.unarmed]
  have h1 : ¬ (t.status ≠ .running ∨ t.hold ≠ .none ∨ c.issued = false) := by simp [h.running, h.unheld, h.issued]
  have stalls : s.stallTeam s.cur r = s.setTeam s.cur { t with stall := r } := by
    rw [State.stallTeam, State.modTeam_some _ _ t _ (current_team h.turn), if_pos h.running]
  have lane := g.someLane
  have regs := g.regs
  simp only [Team.acting] at lane regs hr
  simp only [State.issueWord, h.turn, h.opened, h1, h.onTime, hroom, h.unstopped, g.present, g.formed, g.placed, g.guarded, g.whole, lane, regs,
    g.priv, hr, stalls, if_false, reduceCtorEq, Bool.false_and, Bool.false_eq_true, Option.isSome_none, if_true, Bool.not_true, Bool.not_false,
    Bool.and_true]

/-- An operand of the list is pending. -/
theorem Team.anyPend_true {t : Team} {xs : List Src} (h : ¬ t.landed (xs.flatMap Src.units)) : t.anyPend xs = true := by
  by_contra hno
  simp only [Team.anyPend, List.any_eq_true, not_exists, not_and, Bool.not_eq_true] at hno
  refine h (fun r hr => ?_)
  obtain ⟨x, hx, hu⟩ := List.mem_flatMap.mp hr
  exact hno x hx r hu

/-- A parking word with a pending source waits for it in both modes, whatever its destination. -/
theorem Plan.Passes.reason_park {p : Plan} {s : State} {t : Team} {k : Crew} {c : Clause} {m : Mask} {d : Bool} (g : p.Passes s t k c)
    (hhow : p.how = .park) (hreason : p.reason ≤ 21) (hsrc : t.anyPend (p.srcs t m) = true) :
    lowestReason (p.reasons s t c m d) = some p.reason := by
  have hlow : ¬ 21 < p.reason := by omega
  simp only [Plan.reasons]
  generalize (p.dstWait s t m).any t.pend = owed
  cases d <;> cases owed <;> simp [lowestReason, Team.fullW, hhow, g.uncounted, g.unheld, hsrc, hlow]

/-- A draining word in deferring mode waits for the FIFO first, whatever its operands. -/
theorem Plan.Passes.reason_fifo {p : Plan} {s : State} {t : Team} {k : Crew} {c : Clause} {m : Mask} (g : p.Passes s t k c) (hhow : p.how = .drain)
    (hreason : 11 ≤ p.reason) (hfifo : t.fifo ≠ []) : lowestReason (p.reasons s t c m true) = some 11 := by
  have hlow : ¬ p.reason < 11 := by omega
  simp only [Plan.reasons]
  generalize t.anyPend (p.srcs t m) = read
  generalize (p.dstWait s t m).any t.pend = owed
  cases read <;> cases owed <;> simp [lowestReason, Team.fullW, hhow, g.uncounted, g.unheld, hlow, hfifo]

/-- Once nothing is captured, a draining word without a destination waits for its pending source. -/
theorem Plan.Passes.reason_drain {p : Plan} {s : State} {t : Team} {k : Crew} {c : Clause} {m : Mask} {d : Bool} (g : p.Passes s t k c)
    (hhow : p.how = .drain) (hdst : p.dstWait s t m = []) (hd : d = false ∨ t.fifo = []) (hsrc : t.anyPend (p.srcs t m) = true) :
    lowestReason (p.reasons s t c m d) = some p.reason := by
  have hempty : (d && !t.fifo.isEmpty) = false := by rcases hd with h | h <;> simp [h]
  simp [Plan.reasons, lowestReason, Team.fullW, hhow, g.uncounted, g.unheld, hdst, hsrc, hempty]

/-- A check waits for an empty FIFO in deferring mode, and then for what it reads. -/
theorem Plan.Passes.check_waits {p : Plan} {s : State} {t : Team} {k : Crew} {c : Clause} {i : Instr} (g : p.Passes s t k c) (h : s.Stands t k c)
    (hx : exec i s = .next (s.issueWord none p)) (hhow : p.how = .drain) (hreason : 11 ≤ p.reason) (hdst : p.dstWait s t (t.acting c) = []) :
    (c.deferring = true → t.fifo ≠ [] → exec i s = .next (s.setTeam s.cur { t with stall := 11 }))
    ∧ (c.deferring = false ∨ t.fifo = [] → ¬ t.landed ((p.srcs t (t.acting c)).flatMap Src.units) →
      ∃ x, exec i s = .next (s.setTeam s.cur { t with stall := x })) := by
  refine ⟨fun hd hf => ?_, fun hd hu => ⟨p.reason, ?_⟩⟩
  · rw [hx, g.waits h none (hd ▸ g.reason_fifo hhow hreason hf)]
  · rw [hx, g.waits h none (g.reason_drain hhow hdst hd (Team.anyPend_true hu))]

/-! ## The register that a test names (R83) -/

/-- The register is one of its class and within the allotment. -/
def Team.withinClass (t : Team) (r : BitVec 7) (l : BitVec 3) : Prop :=
  if l = 0 then r.toNat < t.vN else if l = 1 then True else if l = 2 then r.toNat < 8 else if l = 3 then r.toNat < t.aN else r.toNat < 16

/-- The units of a register of class l over a mask. -/
def classUnits (r : BitVec 7) (l : BitVec 3) (m : Mask) : List UnitRef :=
  if l = 0 then laneUnits r m else if l = 1 then [.uni r.toNat] else if l = 2 then wordUnits (r.setWidth 3) m
  else if l = 3 then [.acc r.toNat] else [.tile r.toNat]

theorem checkClass_none {t : Team} {r : BitVec 7} {l : BitVec 3} (h : t.withinClass r l) : checkClass r l t = none := by
  unfold Team.withinClass at h
  unfold checkClass
  refine if_neg (mt of_decide_eq_true ?_)
  split_ifs at h ⊢
  · omega
  · exact id
  · omega
  · omega
  · omega

theorem setWidth_pred {r : BitVec 7} (h : r.toNat < 8) : (r.setWidth 3).toNat = r.toNat := by
  rw [BitVec.toNat_setWidth]; exact Nat.mod_eq_of_lt h

theorem classUnits_pred {r : BitVec 7} (h : r.toNat < 8) (m : Mask) : classUnits r 2 m = (Mask.words m).map (UnitRef.pred r.toNat) := by
  rw [← setWidth_pred h]; rfl

theorem classSrc_units {t : Team} {r : BitVec 7} {l : BitVec 3} (h : t.withinClass r l) (m : Mask) : (classSrc r l m).units = classUnits r l m := by
  unfold Team.withinClass at h
  unfold classSrc classUnits
  split_ifs at h ⊢
  · rfl
  · rfl
  · simp only [pSrc, wordUnits, setWidth_pred h]
  · rfl
  · rfl

theorem illClass_none {l : BitVec 3} (h : l.toNat ≤ 4) : illClass l 5 = none := if_neg (by omega)

theorem illPtstWord_none {j : BitVec 5} {l : BitVec 3} (h : l.toNat = 0 ∨ l.toNat = 2 ∨ j = 0) : illPtstWord j l = none := by
  refine if_neg ?_
  rintro ⟨hj, hl⟩
  rcases h with h | h | h
  · rcases hl with rfl | rfl | rfl <;> cases h
  · rcases hl with rfl | rfl | rfl <;> cases h
  · exact hj h

theorem ptst_formed {d r : BitVec 7} {j : BitVec 5} {l : BitVec 3} (h : l.toNat ≤ 4) (hj : l.toNat = 0 ∨ l.toNat = 2 ∨ j = 0) :
    (ptstPlan d r j l).ill = none := by
  simp [ptstPlan, firstIll, illClass_none h, illPtstWord_none hj]

theorem pchks_formed {a : BitVec 7} {n : BitVec 8} (h0 : n ≠ 0) (h : a.toNat + n.toNat ≤ 128) : (pchksPlan a n).ill = none :=
  if_neg (by rintro (e | e) <;> [exact h0 e; omega])

/-! ## What the tests find -/

/-- The word that `ptst` writes (R84). -/
def Env.poisonWord (e : Env) (r : BitVec 7) (j : BitVec 5) (l : BitVec 3) : Word :=
  if l = 0 ∨ l = 2 then maskWord (fun i => Mask.has e.mask (32 * j.toNat + i) && e.laneBad r l (32 * j.toNat + i))
  else if l = 3 then partsBad (e.rd (.acc r.toNat)).accu.1
  else if e.wholeBad r l then 1 else 0

/-- What `pchk` looks for (R85). -/
def Env.foundBad (e : Env) (r : BitVec 7) (l : BitVec 3) : Prop :=
  if l = 0 ∨ l = 2 then ∃ i ∈ Mask.lanes e.mask, e.laneBad r l i = true else e.wholeBad r l = true

theorem ptstPlan_act (d r : BitVec 7) (j : BitVec 5) (l : BitVec 3) (e : Env) (s : State) :
    (ptstPlan d r j l).act e s = .ok { s := s, writes := [(.uni d.toNat, .w (.word (e.poisonWord r j l)))] } := rfl

theorem pchkPlan_act_ok {r : BitVec 7} {l : BitVec 3} {e : Env} (h : ¬ e.foundBad r l) (s : State) : (pchkPlan r l).act e s = .ok { s := s } := by
  simp only [Env.foundBad] at h
  simp only [pchkPlan]
  split_ifs at h ⊢
  · have clean : (Mask.lanes e.mask).find? (e.laneBad r l) = none := by simpa using h
    rw [clean]
  · rfl

theorem pchkPlan_act_trap {r : BitVec 7} {l : BitVec 3} {e : Env} (h : e.foundBad r l) (s : State) :
    ∃ tr, (pchkPlan r l).act e s = .trap tr ∧ tr.cause = 0x10 := by
  simp only [Env.foundBad] at h
  simp only [pchkPlan]
  split_ifs at h ⊢
  · obtain ⟨i, hi⟩ := Option.isSome_iff_exists.mp (List.find?_isSome.mpr h)
    rw [hi]
    exact ⟨_, rfl, rfl⟩
  · exact ⟨_, rfl, rfl⟩

/-! ## Poison in an accumulator -/

/-- In a table whose keys rise, what a key reads as, beside the default, is what the table lists for it. -/
theorem tget_eq_iff_mem {α : Type} {d v : α} (hv : v ≠ d) {t : Table α} (h : t.Pairwise (fun x y => x.1 < y.1)) (k : Nat) :
    tget d t k = v ↔ (k, v) ∈ t := by
  induction t with
  | nil => simp [tget, hv.symm]
  | cons e rest ih =>
    obtain ⟨j, u⟩ := e
    obtain ⟨later, hrest⟩ := List.pairwise_cons.mp h
    by_cases hj : j = k
    · subst hj
      have : (j, v) ∉ rest := fun hm => Nat.lt_irrefl j (later (j, v) hm)
      simp [tget, this, eq_comm]
    · simp [tget, hj, Ne.symm hj, ih hrest]

/-- Part q of an accumulator has a poisoned element. -/
def accPartBad (es : Table Val) (q : Nat) : Prop := ∃ i < 512, i % 64 / 32 + 2 * (i / 64) = q ∧ tget (.word 0) es i = .poison

theorem Val.isPoison_iff (v : Val) : v.isPoison = true ↔ v = .poison := by cases v <;> simp [Val.isPoison]

theorem partsBad_getLsbD (es : Table Val) {q : Nat} (hq : q < 16) : (partsBad es).getLsbD q = true ↔ accPartBad es q := by
  simp only [partsBad, maskWord_getLsbD, Bool.and_eq_true, decide_eq_true_eq, List.any_eq_true, List.mem_range, Val.isPoison_iff, accPartBad, partKey,
    elemKey]
  constructor
  · rintro ⟨-, -, i, hi, hp⟩
    exact ⟨_, by omega, by omega, hp⟩
  · rintro ⟨i, hi, rfl, hp⟩
    refine ⟨by omega, hq, i % 32, by omega, ?_⟩
    convert hp using 2
    omega

theorem partsBad_eq {es : Table Val} {w : Word} (hlow : ∀ q < 16, w.getLsbD q = true ↔ accPartBad es q) (hhigh : ∀ q, 16 ≤ q → w.getLsbD q = false) :
    partsBad es = w := by
  apply BitVec.eq_of_getLsbD_eq
  intro q _
  by_cases hq : q < 16
  · rw [Bool.eq_iff_iff, partsBad_getLsbD es hq, hlow q hq]
  · simp [partsBad, hq, hhigh q (by omega)]

/-- A listed element is poisoned just when some part is. -/
theorem any_poison_iff {es : Table Val} (hlt : ∀ x ∈ es, x.1 < 512) (h : es.Pairwise (fun x y => x.1 < y.1)) :
    es.any (fun x => x.2.isPoison) = true ↔ ∃ q < 16, accPartBad es q := by
  simp only [List.any_eq_true, Val.isPoison_iff, accPartBad, tget_eq_iff_mem (d := Val.word 0) (v := .poison) (by simp) h]
  constructor
  · rintro ⟨⟨i, v⟩, hm, rfl⟩
    have := hlt _ hm
    exact ⟨_, by omega, i, this, rfl, hm⟩
  · rintro ⟨q, -, i, -, -, hm⟩
    exact ⟨_, hm, rfl⟩

/-! ## Each class: what `ptst` writes and what `pchk` looks for -/

section
variable (u : Nat) (t : Team) (c : Clause) (m : Mask) (r : BitVec 7) (j : BitVec 5)

/-- A test over the mask `m`. -/
abbrev testEnv : Env := Env.ofTeam u t c m m 7

theorem poisonWord_vec : (testEnv u t c m).poisonWord r j 0
    = maskWord (fun i => Mask.has m (32 * j.toNat + i) && (t.lane r.toNat (32 * j.toNat + i)).isPoison) := rfl
theorem poisonWord_uni : (testEnv u t c m).poisonWord r j 1 = if (t.uniform r.toNat).isPoison then 1 else 0 := rfl
theorem poisonWord_pred (hr : r.toNat < 8) : (testEnv u t c m).poisonWord r j 2
    = maskWord (fun i => Mask.has m (32 * j.toNat + i) && t.flagBad (r.setWidth 3) (32 * j.toNat + i)) := by
  simp only [Team.flagBad, setWidth_pred hr]; rfl
theorem poisonWord_acc : (testEnv u t c m).poisonWord r j 3 = partsBad (t.unit (.acc r.toNat)).accu.1 := rfl
theorem poisonWord_tile : (testEnv u t c m).poisonWord r j 4 = if (t.unit (.tile r.toNat)).tile.2 then 1 else 0 := rfl

theorem foundBad_vec : (testEnv u t c m).foundBad r 0 ↔ ∃ l ∈ Mask.lanes m, (t.lane r.toNat l).isPoison = true := Iff.rfl
theorem foundBad_uni : (testEnv u t c m).foundBad r 1 ↔ (t.uniform r.toNat).isPoison = true := Iff.rfl
theorem foundBad_pred (hr : r.toNat < 8) : (testEnv u t c m).foundBad r 2 ↔ ∃ l ∈ Mask.lanes m, t.flagBad (r.setWidth 3) l = true := by
  simp only [Team.flagBad, setWidth_pred hr]; rfl
theorem foundBad_acc (hlt : ∀ x ∈ (t.unit (.acc r.toNat)).accu.1, x.1 < 512)
    (hkeys : (t.unit (.acc r.toNat)).accu.1.Pairwise (fun x y => x.1 < y.1)) :
    (testEnv u t c m).foundBad r 3 ↔ ∃ q < 16, accPartBad (t.unit (.acc r.toNat)).accu.1 q := any_poison_iff hlt hkeys
theorem foundBad_tile : (testEnv u t c m).foundBad r 4 ↔ (t.unit (.tile r.toNat)).tile.2 = true := Iff.rfl

end

/-! ## The tests carried out -/

section
variable {s : State} {t : Team} {k : Crew} {c : Clause} {d r : BitVec 7} {j : BitVec 5} {l : BitVec 3} {n : BitVec 8}

theorem ptst_passes (hm : Mask.none (t.acting c) = false) (hl : l.toNat ≤ 4) (hj : l.toNat = 0 ∨ l.toNat = 2 ∨ j = 0) (hin : t.withinClass r l) :
    (ptstPlan d r j l).Passes s t k c :=
  ⟨rfl, rfl, hm, rfl, ptst_formed hl hj, rfl, checkClass_none hin, rfl, rfl, rfl⟩

theorem pchk_passes (hm : Mask.none (t.acting c) = false) (hl : l.toNat ≤ 4) (hin : t.withinClass r l) : (pchkPlan r l).Passes s t k c :=
  ⟨rfl, rfl, hm, rfl, illClass_none hl, rfl, checkClass_none hin, rfl, rfl, rfl⟩

theorem pchks_passes (hm : Mask.none (t.acting c) = false) (h0 : n ≠ 0) (hn : r.toNat + n.toNat ≤ 128) : (pchksPlan r n).Passes s t k c :=
  ⟨rfl, rfl, hm, rfl, pchks_formed h0 hn, rfl, rfl, rfl, rfl, rfl⟩

/-- `ptst` writes what it finds, and nothing else. -/
theorem ptst_completes {w : Word} (h : s.Ready t k c) (hm : Mask.none (t.acting c) = false) (hl : l.toNat ≤ 4)
    (hj : l.toNat = 0 ∨ l.toNat = 2 ∨ j = 0) (hin : t.withinClass r l) (hu : t.landed (classUnits r l ((t.acting c).only j.toNat)))
    (hw : (testEnv s.cur t c (t.acting c)).poisonWord r j l = w) (hd : s.writable t [.uni d.toNat]) :
    s.Completes (.ptst d r j l) t k 1 1 [(.uni d.toNat, .w (.word w))] 0 := by
  have goes := (ptst_passes (s := s) (k := k) (d := d) hm hl hj hin).goes (List.forall_mem_singleton.mpr (by rwa [classSrc_units hin])) rfl
    (writable_landed hd) rfl rfl
  exact uniform_completes (i' := none) (p := ptstPlan d r j l) d (.word w) 1 rfl h goes rfl (by rw [ptstPlan_act, hw]) hd rfl rfl

/-- A word that writes no register and finds no fault goes on with nothing changed. -/
theorem check_completes {i : Instr} {p : Plan} (hx : exec i s = .next (s.issueWord none p)) (h : s.Ready t k c) (g : p.Passes s t k c)
    (goes : p.Goes s t k c (t.acting c)) (hone : p.two = false)
    (hact : ∀ s', p.act (testEnv s.cur t c (t.acting c)) s' = .ok { s := s' }) : s.Completes i t k 1 1 [] 0 :=
  completes_of hx h goes g.uncounted (hact _) List.nodup_nil (List.forall_mem_nil _) (List.forall_mem_nil _) (by simp [hone]) (by simp [g.whole])

/-- `pchk` goes on where it finds no poison and traps where it finds some. -/
theorem pchk_outcome {bad : Prop} (h : s.Ready t k c) (hm : Mask.none (t.acting c) = false) (hl : l.toNat ≤ 4) (hin : t.withinClass r l)
    (hu : t.landed (classUnits r l (t.acting c))) (hb : (testEnv s.cur t c (t.acting c)).foundBad r l ↔ bad) :
    (¬ bad → s.Completes (.pchk r l) t k 1 1 [] 0) ∧ (bad → ∃ s' t', exec (.pchk r l) s = .next s' ∧ s.Trapped s' t t' 0x10 c.hdrVA) := by
  have passes := pchk_passes (s := s) (k := k) hm hl hin
  have goes := passes.goes (List.forall_mem_singleton.mpr (by rwa [classSrc_units hin])) rfl (List.forall_mem_nil _) rfl rfl
  refine ⟨fun hnot => check_completes rfl h passes goes rfl (pchkPlan_act_ok (mt hb.mp hnot)), fun hbad => ?_⟩
  obtain ⟨tr, hact, hcause⟩ := pchkPlan_act_trap (hb.mpr hbad) (s.entered (pchkPlan r l) t c)
  rw [← hcause]
  exact traps_of (i' := none) rfl h goes hact

theorem pchksPlan_act_ok {e : Env} (h : ∀ i < n.toNat, (e.u (r.toNat + i)).isPoison = false) (s : State) :
    (pchksPlan r n).act e s = .ok { s := s } := if_neg (by simpa using h)

theorem pchksPlan_act_trap {e : Env} (h : ∃ i < n.toNat, (e.u (r.toNat + i)).isPoison = true) (s : State) :
    (pchksPlan r n).act e s = .trap { cause := 0x10, mask := some 0 } := if_pos (by simpa using h)

/-- `pchks` goes on where it finds no poison and traps where it finds some. -/
theorem pchks_outcome (h : s.Ready t k c) (hm : Mask.none (t.acting c) = false) (h0 : n ≠ 0) (hn : r.toNat + n.toNat ≤ 128)
    (hu : t.landed ((List.range n.toNat).map (fun i => UnitRef.uni (r.toNat + i)))) :
    ((∀ i < n.toNat, (t.uniform (r.toNat + i)).isPoison = false) → s.Completes (.pchks r n) t k 1 1 [] 0)
    ∧ ((∃ i < n.toNat, (t.uniform (r.toNat + i)).isPoison = true) →
      ∃ s' t', exec (.pchks r n) s = .next s' ∧ s.Trapped s' t t' 0x10 c.hdrVA) := by
  have passes := pchks_passes (s := s) (k := k) hm h0 hn
  have goes := passes.goes (List.forall_mem_map.mpr (fun _ hi => List.forall_mem_singleton.mpr (hu _ (List.mem_map_of_mem hi)))) rfl
    (List.forall_mem_nil _) rfl rfl
  exact ⟨fun hok => check_completes rfl h passes goes rfl (pchksPlan_act_ok hok),
    fun hbad => traps_of (i' := none) rfl h goes (pchksPlan_act_trap hbad _)⟩

/-! ## The tests kept back -/

/-- `ptst` parks with stall reason 2 while a word it names is pending. -/
theorem ptst_parks (h : s.Stands t k c) (hm : Mask.none (t.acting c) = false) (hl : l.toNat ≤ 4) (hin : t.withinClass r l)
    (hj : l.toNat = 0 ∨ l.toNat = 2 ∨ j = 0) (hu : ¬ t.landed (classUnits r l ((t.acting c).only j.toNat))) :
    exec (.ptst d r j l) s = .next (s.setTeam s.cur { t with stall := 2 }) := by
  have passes := ptst_passes (s := s) (k := k) (d := d) hm hl hj hin
  have pending : t.anyPend ((ptstPlan d r j l).srcs t (t.acting c)) = true := Team.anyPend_true (by simpa [ptstPlan, classSrc_units hin] using hu)
  exact congrArg _ (passes.waits h none (passes.reason_park rfl (by simp [ptstPlan]) pending))

/-- `pchk` waits for an empty FIFO in deferring mode, and then for the register it checks. -/
theorem pchk_waits (h : s.Stands t k c) (hm : Mask.none (t.acting c) = false) (hl : l.toNat ≤ 4) (hin : t.withinClass r l) :
    (c.deferring = true → t.fifo ≠ [] → exec (.pchk r l) s = .next (s.setTeam s.cur { t with stall := 11 }))
    ∧ (c.deferring = false ∨ t.fifo = [] → ¬ t.landed (classUnits r l (t.acting c)) →
      ∃ x, exec (.pchk r l) s = .next (s.setTeam s.cur { t with stall := x })) := by
  have waits := (pchk_passes (s := s) (k := k) hm hl hin).check_waits (i := .pchk r l) h rfl rfl (by simp [pchkPlan]) rfl
  have units : ((pchkPlan r l).srcs t (t.acting c)).flatMap Src.units = classUnits r l (t.acting c) := by simp [pchkPlan, classSrc_units hin]
  rwa [units] at waits

/-- `pchks` waits for an empty FIFO in deferring mode, and then for the registers it checks. -/
theorem pchks_waits (h : s.Stands t k c) (hm : Mask.none (t.acting c) = false) (h0 : n ≠ 0) (hn : r.toNat + n.toNat ≤ 128) :
    (c.deferring = true → t.fifo ≠ [] → exec (.pchks r n) s = .next (s.setTeam s.cur { t with stall := 11 }))
    ∧ (c.deferring = false ∨ t.fifo = [] → ¬ t.landed ((List.range n.toNat).map (fun i => UnitRef.uni (r.toNat + i))) →
      ∃ x, exec (.pchks r n) s = .next (s.setTeam s.cur { t with stall := x })) := by
  have waits := (pchks_passes (s := s) (k := k) hm h0 hn).check_waits (i := .pchks r n) h rfl rfl (by simp [pchksPlan]) rfl
  have units : ((pchksPlan r n).srcs t (t.acting c)).flatMap Src.units = (List.range n.toNat).map (fun i => UnitRef.uni (r.toNat + i)) := by
    rw [List.map_eq_flatMap]; exact List.flatMap_map ..
  rwa [units] at waits

end

/-! ## The obligation -/

/-- One class of register after the other, as R84 and R85 list them. -/
theorem poisonTests : Claims.PoisonTests := by
  intro d r j n s t k c h hm m test check accBad
  have tested := fun (l : BitVec 3) (w : Word) => ptst_completes (d := d) (r := r) (j := j) (l := l) (w := w) h hm
  refine ⟨fun hin => ?_, fun hu => ?_, fun hr => ?_, fun hr hu hlt hkeys => ?_, fun hr hu => ?_, fun h0 hn hu => ?_⟩
  · have hin : t.withinClass r 0 := hin r (List.mem_singleton_self r)
    exact ⟨fun hu => tested 0 _ (by decide) (.inl rfl) hin hu (poisonWord_vec ..), fun hu => pchk_outcome h hm (by decide) hin hu (foundBad_vec ..)⟩
  · exact ⟨fun hj => tested 1 _ (by decide) (.inr (.inr hj)) trivial hu (poisonWord_uni ..),
      pchk_outcome h hm (by decide) trivial hu (foundBad_uni ..)⟩
  · exact ⟨fun hu => tested 2 _ (by decide) (.inr (.inl rfl)) hr (by rwa [classUnits_pred hr]) (poisonWord_pred _ _ _ _ _ _ hr),
      fun hu => pchk_outcome h hm (by decide) hr hu (foundBad_pred _ _ _ _ _ hr)⟩
  · exact ⟨fun hj w hlow hhigh => tested 3 w (by decide) (.inr (.inr hj)) hr hu (partsBad_eq hlow hhigh),
      pchk_outcome h hm (by decide) hr hu (foundBad_acc _ _ _ _ _ hlt hkeys)⟩
  · exact ⟨fun hj => tested 4 _ (by decide) (.inr (.inr hj)) hr hu (poisonWord_tile ..), pchk_outcome h hm (by decide) hr hu (foundBad_tile ..)⟩
  · exact pchks_outcome h hm h0 hn hu

/-- What keeps each test back. -/
theorem poisonTestsWait : Claims.PoisonTestsWait := by
  intro d r j n s t k c turn opened issued running unheld onTime unarmed unstopped hm m unit within
  have h : s.Stands t k c := ⟨turn, opened, issued, running, unheld, onTime, unarmed, unstopped⟩
  exact ⟨fun l hl hin => ⟨ptst_parks h hm hl hin, pchk_waits h hm hl hin⟩, pchks_waits h hm⟩

/-- Settles O33: `ptst` completes with what it finds in each class of register, `pchk` and `pchks` go on or trap by what they find; what
keeps each back is the lowest reason of its plan. -/
theorem poisonTestRules : Obligations.PoisonTestRules := ⟨poisonTests, poisonTestsWait⟩

end Sys2Proof.Machine
end

section
/-! PROOF. Predicate operations (R125): which words are of PRED, what each operation writes, and p0 as its destination. -/

namespace Sys2Proof.Machine

/-! ## The words of PRED -/

theorem decode_pred {w : Word} (h : opcodeOf w = 0x10) (lit : Word) : decode w lit = decodeOp10 w := by simp [decode, h]

theorem need_true {α : Type} {ok : Bool} (h : ok = true) (i : α) : need ok i = .ok i := if_pos h
theorem need_false {α : Type} {ok : Bool} (h : ok ≠ true) (i : α) : need ok i = .error .reservedField := if_neg h

/-- A field fixed at 0 is one that is 0. -/
theorem fixed_zero_iff {w : Word} {lo n : Nat} : fixed w lo n 0 = true ↔ fld w lo n = 0 := by
  simp [fixed, ← BitVec.toNat_inj]

/-- The 16 bits below `pa` are `pb` and the 13 bits that PP reserves. -/
theorem fixed_below_pa_iff {w : Word} : fixed w 0 16 0 = true ↔ fld w 13 3 = 0 ∧ fld w 0 13 = 0 := by
  simp only [fixed_zero_iff, fld, ← BitVec.toNat_inj, BitVec.extractLsb'_toNat, BitVec.ofNat_eq_ofNat, BitVec.toNat_ofNat, Nat.zero_mod,
    Nat.shiftRight_eq_div_pow, Nat.pow_zero, Nat.div_one]
  omega

/-- Each member has an FN of its own. -/
theorem pred_decodes {w : Word} (hop : opcodeOf w = 0x10) (h0 : fld w 0 13 = 0) (lit : Word) :
    (fnOf w = 0 → decode w lit = .ok (.pand (fld w 19 3) (fld w 16 3) (fld w 13 3)))
    ∧ (fnOf w = 1 → decode w lit = .ok (.por (fld w 19 3) (fld w 16 3) (fld w 13 3)))
    ∧ (fnOf w = 2 → decode w lit = .ok (.pxor (fld w 19 3) (fld w 16 3) (fld w 13 3)))
    ∧ (fnOf w = 3 → decode w lit = .ok (.pandn (fld w 19 3) (fld w 16 3) (fld w 13 3)))
    ∧ (fld w 13 3 = 0 → (fnOf w = 4 → decode w lit = .ok (.pnot (fld w 19 3) (fld w 16 3)))
      ∧ (fnOf w = 5 → decode w lit = .ok (.pmov (fld w 19 3) (fld w 16 3)))) := by
  have two (i : Instr) := need_true (fixed_zero_iff.mpr h0) i
  have one (hb : fld w 13 3 = 0) (i : Instr) := need_true (fixed_below_pa_iff.mpr ⟨hb, h0⟩) i
  rw [decode_pred hop, decodeOp10]
  refine ⟨fun hfn => ?_, fun hfn => ?_, fun hfn => ?_, fun hfn => ?_, fun hb => ⟨fun hfn => ?_, fun hfn => ?_⟩⟩ <;> rw [hfn]
  exacts [two _, two _, two _, two _, one hb _, one hb _]

/-- A word of PRED that sets a bit PP reserves, has an unassigned FN, or names a `pb` that its member does not have. -/
def badPred (w : Word) : Prop := fld w 0 13 ≠ 0 ∨ 6 ≤ fnOf w ∨ (4 ≤ fnOf w ∧ fld w 13 3 ≠ 0)

theorem decodeOp10_error {w : Word} (h : badPred w) : ∃ e, decodeOp10 w = .error e := by
  have two (hfn : fnOf w < 4) : fixed w 0 13 0 ≠ true := by
    rw [Ne, fixed_zero_iff]
    rcases h with h | h | ⟨h, -⟩ <;> [exact h; omega; omega]
  have one (hfn : fnOf w < 6) : fixed w 0 16 0 ≠ true := by
    rw [Ne, fixed_below_pa_iff]
    rcases h with h | h | ⟨-, h⟩ <;> [exact fun e => h e.2; omega; exact fun e => h e.1]
  unfold decodeOp10
  split
  · exact ⟨_, need_false (two (by omega)) _⟩
  · exact ⟨_, need_false (two (by omega)) _⟩
  · exact ⟨_, need_false (two (by omega)) _⟩
  · exact ⟨_, need_false (two (by omega)) _⟩
  · exact ⟨_, need_false (one (by omega)) _⟩
  · exact ⟨_, need_false (one (by omega)) _⟩
  · exact ⟨_, rfl⟩

/-- A word that decodes to nothing is an illegal instruction, unless its opcode is the network's (R3). -/
theorem badWordTrap_cause {w : Word} (h : opcodeOf w ≠ 0x3B) (net : Bool) : (badWordTrap net w).cause = 0x01 := by
  simp [badWordTrap, h, Trap.illegalInstruction]

theorem pred_noInstruction {w : Word} (hop : opcodeOf w = 0x10) (h : badPred w) : Claims.noInstruction w :=
  fun lit net => ⟨decode_pred hop lit ▸ decodeOp10_error h, badWordTrap_cause (by simp [hop]) net⟩

/-! ## What a predicate operation writes -/

/-- A lane of the result: poison when a source has it, else `f` of the sources' bits; a member of one source has no second. -/
def predLane (t : Team) (a : BitVec 3) (b : Option (BitVec 3)) (f : Bool → Bool → Bool) (l : Nat) : Bool × Bool :=
  if t.flagBad a l || b.any (t.flagBad · l) then (false, true) else (f (t.flag a l) (b.any (t.flag · l)), false)

theorem predLane_one (t : Team) (a : BitVec 3) (f : Bool → Bool → Bool) :
    predLane t a none f = fun l => if t.flagBad a l then (false, true) else (f (t.flag a l) false, false) := by
  funext l; simp [predLane]

theorem predLane_two (t : Team) (a b : BitVec 3) (f : Bool → Bool → Bool) :
    predLane t a (some b) f
      = fun l => if t.flagBad a l ∨ t.flagBad b l then (false, true) else (f (t.flag a l) (t.flag b l), false) := by
  funext l; simp [predLane]

/-- p0 reads 1 in every lane, and is never poisoned. -/
theorem flag_p0 (t : Team) (l : Nat) : t.flag 0 l = true ∧ t.flagBad 0 l = false := by
  have ones : (BitVec.allOnes 32).getLsbD (l % 32) = true := by rw [BitVec.getLsbD_allOnes]; exact decide_eq_true (Nat.mod_lt l (by decide))
  exact ⟨ones, BitVec.getLsbD_zero⟩

section
variable {s : State} {t : Team} {k : Crew} {c : Clause} {i : Instr}

/-- A word that writes a predicate lane by lane, reads no old bit and raises no flag. -/
theorem predPlan_writes {p : BitVec 3} {srcs : Mask → List Src} {f : Env → Nat → Bool × Bool → Bool × Bool × Flags} (g : Nat → Bool × Bool)
    (hx : exec i s = issue i (predPlan p.toNat (fun _ _ => none) srcs false f) s) (h : s.Ready t k c) (hm : Mask.none (t.acting c) = false)
    (hp : p ≠ 0) (hs : ∀ x ∈ srcs (t.acting c), t.landed x.units) (hd : s.writable t (wordUnits p (t.acting c)))
    (hf : ∀ l old, f (Env.ofTeam s.cur t c (t.acting c) (t.acting c) 7) l old = ((g l).1, (g l).2, 0)) :
    s.Completes i t k 1 (Mask.passes (t.acting c)) (Claims.predWrites t p (t.acting c) g) 0 := by
  have done := predPlan_completes p _ srcs false f hx h hm hp rfl hs hd
  simp only [hf] at done
  rwa [Flags.all_zero (by simp)] at done

theorem predOp_completes {p a : BitVec 3} {b : Option (BitVec 3)} {f : Bool → Bool → Bool} (hx : exec i s = issue i (predOp p a b f) s)
    (h : s.Ready t k c) (hm : Mask.none (t.acting c) = false) (hp : p ≠ 0) (ha : t.landed (wordUnits a (t.acting c)))
    (hb : ∀ q ∈ b, t.landed (wordUnits q (t.acting c))) (hd : s.writable t (wordUnits p (t.acting c))) :
    s.Completes i t k 1 (Mask.passes (t.acting c)) (Claims.predWrites t p (t.acting c) (predLane t a b f)) 0 := by
  refine predPlan_writes _ hx h hm hp (List.forall_mem_append.mpr ⟨List.forall_mem_singleton.mpr ha, ?_⟩) hd fun l _ => ?_
  · cases b with
    | none => exact List.forall_mem_nil _
    | some q => exact List.forall_mem_singleton.mpr (hb q rfl)
  · have lane (q : BitVec 3) : (Env.ofTeam s.cur t c (t.acting c) (t.acting c) 7).p q.toNat l = (t.flag q l, t.flagBad q l) := rfl
    cases b <;> simp only [lane, predLane, Option.any] <;> split <;> rfl

/-! ## p0 as a destination -/

/-- A ready word that fails an operand check traps (R29 step 7). -/
theorem issueWord_refused {p : Plan} {tr : Trap} (i' : Option Instr) (h : s.Ready t k c) (hm : Mask.none (t.acting c) = false)
    (present : p.absent s = false) (formed : p.ill = none) (placed : p.place t = none) (guarded : p.noGuard = false)
    (refused : p.regs t (t.acting c) = some tr) : ∃ t', s.Trapped (s.issueWord i' p) t t' tr.cause c.hdrVA := by
  have hd : s.issueWord i' p = s.takeTrap s.cur c.hdrVA (tr.atLane p.whole (t.acting c)) := by
    have hroom : t.stopRoom = none := by simp [Team.stopRoom, h.unarmed]
    have h1 : ¬ (t.status ≠ .running ∨ t.hold ≠ .none ∨ c.issued = false) := by simp [h.running, h.unheld, h.issued]
    simp only [Team.acting] at hm refused
    simp [State.issueWord, h.turn, h.opened, h1, h.onTime, hroom, h.unstopped, present, formed, placed, guarded, hm, h.whole.1, refused, Team.acting]
  rw [hd, ← Trap.cause_atLane tr p.whole (t.acting c)]
  exact takeTrap_trapped (current_team h.turn) (by simp [h.running]) _ _ _

theorem predOp_p0_traps {a : BitVec 3} {b : Option (BitVec 3)} {f : Bool → Bool → Bool} (hx : exec i s = issue i (predOp 0 a b f) s)
    (h : s.Ready t k c) (hm : Mask.none (t.acting c) = false) : ∃ s' t', exec i s = .next s' ∧ s.Trapped s' t t' 0x04 c.hdrVA := by
  obtain ⟨t', ht⟩ := issueWord_refused (p := predOp 0 a b f) (tr := .illegalOperand) (some i) h hm rfl rfl rfl rfl rfl
  exact ⟨_, t', hx, ht⟩

end

/-! ## The members -/

/-- A member carries out the plan of predicate operations on the sources it reads, with the function of the claims' table. -/
theorem predicateBinary_exec : ∀ op ∈ Claims.predicateBinary, ∀ (p a b : BitVec 3) (s : State),
    exec (op.1 p a b) s = issue (op.1 p a b) (predOp p a (some b) op.2) s := by
  simp only [Claims.predicateBinary, List.forall_mem_cons]
  exact ⟨fun _ _ _ _ => rfl, fun _ _ _ _ => rfl, fun _ _ _ _ => rfl, fun _ _ _ _ => rfl, List.forall_mem_nil _⟩

theorem predicateUnary_exec : ∀ op ∈ Claims.predicateUnary, ∀ (p a : BitVec 3) (s : State),
    exec (op.1 p a) s = issue (op.1 p a) (predOp p a none (fun x _ => op.2 x)) s := by
  simp only [Claims.predicateUnary, List.forall_mem_cons]
  exact ⟨fun _ _ _ => rfl, fun _ _ _ => rfl, List.forall_mem_nil _⟩

/-! ## The obligation -/

/-- With p0 as its destination every member traps, whatever its sources. -/
theorem predicate_p0_traps {s : State} {t : Team} {k : Crew} {c : Clause} (h : s.Ready t k c) (hm : Mask.none (t.acting c) = false) (a b : BitVec 3) :
    ∀ i ∈ Claims.predicateBinary.map (fun op => op.1 0 a b) ++ Claims.predicateUnary.map (fun op => op.1 0 a),
      ∃ s' t', exec i s = .next s' ∧ s.Trapped s' t t' 0x04 c.hdrVA := by
  refine List.forall_mem_append.mpr ⟨List.forall_mem_map.mpr fun op hop => ?_, List.forall_mem_map.mpr fun op hop => ?_⟩
  · exact predOp_p0_traps (predicateBinary_exec op hop 0 a b s) h hm
  · exact predOp_p0_traps (predicateUnary_exec op hop 0 a s) h hm

/-- Settles O3: the decoding of PRED member by member, each member through the one plan of predicate operations, and the operand check that
refuses p0 as a destination. -/
theorem predicateRule : Obligations.PredicateRule := by
  refine ⟨fun w lit hop => ⟨fun h0 => pred_decodes hop h0 lit, pred_noInstruction hop⟩, flag_p0, fun p a b s t k c h hm => ?_⟩
  refine ⟨fun hp ha hd => ?_, ?_⟩
  · refine ⟨fun op hop hb => ?_, fun op hop => ?_⟩
    · rw [← predLane_two]
      exact predOp_completes (predicateBinary_exec op hop p a b s) h hm hp ha (by simpa using hb) hd
    · rw [← predLane_one t a (fun x _ => op.2 x)]
      exact predOp_completes (predicateUnary_exec op hop p a s) h hm hp ha (by simp) hd
  · exact predicate_p0_traps h hm a b

end Sys2Proof.Machine
end

section
/-! PROOF. `ctok` and `tid` (R287): their words, the pair that each writes, and the odd destination that is refused. -/

namespace Sys2Proof.Machine

/-! ## The words of opcode 0x38 -/

theorem decode_card {w : Word} (h : opcodeOf w = 0x38) (lit : Word) : decode w lit = decodeOp38 w := by simp [decode, h]

/-- FN 2 is `ctok` and FN 3 is `tid`, where `sa` and `imm8` are 0. -/
theorem card_decodes {w : Word} (hop : opcodeOf w = 0x38) (h0 : fld w 0 15 = 0) (lit : Word) :
    (fnOf w = 2 → decode w lit = .ok (.ctok (fld w 15 7))) ∧ (fnOf w = 3 → decode w lit = .ok (.tid (fld w 15 7))) := by
  have named (i : Instr) := need_true (fixed_zero_iff.mpr h0) i
  rw [decode_card hop, decodeOp38, opcode38]
  refine ⟨fun hfn => ?_, fun hfn => ?_⟩ <;> rw [hfn]
  exacts [named _, named _]

/-- A word of opcode 0x38 with an unassigned FN, or one of `ctok` or `tid` that sets a bit of `sa` or `imm8`. -/
def badCard (w : Word) : Prop := 4 ≤ fnOf w ∨ (2 ≤ fnOf w ∧ fld w 0 15 ≠ 0)

theorem decodeOp38_error {w : Word} (h : badCard w) : ∃ e, decodeOp38 w = .error e := by
  have reserved (hfn : fnOf w < 4) : fixed w 0 15 0 ≠ true := by
    rw [Ne, fixed_zero_iff]
    rcases h with h | ⟨-, h⟩ <;> [omega; exact h]
  have assigned : 2 ≤ fnOf w := by rcases h with h | ⟨h, -⟩ <;> omega
  unfold decodeOp38 opcode38
  split
  · omega
  · omega
  · exact ⟨_, need_false (reserved (by omega)) _⟩
  · exact ⟨_, need_false (reserved (by omega)) _⟩
  · exact ⟨_, rfl⟩

theorem card_noInstruction {w : Word} (hop : opcodeOf w = 0x38) (h : badCard w) : Claims.noInstruction w :=
  fun lit net => ⟨decode_card hop lit ▸ decodeOp38_error h, badWordTrap_cause (by simp [hop]) net⟩

/-! ## The pair that a word writes from its crew's card -/

section
variable {s : State} {t : Team} {k : Crew} {c : Clause} {i : Instr} {i' : Option Instr} {d : BitVec 7}

/-- The team whose turn it is belongs to the crew whose turn it is, also once the team is stored again. -/
theorem crewOf_current (h : s.current = some (t, k)) : (s.setTeam s.cur t).crewOf s.cur = some (t, k) := by
  have hcrew : s.crew? t.crew = some k := by
    simp only [State.current, current_team h] at h
    cases hk : s.crew? t.crew with
    | none => simp [hk] at h
    | some k' => simpa [hk] using h
  simp [State.crewOf, hcrew]

/-- Storing a team leaves the cards. -/
@[simp] theorem State.card?_setTeam (s : State) (u : Nat) (t : Team) (n : BitVec 32) : (s.setTeam u t).card? n = s.card? n := rfl

theorem pairWrites_nodup (d : BitVec 7) (x : BitVec 64) : ((pairWrites d x).map Prod.fst).Nodup := by simp [pairWrites]

theorem evenU_even (h : d.toNat % 2 = 0) : evenU d = none := if_neg (by omega)
theorem evenU_odd (h : d.toNat % 2 = 1) : evenU d = some .illegalOperand := if_pos h

/-- A word that writes an even pair from its crew's card reads no register, so only its destination can keep it back. -/
theorem pairPlan_goes {x : State → Team → Crew → BitVec 64} (hm : Mask.none (t.acting c) = false) (heven : d.toNat % 2 = 0)
    (hd : s.writable t (Claims.pairUnits d)) : (pairPlan d x).Goes s t k c (t.acting c) where
  present := rfl
  formed := rfl
  placed := rfl
  regs := evenU_even heven
  priv := rfl
  room := fun _ => t.fullW_none
  held := List.forall_mem_nil _
  srcs := List.forall_mem_nil _
  part := List.forall_mem_nil _
  dsts := writable_landed hd
  behind := rfl
  atOnce := rfl
  acts := rfl
  someLane := hm

/-- It completes with the value that the plan takes of the state, the team and the crew. -/
theorem pairPlan_completes {x : State → Team → Crew → BitVec 64} {v : BitVec 64} (hx : exec i s = .next (s.issueWord i' (pairPlan d x)))
    (h : s.Ready t k c) (hm : Mask.none (t.acting c) = false) (heven : d.toNat % 2 = 0) (hd : s.writable t (Claims.pairUnits d))
    (hv : x (s.setTeam s.cur t) t k = v) : s.Completes i t k 1 1 (Claims.pair d v) 0 := by
  have hact : (pairPlan d x).act (Env.ofTeam s.cur t c (t.acting c) (t.acting c) 7) (s.setTeam s.cur t)
      = .ok { s := s.setTeam s.cur t, writes := Claims.pair d v } := by
    simp only [pairPlan, Env.ofTeam, crewOf_current h.turn, hv]; rfl
  exact completes_of hx h (pairPlan_goes hm heven hd) rfl hact (pairWrites_nodup d v) (by simp [Claims.pair, UnitRef.fits])
    (writable_fresh [(0 : Nat), 1] (fun j => UnitRef.uni (d.toNat + j)) (fun j => UnitVal.w (.word (v.extractLsb' (32 * j) 32))) hd) rfl rfl

/-- An odd destination is refused before anything of the card is read. -/
theorem pairPlan_odd_traps {x : State → Team → Crew → BitVec 64} (hx : exec i s = .next (s.issueWord i' (pairPlan d x)))
    (h : s.Ready t k c) (hm : Mask.none (t.acting c) = false) (hodd : d.toNat % 2 = 1) :
    ∃ s' t', exec i s = .next s' ∧ s.Trapped s' t t' 0x04 c.hdrVA := by
  obtain ⟨t', ht⟩ := issueWord_refused (p := pairPlan d x) i' h hm rfl rfl rfl rfl (evenU_odd hodd)
  exact ⟨_, t', hx, ht⟩

end

/-! ## `ctok` and `tid` carried out -/

/-- Of two bit vectors side by side the left one counts in units of the right one's range. -/
theorem toNat_append_eq_add {a b : Nat} (x : BitVec a) (y : BitVec b) : (x ++ y).toNat = x.toNat * 2 ^ b + y.toNat := by
  rw [BitVec.toNat_append, ← Nat.shiftLeft_add_eq_or_of_lt y.isLt, Nat.shiftLeft_eq]

/-- The fields of `tid` side by side are the sum of their numbers, each at its place. -/
theorem identity_eq_sum (n m j : Nat) (role : BitVec 2) (tid : BitVec 32) :
    (0#4 ++ BitVec.ofNat 4 n ++ 0#3 ++ role ++ BitVec.ofNat 3 m ++ BitVec.ofNat 16 j ++ tid : BitVec 64)
      = BitVec.ofNat 64 (tid.toNat + 2 ^ 32 * (j % 2 ^ 16) + 2 ^ 48 * (m % 8) + 2 ^ 51 * role.toNat + 2 ^ 56 * (n % 16)) := by
  have hrole := role.isLt
  have htid := tid.isLt
  apply BitVec.eq_of_toNat_eq
  simp only [toNat_append_eq_add, BitVec.toNat_ofNat]
  omega

section
variable {s : State} {t : Team} {k : Crew} {c : Clause} {x : Card} {d : BitVec 7}

theorem ctok_completes (h : s.Ready t k c) (hm : Mask.none (t.acting c) = false) (hcard : s.card? k.tid = some x) (heven : d.toNat % 2 = 0)
    (hd : s.writable t (Claims.pairUnits d)) : s.Completes (.ctok d) t k 1 1 (Claims.pair d x.token) 0 := by
  refine pairPlan_completes (i' := none) rfl h hm heven hd ?_
  rw [State.card?_setTeam, hcard]

theorem tid_completes (h : s.Ready t k c) (hm : Mask.none (t.acting c) = false) (hcard : s.card? k.tid = some x) (heven : d.toNat % 2 = 0)
    (hd : s.writable t (Claims.pairUnits d)) :
    s.Completes (.tid d) t k 1 1 (Claims.pair d (BitVec.ofNat 64 (k.tid.toNat + 2 ^ 32 * (k.index % 2 ^ 16) + 2 ^ 48 * (t.num % 8)
      + 2 ^ 51 * t.role.toNat + 2 ^ 56 * (x.relaunches % 16)))) 0 := by
  refine pairPlan_completes (i' := none) rfl h hm heven hd ?_
  simp only [State.card?_setTeam, hcard]
  exact identity_eq_sum x.relaunches t.num k.index t.role k.tid

theorem card_odd_traps (h : s.Ready t k c) (hm : Mask.none (t.acting c) = false) (hodd : d.toNat % 2 = 1) :
    ∀ i ∈ [Instr.ctok d, .tid d], ∃ s' t', exec i s = .next s' ∧ s.Trapped s' t t' 0x04 c.hdrVA := by
  simp only [List.forall_mem_cons]
  exact ⟨pairPlan_odd_traps (i' := none) rfl h hm hodd, pairPlan_odd_traps (i' := none) rfl h hm hodd, List.forall_mem_nil _⟩

end

/-! ## The obligation -/

/-- Settles O37: the decoding of the two words, both carried out by the one plan that writes an even pair from the crew's card, and the operand
check that refuses an odd destination. -/
theorem cardIdentityRule : Obligations.CardIdentityRule := by
  refine ⟨fun w lit hop => ⟨fun h0 => card_decodes hop h0 lit, card_noInstruction hop⟩, fun d s t k c x h hm hcard => ?_⟩
  exact ⟨fun heven hd => ⟨ctok_completes h hm hcard heven hd, tid_completes h hm hcard heven hd⟩, card_odd_traps h hm⟩

end Sys2Proof.Machine
end
